-- ==== Sys2Proof/Word.lean ====
section
/-!
DEFINITION. Word types: the register word (R6), bytes and byte strings (R4), and the sparse
table that holds one entry for each member of a large family of like things.
-/
namespace Sys2Proof

/-- One byte. -/
abbrev Byte := BitVec 8

/-- A register word: every register is 32 bits wide (R6). -/
abbrev Word := BitVec 32

/-- A byte string, the byte at the lowest address first (R4). -/
abbrev Bytes := List Byte

/-- A round number: a value of ROUND_COUNT (R5, R39). -/
abbrev Round := Nat

/-- A sparse table: keys strictly rising, no entry equal to the table's default. -/
abbrev SMap (α : Type) := List (Nat × α)

end Sys2Proof
end

