-- ==== Sys2Proof/Syntax.lean ====
section
/-!
DEFINITION. The commands of the GV-7128: one constructor of Instr for each row of the table of
operations and events, with the operand types they use.
-/
namespace Sys2Proof

/-- A PCIe function, in the layout of IDENT.FUNC_ID (R37): port, link of a bifurcated port, and
0 for the physical function or 1-63 for a virtual function. -/
structure Func where
  port : Fin 2
  link : Fin 2
  vf   : Fin 64
  deriving DecidableEq, Repr

/-- A G8 core: the core of a lane, or the lockstep house pair (R250, R275). -/
inductive CoreId where
  | lane (l : Fin 128)
  | house
  deriving DecidableEq, Repr

/-- What host memory answers to a read of the device (R104, R106, R111). -/
inductive HostData where
  /-- the bytes read -/
  | data (b : Bytes)
  /-- poisoned data -/
  | poisoned
  /-- Unsupported Request or Completer Abort -/
  | refused
  /-- Completion Timeout -/
  | timeout
  deriving DecidableEq, Repr

/-- An upset of one stored word (R313-R318): the memory's identifier, the word (or granule when tag is
true), and whether it is beyond correction. -/
structure Upset where
  mem    : Nat
  word   : Nat
  tag    : Bool
  double : Bool
  deriving DecidableEq, Repr

/-- What the outside world brings to one round: the raw samples of the four noise sources (R231; bit 0
is the first of the eight), a difference of the two deal sheets (R46), upsets of stored words, a
nonzero wipe read-back (R224), and a difference forced between the house cores (R275). -/
structure RoundEnv where
  noise        : Bytes
  sheetsDiffer : Bool
  upsets       : List Upset
  wipeBad      : Bool
  houseUpset   : Byte
  deriving DecidableEq, Repr

/-- Who waits for random blocks under the limit of R243. -/
inductive RngWaiter where
  | flight (seat : Fin 8192) (sq : Nat)
  | engine (deck : Fin 16)
  deriving DecidableEq, Repr

/-- One sample of a tamper monitor (R324): the measured quantity, and, for a source that has no
measured quantity, whether its condition is present. -/
structure Sample where
  value : Int
  cond  : Bool
  deriving DecidableEq, Repr

/-- Rates of a link: 64, 32, 16 and 8 GT/s (R81). -/
inductive LinkRate where
  | gt64 | gt32 | gt16 | gt8
  deriving DecidableEq, Repr

/-- How a link has trained (R81): its rate, whether in FLIT mode, and its lanes. -/
structure LinkMode where
  rate  : LinkRate
  flit  : Bool
  lanes : Nat
  deriving DecidableEq, Repr

/-- A link mode R81 allows: 64 GT/s is FLIT mode always, and a link has at most 16 lanes. -/
def LinkMode.wf (m : LinkMode) : Bool :=
  (m.flit || decide (m.rate ≠ .gt64)) && [1, 2, 4, 8, 16].contains m.lanes

/-- A link of a port that has come up, and how it has trained. -/
structure LinkUp where
  link : Fin 2
  mode : LinkMode
  deriving DecidableEq, Repr

/-- An MSI-X vector of a function with the address and data its table entry holds. -/
structure VectorEntry where
  vector : BitVec 11
  addr   : BitVec 64
  data   : BitVec 32
  deriving DecidableEq, Repr

/-- The commands: one constructor for each row of the table. -/
inductive Instr where
  -- time and the dealer
  | roundTick (env : RoundEnv)
  | segmentFinalRound (lane : Fin 128)
  | handWaitExpiry (seat : Fin 8192) (sq : Nat)
  | rngWaitExpiry (who : RngWaiter)
  -- ring engine and host link
  | completionWrite (seat : Fin 8192)
  | coalTimerExpiry (seat : Fin 8192)
  | linkWriteDepart (port link : Fin 2)
  | doorbell (f : Func) (off : Nat) (data : Bytes)
  | descriptorFetch (seat : Fin 8192)
  | fetchReturn (seat : Fin 8192) (d : HostData)
  | fragmentListFetch (seat : Fin 8192) (sq : Nat)
  | fragmentListReturn (seat : Fin 8192) (sq : Nat) (dst : Bool) (d : HostData)
  | kittyLock (seat : Fin 8192) (sq : Nat)
  | stagingReservation (seat : Fin 8192) (sq : Nat)
  | payloadReadReturn (seat : Fin 8192) (sq : Nat) (expected : Bool) (d : HostData)
  | drainEnd (seat : Fin 8192)
  | arm (f : Func) (seat : Fin 8192)
  | disarm (f : Func) (seat : Fin 8192)
  | enable (f : Func) (seat : Fin 8192)
  | drain (f : Func) (seat : Fin 8192)
  | clearHalt (f : Func) (seat : Fin 8192)
  | forceHalt (f : Func) (seat : Fin 8192)
  | seatBind (f : Func) (seat : Fin 8192) (v : Word)
  | irqCfg (f : Func) (seat : Fin 8192) (v : Word)
  -- registers
  | dealLaneEn (f : Func) (w : Fin 4) (v : Word)
  | irqStatus (f : Func) (v : Word) (sameCycle : Word)
  | registerWrite (f : Func) (off size : Nat) (v : Word)
  | lowerWordRead (f : Func) (off size : Nat)
  | upperWordRead (f : Func) (off size : Nat)
  | dbDiscardCnt (f : Func) (whole : Bool)
  | dealHandBusyCnt (f : Func) (whole : Bool)
  | kittyRefuseCnt (f : Func) (whole : Bool)
  | kittyDenyCnt (f : Func) (whole : Bool)
  | laneMigWaitCnt (f : Func) (whole : Bool)
  | pkeInvalidCnt (f : Func) (whole : Bool)
  | pkeDsaMax (f : Func) (whole : Bool)
  | keysDenyCnt (f : Func) (whole : Bool)
  | rngUnavailCnt (f : Func) (whole : Bool)
  | protSuitFaultCnt (f : Func) (whole : Bool)
  | protSpanCnt (f : Func) (whole : Bool)
  | debugDenyCount (f : Func) (whole : Bool)
  | memUeCnt (f : Func) (whole : Bool)
  | houseMsg (f : Func) (whole : Bool)
  -- the kitty
  | flagWrite (f : Func) (off : Nat) (data : Bytes) (sameCycle : Bool)
  | slotDataRead (f : Func) (off len : Nat)
  | slotDataWrite (f : Func) (off : Nat) (data : Bytes)
  -- public-key engines
  | engineStart (deck : Fin 16)
  | engineOperationEnd (deck : Fin 16)
  | engineCollect (deck : Fin 16)
  -- random bits
  | conditionedWord (src : Fin 4)
  | sourceStartupEnd (src : Fin 4)
  | expanderInstantiate (b : Bool)
  | expanderReseed (b : Bool)
  | seedOperationEnd (b : Bool)
  | generateRequest (b : Bool)
  | reseedHalving
  -- key store
  | zeroise (f : Func)
  | wipeEnd
  | rearm (f : Func)
  | rearmComplete
  -- tamper
  | monitorSample (src : Fin 28) (v : Sample)
  | freezeClear (f : Func)
  | tampTest (f : Func) (v : Word)
  | tampTestEnd
  | tampRtcSet (f : Func) (v : Word)
  | tampTripped (f : Func) (v : Word) (sameCycle : Word)
  -- power, boot and links
  | aonLoss
  | vbatApplied
  | mainPowerLoss
  | perstAssert (port : Fin 2)
  | perstRelease (port : Fin 2) (railsGood : Bool)
  | flashReady
  | bootPhaseLimit
  | standbyRequest (f : Func)
  | runRequest (f : Func)
  | aonOnlyRequest (f : Func)
  | configurationRequest (f : Func)
  | linkEvent (port : Fin 2) (up : LinkUp)
  -- memory integrity, debug, house orders
  | eccWriteBack (mem word : Nat)
  | leakDecrement
  | protRetag (v : Word)
  | debugAccess (addr len : Nat) (write : Option Bytes)
  | scoreSheet
  | laneRestart (lane : Fin 128)
  | ready (lane : Fin 128)
  | retag (lane : Fin 128) (page : Fin 16) (suit : BitVec 16)
  | regionSet (lane : Fin 128) (r : Fin 16) (w0 w1 : Word)
  | ptReload (lane : Fin 128)
  | note (lane : Fin 128) (w : BitVec 16)
  -- G8 cores
  | interruptEntry (c : CoreId)
  | storeDrain (c : CoreId)
  | lateStoreInfo (c : CoreId)
  | irqPend (c : CoreId) (v : Byte) (sameCycle : Byte)
  | ld (c : CoreId)
  | st (c : CoreId)
  | lea (c : CoreId)
  | mov (c : CoreId)
  | push (c : CoreId)
  | pop (c : CoreId)
  | g8Nop (c : CoreId)
  | add (c : CoreId)
  | adc (c : CoreId)
  | sub (c : CoreId)
  | sbc (c : CoreId)
  | cmp (c : CoreId)
  | and (c : CoreId)
  | or (c : CoreId)
  | xor (c : CoreId)
  | bit (c : CoreId)
  | shl (c : CoreId)
  | shr (c : CoreId)
  | sar (c : CoreId)
  | rol (c : CoreId)
  | ror (c : CoreId)
  | inc (c : CoreId)
  | dec (c : CoreId)
  | cpr (c : CoreId)
  | mul (c : CoreId)
  | adw (c : CoreId)
  | sbw (c : CoreId)
  | cselt (c : CoreId)
  | cself (c : CoreId)
  | maskt (c : CoreId)
  | maskf (c : CoreId)
  | bt (c : CoreId)
  | bf (c : CoreId)
  | jmp (c : CoreId)
  | call (c : CoreId)
  | ret (c : CoreId)
  | loop (c : CoreId)
  | wait (c : CoreId)
  | fence (c : CoreId)
  | play (c : CoreId)
  | gate (c : CoreId)
  | mcall (c : CoreId)
  | retx (c : CoreId)
  | reservedOpc (c : CoreId)
  -- descriptor opcodes
  | nop (seat : Fin 8192) (sq : Nat)
  | ecb (lane : Fin 128)
  | cbc (lane : Fin 128)
  | ctr (lane : Fin 128)
  | xts (lane : Fin 128)
  | cmac (lane : Fin 128)
  | gmac (lane : Fin 128)
  | gcm (lane : Fin 128)
  | ccm (lane : Fin 128)
  | kwp (lane : Fin 128)
  | hash (lane : Fin 128)
  | hmac (lane : Fin 128)
  | kmac (lane : Fin 128)
  | rsaPublic (deck : Fin 16)
  | rsaPrivate (deck : Fin 16)
  | rsaOaepEncrypt (deck : Fin 16)
  | rsaOaepDecrypt (deck : Fin 16)
  | rsaPssSign (deck : Fin 16)
  | rsaPssVerify (deck : Fin 16)
  | rsaV15Sign (deck : Fin 16)
  | rsaV15Verify (deck : Fin 16)
  | dhKeygen (deck : Fin 16)
  | dhDerive (deck : Fin 16)
  | ecKeygen (deck : Fin 16)
  | ecdsaSign (deck : Fin 16)
  | ecdsaVerify (deck : Fin 16)
  | ecdh (deck : Fin 16)
  | eddsaSign (deck : Fin 16)
  | eddsaVerify (deck : Fin 16)
  | mlkemKeygen (deck : Fin 16)
  | mlkemEncaps (deck : Fin 16)
  | mlkemDecaps (deck : Fin 16)
  | mldsaKeygen (deck : Fin 16)
  | mldsaSign (deck : Fin 16)
  | mldsaVerify (deck : Fin 16)
  | handAlloc (seat : Fin 8192) (sq : Nat)
  | handFree (seat : Fin 8192) (sq : Nat)
  | slotClear (seat : Fin 8192) (sq : Nat)
  | keyGen (seat : Fin 8192) (sq : Nat)
  | keyWrap (lane : Fin 128)
  | keyUnwrap (lane : Fin 128)
  | slotInfo (seat : Fin 8192) (sq : Nat)
  | usageTighten (seat : Fin 8192) (sq : Nat)
  | slotSave (lane : Fin 128)
  | slotRestore (lane : Fin 128)
  | pubkeyRead (seat : Fin 8192) (sq : Nat)
  | slotRetype (seat : Fin 8192) (sq : Nat)
  | random (seat : Fin 8192) (sq : Nat)
  | storeInit (seat : Fin 8192) (sq : Nat)
  | suitAssign (seat : Fin 8192) (sq : Nat)
  | componentLoad (seat : Fin 8192) (sq : Nat)
  | policyWiden (seat : Fin 8192) (sq : Nat)
  | ownerSet (seat : Fin 8192) (sq : Nat)
  | tcrCommit (seat : Fin 8192) (sq : Nat) (bankBad : Bool)
  | latchClear (seat : Fin 8192) (sq : Nat)
  | lifecycleSet (seat : Fin 8192) (sq : Nat) (fuseBad : Bool)
  | applet (lane : Fin 128)
  -- custodian slots and quorum sessions
  | slotInsertion (n : Fin 2)
  | slotRemoval (n : Fin 2)
  | slotOvercurrent (n : Fin 2)
  | activate (f : Func) (n : Fin 2)
  | eraseToken (f : Func) (n : Fin 2)
  | deactivate (f : Func) (n : Fin 2)
  | slotPwCtrl (f : Func) (n : Fin 2) (v : Word)
  | opcond (n : Fin 2)
  | slotSleepTimer (n : Fin 2)
  | ryenoResponse (n : Fin 2) (frame : Bytes) (repeated : Bool)
  | responseTimeout (n : Fin 2)
  | busyLimit (n : Fin 2)
  | atr (n : Fin 2) (b : Bytes)
  | atrTimeout (n : Fin 2)
  | ppsResponse (n : Fin 2) (b : Bytes)
  | cardResponse (n : Fin 2) (data : Bytes) (sw : BitVec 16)
  | waitingTimeExpiry (n : Fin 2)
  | quorumOpen (f : Func) (m : BitVec 4)
  | quorumClose (f : Func)
  | quorumLimit
  | challengeDraw (n : Fin 2)
  -- sideband and test access
  | getStatus
  | readReg (off : Nat)
  | readLog (k : Nat)
  | readScore (k : Nat)
  | setPower (v : BitVec 2)
  | flashErase (sector : Nat)
  | flashWrite (addr : Nat) (data : Bytes)
  | setEndpointId (eid : Byte)
  | getEndpointId
  | getMctpVersionSupport (msgType : Byte)
  | getMessageTypeSupport
  | getVendorDefinedMessageSupport
  | bypass
  | idcode
  | samplePreload (pins : Bytes)
  | extest
  | debug
  | mainPowerGood
  | characterRepetition (n : Fin 2)
  | nullByte (n : Fin 2)
  | vectorUnmask (f : Func) (entry : VectorEntry)
  deriving DecidableEq, Repr

end Sys2Proof
end

