-- ==== Sys2Proof/Decode.lean ====
section
/-!
DEFINITION. Commands spelled by bits. The table of operations and events gives none of its rows an encoding,
so no word spells a command. (The G8 cores' own instruction words, R253 to R258, are read from the cores'
memory by Machine/Operands.lean.)
-/
namespace Sys2Proof

/-- The command a word spells by the table's bits: the table gives no row any bits. -/
def decodeTableWord (_nbits _w : Nat) : Option Instr := none

end Sys2Proof
end

