-- ==== Sys2Proof/Machine/Bytes.lean ====
section
/-!
DEFINITION. Byte order, bit fields and check codes: little-endian structures (R4), big-endian integers of
the engines (R185), CRC-32C of the TCR, DCR and score sheet (R337), CRC-16 of the token link (R353).
-/
namespace Sys2Proof.Machine

/-- A little-endian integer (R4). -/
def leNat : Bytes → Nat
  | [] => 0
  | b :: t => b.toNat + 256 * leNat t

/-- n bytes of a little-endian integer (R4). -/
def natLe : Nat → Nat → Bytes
  | 0, _ => []
  | n + 1, v => BitVec.ofNat 8 v :: natLe n (v / 256)

/-- A big-endian octet string as an integer (R185). -/
def beNat (b : Bytes) : Nat := leNat b.reverse

/-- n big-endian bytes of an integer (R185). -/
def natBe (n v : Nat) : Bytes := (natLe n v).reverse

/-- n bytes from an offset. -/
def slice (b : Bytes) (off n : Nat) : Bytes := (b.drop off).take n

/-- The byte at an offset; bytes past the end read as zero (R129). -/
def byteAt (b : Bytes) (i : Nat) : Byte := b.getD i 0

/-- The first n bytes, filled with zero (R129). -/
def padTo (n : Nat) (b : Bytes) : Bytes := b.take n ++ List.replicate (n - b.length) 0

/-- A little-endian field of a structure. -/
def leField (b : Bytes) (off n : Nat) : Nat := leNat (slice b off n)

/-- b with the bytes from an offset replaced. -/
def patch (b : Bytes) (off : Nat) (v : Bytes) : Bytes := b.take off ++ v ++ b.drop (off + v.length)

/-- Byte-wise exclusive or over the shorter length. -/
def xorBytes (a b : Bytes) : Bytes := List.zipWith (· ^^^ ·) a b

/-- Whether every byte is zero. -/
def allZero (b : Bytes) : Bool := b.all (· == 0)

/-- Bits [hi:lo] of a number (R3). -/
def bits (v hi lo : Nat) : Nat := v / 2 ^ lo % 2 ^ (hi + 1 - lo)

/-- Bits [hi:lo] of a bit vector (R3). -/
def fld {w : Nat} (v : BitVec w) (hi lo : Nat) : Nat := bits v.toNat hi lo

/-- Bit i of a bit vector (R3). -/
def bit {w : Nat} (v : BitVec w) (i : Nat) : Bool := v.getLsbD i

/-- A one-bit number. -/
def b2n (b : Bool) : Nat := if b then 1 else 0

/-- v with bit i set or cleared. -/
def setBit {w : Nat} (v : BitVec w) (i : Nat) (b : Bool) : BitVec w :=
  if b then v ||| BitVec.ofNat w (2 ^ i) else v &&& ~~~ BitVec.ofNat w (2 ^ i)

/-- Quotient rounded up. -/
def ceilDiv (a b : Nat) : Nat := (a + b - 1) / b

/-- A 32-bit counter that saturates (R80, R88, R125, ...). -/
def satAdd (c : Word) (n : Nat) : Word := BitVec.ofNat 32 (min 0xFFFFFFFF (c.toNat + n))

/-- A word assembled from numbers already in place. -/
def mkWord (n : Nat) : Word := BitVec.ofNat 32 n

/-- Consecutive pieces of n bytes; n = 0 gives none. The fuel is the length. -/
def chunksAux (n : Nat) : Nat → Bytes → List Bytes
  | 0, _ => []
  | _ + 1, [] => []
  | k + 1, b => b.take n :: chunksAux n k (b.drop n)

/-- A byte string cut into pieces of n bytes, the last one perhaps shorter. -/
def chunks (n : Nat) (b : Bytes) : List Bytes := if n = 0 then [] else chunksAux n b.length b

/-- One bit step of the reflected CRC-32C register (R337: polynomial 0x1EDC_6F41). -/
def crc32cBit (c : BitVec 32) : BitVec 32 :=
  if c.getLsbD 0 then (c >>> 1) ^^^ 0x82F63B78 else c >>> 1

/-- One byte step of CRC-32C. -/
def crc32cByte (c : BitVec 32) (b : Byte) : BitVec 32 :=
  (List.range 8).foldl (fun x _ => crc32cBit x) (c ^^^ b.setWidth 32)

/-- CRC-32C with initial value and final XOR 0xFFFF_FFFF (R337). -/
def crc32c (b : Bytes) : BitVec 32 := b.foldl crc32cByte 0xFFFFFFFF ^^^ 0xFFFFFFFF

/-- One bit step of CRC-16 with polynomial 0x1021, not reflected (R353). -/
def crc16Bit (c : BitVec 16) : BitVec 16 :=
  if c.getLsbD 15 then (c <<< 1) ^^^ 0x1021 else c <<< 1

/-- CRC-16 with initial value 0xFFFF (R353). -/
def crc16 (b : Bytes) : BitVec 16 :=
  b.foldl (fun c x => (List.range 8).foldl (fun y _ => crc16Bit y) (c ^^^ ((x.setWidth 16 : BitVec 16) <<< 8))) 0xFFFF

end Sys2Proof.Machine
end

