-- ==== Sys2Proof/Machine/State.lean ====
section
/-!
DEFINITION. The state of the GV-7128 as plain data, and its value right after a main reset at the first
power-up. Each field's comment gives its width, the file and rule that name it, and its reset value.
-/
namespace Sys2Proof.Machine

/-! ## Names of fixed sets -/

/-- Completion status codes (R14). -/
inductive Status where
  | done | mismatch | pointInvalid | rangeInvalid | paramInvalid | suitFault | bounds | policy
  | eccUncorrectable | aborted | seatHalted | rngUnavailable | handleStale | handBusy | zeroised
  | quorumRequired | internal
  deriving DecidableEq, Repr

/-- Seat states (R90, SEAT_STATUS.STATE). -/
inductive SeatState where
  | off | armed | run | draining | halted
  deriving DecidableEq, Repr

/-- Causes of a seat halt (HALT_INFO.CAUSE, R111). -/
inductive HaltCause where
  | none | dmaData | sqDoorbell | cqDoorbell | forced
  deriving DecidableEq, Repr

/-- Roles of a descriptor in a message (R93, R163). -/
inductive Role where
  | one | start | cont | finish
  deriving DecidableEq, Repr

/-- Power states (R375). -/
inductive PowerState where
  | off | aonOnly | standby | run
  deriving DecidableEq, Repr

/-- States of the RNG (R244). -/
inductive RngState where
  | startup | run | failed
  deriving DecidableEq, Repr

/-- States of an expander (R236, R237). -/
inductive ExpState where
  | empty | instantiating | ready | reseeding | waitSeed
  deriving DecidableEq, Repr

/-- Lifecycle states (R386). -/
inductive Lifecycle where
  | blank | provisioned | sealed | retired
  deriving DecidableEq, Repr

/-- States of a custodian slot (SLOT_STATUS.STATE, R374). -/
inductive SlotSt where
  | off | probing | ready | sleep | busy | fault
  deriving DecidableEq, Repr

/-- States of a quorum session (R370). -/
inductive QuorumSt where
  | idle | gather | open_
  deriving DecidableEq, Repr

/-- How the last quorum session ended (SLOT_QSTATUS.END). -/
inductive QuorumEnd where
  | none | closed | limit | indeterminate | erase | reset
  deriving DecidableEq, Repr

/-- States of a lane (R50). -/
inductive LaneState where
  | idle | play | dummy | drain | halt
  deriving DecidableEq, Repr

/-- What the device puts on the host link (R86, R105, R106, R110). -/
inductive WriteKind where
  | payload | completion | shadow | msix (vector : BitVec 11)
  deriving DecidableEq, Repr

/-! ## Host link -/

/-- One memory write of the device, waiting to leave its port and link (R86). -/
structure LinkWrite where
  func   : Func
  addr   : BitVec 64
  data   : Bytes
  kind   : WriteKind
  issued : Round
  deriving DecidableEq, Repr

/-- One entry of a function's MSI-X table (R19, R82). -/
structure MsixEntry where
  addr : BitVec 64
  data : BitVec 32
  deriving DecidableEq, Repr

/-- What a function's configuration space says: what its port advertises (R81), its virtual functions and MSI-X table
(R82), and the rest (free value). -/
structure ConfigSpace where
  maxPayload : Nat
  msix     : Bool
  msixSize : Nat
  sriov    : Bool
  vfs      : Nat
  ats      : Bool
  pasid    : Bool
  peer     : Bool
  ide      : Bool
  rest     : Word
  deriving DecidableEq, Repr

/-- The host link: configured functions, queues of writes and MSI-X vectors. -/
structure Link where
  /-- writes waiting per port and link (key 2 x port + link), oldest first; 03 R86; reset empty -/
  queue  : SMap (List LinkWrite)
  /-- bytes that left each link this round; 03 R82, R86; reset 0 -/
  used   : SMap Nat
  /-- last write that left each link; 03 R86; reset none -/
  left   : SMap (Option LinkWrite)
  /-- MSI-X vectors unmasked, key 2048 x function + vector; 03 R110; reset none unmasked (PRESUMED, log entry 9) -/
  unmasked : SMap Bool
  /-- MSI-X messages held pending by a mask, same keys; 03 R110; reset none -/
  msiPend  : SMap Bool
  /-- MSI-X table entries, same keys: message address and data; 01 R19, 03 R82; reset 0 (DESIGN CHOICE, log entry 125) -/
  msix     : SMap MsixEntry
  /-- how each port and link has trained, same keys as queue: none at its full rate and width; 03 R81; reset none -/
  mode     : SMap (Option LinkMode)
  deriving DecidableEq, Repr

/-- The answer of the device to the last access that has one: a model's view of its outputs. -/
inductive Answer where
  /-- nothing answered yet -/
  | none
  /-- one register word -/
  | word (w : Word)
  /-- bytes: slot data, a log entry, a score sheet, a scan register -/
  | bytes (b : Bytes)
  /-- poisoned read data (R119, R318) -/
  | poison
  /-- Configuration Request Retry Status (R83) -/
  | retry
  /-- what a function's configuration space says (R81, R82) -/
  | config (c : ConfigSpace)
  /-- an error response (R312, R392) -/
  | error
  deriving DecidableEq, Repr

/-- The IRQ block of one physical function (R113). -/
structure IrqBlock where
  /-- 32 bits; 03 R113; reset 0. IRQ_STATUS -/
  status  : Word
  /-- 32 bits; 03 R113; reset 0. IRQ_ENABLE -/
  enable  : Word
  /-- 11 bits; 03 R113; reset 0. IRQ_VECTOR -/
  vector  : BitVec 11
  /-- 32 bits; 03 R113; reset 0. IRQ_ERR_INFO -/
  errInfo : Word
  deriving DecidableEq, Repr

/-- A register value that is replaced from a later round on (R89, R190, R249, R322, R378). -/
structure Deferred (α : Type) where
  cur   : α
  prev  : α
  from_ : Round
  deriving DecidableEq, Repr

/-! ## Descriptors and seats -/

/-- A submission descriptor (R93). -/
structure Desc where
  opcode   : Byte
  mode     : Byte
  xfer     : Byte
  ctrl     : Byte
  key0     : BitVec 32
  key1     : BitVec 32
  keySlots : Byte
  trunc    : Byte
  srcFrags : BitVec 16
  src      : BitVec 64
  dst      : BitVec 64
  len      : BitVec 32
  auxLen   : BitVec 32
  dstCap   : BitVec 32
  dstFrags : BitVec 16
  resv     : BitVec 16
  inl      : Bytes
  deriving DecidableEq, Repr

/-- One entry of a fragment list (R96). -/
structure Frag where
  addr  : BitVec 64
  len   : Nat
  flags : BitVec 32
  deriving DecidableEq, Repr

/-- A decided status (R107). -/
structure Decided where
  status : Status
  detail : BitVec 16
  round  : Round
  house  : Bool
  deriving DecidableEq, Repr

/-- A SEAT_CTRL write that takes effect in the next round, with the states of the rows it stands for, or the end of a
drain (R76, R90). -/
inductive SeatMove where
  | write (v : Word) (rows : List SeatState)
  | drained
  deriving DecidableEq, Repr

/-- What a read request of the device asks host memory for (R85, R97, R109, R171). -/
inductive ReadKind where
  | srcList | dstList | payload | expected
  deriving DecidableEq, Repr

/-- A read request on its port and link, under the requester ID of the function the seat is bound to (R85). -/
structure ReadReq where
  kind   : ReadKind
  func   : Func
  addr   : BitVec 64
  len    : Nat
  issued : Round
  deriving DecidableEq, Repr

/-- One entry of the event log (R343). -/
structure LogEntry where
  round   : Round
  rtcSec  : BitVec 32
  rtcFrac : BitVec 15
  source  : Byte
  resp    : BitVec 7
  flags   : Byte
  info    : BitVec 32
  deriving DecidableEq, Repr

/-- The event log as it stood before a commit, and how many entries the commit made (R228, R343). -/
structure LogMark where
  log   : SMap (Option LogEntry)
  next  : Nat
  wraps : Nat
  made  : Nat
  deriving DecidableEq, Repr

/-- What a ceremony's commit changed, as it stood before: an erase in the round of the commit puts it back (R228). -/
inductive Undo where
  /-- STORE_INIT generated ROOT_KEY -/
  | root
  /-- SUIT_ASSIGN: seat, and its suit before -/
  | suit (seat : Nat) (old : BitVec 16)
  /-- TCR_COMMIT: whether the defaults were in force before it, and the filters it alone made start afresh -/
  | tcr (defaulted : Bool) (restart : BitVec 28) (log : LogMark)
  /-- LATCH_CLEAR: the bits it cleared, and those it alone set in the restart and rearm masks -/
  | latch (bits restart rearm : BitVec 28) (log : LogMark)
  deriving DecidableEq, Repr

/-- A descriptor in flight (R104-R109) and how far its work has come. -/
structure Flight where
  /-- place in the device-wide order of fetches; 02 R57 -/
  seq      : Nat
  /-- submission index; 03 R104 -/
  sq       : Nat
  desc     : Desc
  /-- round of the fetch's return; 03 R104 -/
  fetched  : Round
  /-- whether the ring engine's checks have passed and the work may begin; 03 R95 -/
  checked  : Bool
  decided  : Option Decided
  /-- fragment lists once returned; 03 R97 -/
  srcList  : Option (List Frag)
  dstList  : Option (List Frag)
  listsAsked : Bool
  /-- places in the staging pool that hold its lists; 03 R98 -/
  listPool : List Nat
  /-- kitty slots are locked for it; 04 R122 -/
  locked   : Bool
  /-- first round in which the lock may be tried; 04 R122, R118 -/
  lockFrom : Round
  /-- next segment to be dealt; 02 R42 -/
  nextSeg  : Nat
  /-- a segment of it is bound or running; 02 R57 -/
  running  : Bool
  /-- earliest round whose sheet may bind the next segment; 05 R153 -/
  dealFrom : Round
  /-- places in the staging pool reserved for the next segment, input and output tricks; 03 R109 -/
  resvIn   : List Nat
  resvOut  : List Nat
  reserved : Bool
  /-- staged input of the next segment; 02 R43 -/
  input    : Option Bytes
  /-- staged expected value; 06 R171 -/
  expected : Option Bytes
  /-- first round in which it was held; 02 R63 -/
  heldFrom : Option Round
  /-- the hold is for want of a migration record; 05 R151 -/
  heldRec  : Bool
  /-- last round of a hold that outlasted HAND_WAIT_LIMIT, in which its HAND_BUSY is decided; 02 R63 -/
  expired  : Option Round
  /-- first round in which it waited for random blocks; 09 R243 -/
  waitFrom : Option Round
  /-- round in which its random blocks were reserved; 09 R242 -/
  granted  : Option Round
  /-- those blocks; 09 R239, R240 -/
  blocks   : List (BitVec 128)
  /-- role played, decided when its first segment is bound; 06 R163 -/
  role     : Option Role
  /-- migration record in use; 05 R151 -/
  record   : Option Nat
  /-- output bytes produced so far; 05 R148 -/
  outPos   : Nat
  /-- bytes a key-using segment found refused are counted once; 08 R210 -/
  denied   : Bool
  /-- house firmware has begun the ceremony; 08 R223 -/
  begun    : Option Round
  /-- what its commit changed; 08 R228; reset none -/
  undo     : Option Undo
  /-- a data error met by it, with its DETAIL; 03 R106, R112 -/
  dmaErr   : Option (BitVec 16)
  /-- read requests made for it that have not returned; 03 R85 -/
  reads    : List ReadReq
  deriving DecidableEq, Repr

/-- One outstanding descriptor fetch (R104). -/
structure Fetch where
  start  : Nat
  count  : Nat
  addr   : BitVec 64
  func   : Func
  issued : Round
  /-- issued before the seat's last halt, so its data are discarded; 03 R104 -/
  stale  : Bool
  deriving DecidableEq, Repr

/-- One seat: its context registers, its descriptors in flight and its outstanding fetches (R89, R104). -/
structure Seat where
  /-- 52 bits; 03 R89; reset 0. SQ_BASE, 4 KiB aligned -/
  sqBase   : BitVec 64
  /-- 52 bits; 03 R89; reset 0. CQ_BASE -/
  cqBase   : BitVec 64
  /-- 61 bits; 03 R89; reset 0. SHADOW address -/
  shadow   : BitVec 64
  /-- 1 bit; 03 R89; reset 0. SHADOW_LO.EN -/
  shadowEn : Bool
  /-- 5 bits; 03 R89; reset 4. RING_CFG.SQ_LOG2 -/
  sqLog2   : BitVec 5
  /-- 5 bits; 03 R89; reset 4. RING_CFG.CQ_LOG2 -/
  cqLog2   : BitVec 5
  /-- state; 03 R90; reset OFF. SEAT_STATUS.STATE -/
  st       : SeatState
  /-- state before the last change by a write of this round; 03 R90, R102; reset OFF -/
  prevSt   : SeatState
  /-- round in which the last change takes effect; 03 R90; reset 0 -/
  stFrom   : Round
  /-- moves of this round, in effect from the next, in order of arrival; 03 R90; reset none -/
  ctrl     : List SeatMove
  /-- 1 bit; 02 R76; reset 0. SEAT_STATUS.PEND -/
  pend     : Bool
  /-- 1 bit; 03 R90; reset 0. SEAT_STATUS.CFG_ERR -/
  cfgErr   : Bool
  /-- 1 bit; 03 R107; reset 0. SEAT_STATUS.PHASE -/
  phase    : Bool
  /-- 16 bits; 03 R101; reset 0. SQ_IDX.HEAD -/
  sqHead   : Nat
  /-- 16 bits; 03 R101; reset 0. SQ_IDX.TAIL -/
  sqTail   : Nat
  /-- 16 bits; 03 R101; reset 0. CQ_IDX.HEAD -/
  cqHead   : Nat
  /-- 16 bits; 03 R107; reset 0. CQ_IDX.TAIL -/
  cqTail   : Nat
  /-- CQ_IDX.HEAD at the start of the round, which decides the room for entries; 03 R107; reset 0 -/
  cqSeen   : Nat
  /-- 20 bits; 03 R110; reset EN 0, VECTOR 0, COUNT 1. IRQ_CFG -/
  irqEn    : Deferred Bool
  irqVec   : Deferred (BitVec 11)
  irqCount : Deferred (BitVec 8)
  /-- 24 bits; 03 R110; reset 0. COAL_TIME -/
  coalTime : Deferred Nat
  /-- 13 bits; 03 R109; reset 256. STAGE_CFG.LIMIT -/
  stageLim : Nat
  /-- 4 bits; 03 R111; reset 0. HALT_INFO.CAUSE -/
  cause    : HaltCause
  /-- 1 bit; 03 R111; reset 0. HALT_INFO.IDX_VALID -/
  idxValid : Bool
  /-- 16 bits; 03 R111; reset 0. HALT_INFO.SQ_INDEX -/
  haltIdx  : Nat
  /-- round h of the last halt; 03 R112; reset 0 -/
  haltAt   : Round
  /-- 10 bits; 03 R87; reset the physical function of port 0, link 0. SEAT_BIND function fields -/
  bind     : Func
  /-- 16 bits; 03 R87; reset 0x0000 (HOUSE). SEAT_BIND.SUIT -/
  suit     : BitVec 16
  /-- 4 bits; 02 R80; reset 1. DEAL_WEIGHT of the seat -/
  weight   : Nat
  /-- 16 bits; 02 R80; reset 0xFFFF. DEAL_DECKS mask of the seat -/
  decks    : BitVec 16
  /-- descriptors in flight, oldest first, up to 32; 03 R104; reset none. INFLIGHT.DESCS -/
  flights  : List Flight
  /-- outstanding fetches, oldest first; 03 R104; reset none -/
  fetches  : List Fetch
  /-- entries written and not signalled; 03 R110; reset 0 -/
  unsig    : Nat
  /-- round of the oldest unsignalled entry; 03 R110; reset none -/
  oldest   : Option Round
  deriving DecidableEq, Repr

/-! ## The kitty -/

/-- A flag word (R114): OWNER as 0 FREE, 1 HOST, 2 DEVICE, 3 LOCKED. -/
structure Flag where
  /-- 2 bits; 04 R114; reset FREE -/
  owner : BitVec 2
  /-- 14 bits; 04 R114; reset 0 -/
  seq   : BitVec 14
  /-- 13 bits; 04 R114; reset 0 -/
  seat  : BitVec 13
  deriving DecidableEq, Repr

/-- A device transition of a flag word made in this round, kept so that a host write of the same
cycle can be taken first (R118). -/
structure FlagMove where
  slot   : Nat
  before : Flag
  target : BitVec 2
  /-- for a lock: the fetch order of its descriptor, and what the slot's holder and KEEP were before it -/
  lock   : Option (Nat × Nat × Bool)
  deriving DecidableEq, Repr

/-- The kitty (R114-R125). -/
structure Kitty where
  /-- 4,096 flag words of 32 bits; 04 R114; reset 0x0000_0000 -/
  flags   : SMap Flag
  /-- KEEP seen at the lock of a slot; 04 R121; reset none -/
  keep    : SMap Bool
  /-- 1 + fetch order of the descriptor that holds a LOCKED slot, 0 for no holder; 04 R122; reset 0 -/
  holder  : SMap Nat
  /-- 13 bits for each function; 04 R125; reset 4,096. KITTY_LIMIT -/
  limits  : SMap Nat
  /-- 32 bits; 04 R125; reset 0. KITTY_REFUSE_CNT -/
  refused : Word
  /-- 32 bits; 04 R125; reset 0. KITTY_DENY_CNT -/
  deniedC : Word
  /-- slots whose flag word took a host write in this round's device cycle; 04 R118; reset none -/
  touched : List Nat
  /-- releases made in this round; 04 R118, R123; reset none -/
  moves   : List FlagMove
  /-- releases put off by a host write; 04 R118; reset none -/
  putOff  : List FlagMove
  deriving DecidableEq, Repr

/-! ## Messages -/

/-- State of a digest under way (R174): chaining words or Keccak lanes, pending bytes, bytes absorbed,
and the HMAC outer chaining state. -/
structure DigestSt where
  words : List (BitVec 64)
  pend  : Bytes
  total : Nat
  outer : List (BitVec 64)
  deriving DecidableEq, Repr

/-- Cipher and authentication registers carried between segments (R132, R152). -/
structure CipherSt where
  chain  : Bytes
  ghash  : Bytes
  j0     : Bytes
  hkey   : Bytes
  pend   : Bytes
  digest : DigestSt
  deriving DecidableEq, Repr

/-- A migration record (R151, R152) and what the dealer knows of its message (R61, R62). -/
structure MigRec where
  opcode   : Byte
  mode     : Byte
  decrypt  : Bool
  key1Used : Bool
  key0     : BitVec 32
  key1     : BitVec 32
  keySlots : Byte
  openSeat : Nat
  aadBytes : Nat
  msgBytes : Nat
  openRound : Round
  saves    : Nat
  st       : CipherSt
  /-- suit of the hand, or of the seat of an anchorless HASH; 05 R152, 06 R162 -/
  suit     : BitVec 16
  /-- hand whose open message this is; none for a HASH ONE; 02 R61, 06 R162 -/
  hand     : Option Nat
  /-- the message is open; 02 R61 -/
  isOpen   : Bool
  /-- fetch order of the descriptor that occupies the hand; 02 R62 -/
  occupant : Option Nat
  /-- last round of the occupation once its end is known; 02 R62 -/
  occEnd   : Option Round
  deriving DecidableEq, Repr

/-- A key object (R207). -/
structure KeyObj where
  /-- 4 bits; 08 R208 -/
  type   : BitVec 4
  /-- 8 bits; 08 R207 -/
  param  : Byte
  /-- 16 bits; 08 R212 -/
  usage  : BitVec 16
  /-- KLEN bytes; 08 R207 -/
  mat    : Bytes
  /-- its chain of pool granules, first the one SLOT_PTR names, then each NEXT; 08 R206, R207 -/
  gran   : List Nat
  deriving DecidableEq, Repr

/-! ## Lanes -/

/-- The binding of a segment to a lane (R45, R49). -/
structure Binding where
  seat     : Nat
  seq      : Nat
  desc     : Desc
  seg      : Nat
  tricks   : Nat
  firstSeg : Bool
  lastSeg  : Bool
  role     : Role
  record   : Option Nat
  /-- round n in which the dealer composed it; 02 R45 -/
  bound    : Round
  /-- first and final rounds n+2 .. f; 02 R45 -/
  first    : Round
  final    : Round
  prologue : Nat
  secret   : Bool
  handOff  : Bool
  applet   : Bool
  /-- the key load and checks of round n+1 have been made; 02 R45 -/
  loaded   : Bool
  refused  : Option (Status × BitVec 16)
  key0     : Option Bytes
  key1     : Option Bytes
  suit     : BitVec 16
  input    : Bytes
  expected : Option Bytes
  /-- the operation's effect on this segment has been worked out -/
  played   : Bool
  outcome  : Option (Status × BitVec 16)
  /-- play-table entry point that the dealer chose; none for an applet, or while the table is not filled; 02 R49, 05 R135 -/
  entry    : Option Nat
  /-- HANDINFO of the keys loaded; 05 R141 -/
  info     : BitVec 64
  /-- message state the segment leaves for its save; 05 R153 -/
  after    : Option CipherSt
  /-- value for the hand slot of a HAND result; 06 R170 -/
  toHand   : Option KeyObj
  out      : Bytes
  outBase  : Nat
  drained  : Nat
  /-- staging places not yet released; 03 R109 -/
  resvIn   : List Nat
  resvOut  : List Nat
  /-- posted in its final round; waits for the clear of the next round; 05 R130 -/
  posted   : Bool
  /-- cleared in the round after the final one, through which CORE_SUIT holds; 05 R130, 12 R301 -/
  cleared  : Bool
  deriving DecidableEq, Repr

/-- The sequencer (R131-R136). -/
structure Sequencer where
  /-- 8 bits; 05 R141; reset 0. PLAY_STAT.UPC -/
  upc   : Nat
  /-- 1 bit; 05 R141; reset 0. PLAY_STAT.RUN -/
  run   : Bool
  /-- 1 bit; 05 R141; reset 0. PLAY_STAT.FORM -/
  form  : Bool
  /-- open loops, innermost first: index of the LOOP word and passes left; 05 R133; reset none -/
  loops : List (Nat × Nat)
  /-- passes left of a REPEAT; 05 R132; reset none -/
  rep   : Option Nat
  /-- first round of the play; 05 R136; reset 0 -/
  from_ : Round
  deriving DecidableEq, Repr

/-- The lane datapath (R126, R132, R138). -/
structure Datapath where
  /-- 16 bytes; 05 R132; reset zero (DESIGN CHOICE, log entry 3). Chain register -/
  chain  : Bytes
  /-- 16 bytes; 05 R132; reset zero (DESIGN CHOICE, log entry 3). Counter register -/
  counter : Bytes
  /-- 16 bytes; 05 R132; reset zero (DESIGN CHOICE, log entry 3). Tweak register -/
  tweak  : Bytes
  /-- 64 bytes; 05 R132; reset zero (DESIGN CHOICE, log entry 3). Tag register -/
  tag    : Bytes
  /-- 16 bytes; 05 R132; reset zero (DESIGN CHOICE, log entry 3). GHASH accumulator -/
  acc    : Bytes
  /-- 16 bytes; 05 R132; reset zero (DESIGN CHOICE, log entry 3). GHASH key register -/
  hkey   : Bytes
  /-- 16 bytes; 05 R132; reset zero (DESIGN CHOICE, log entry 3). J0 -/
  j0     : Bytes
  /-- digest unit; 06 R173; reset cleared (DESIGN CHOICE, log entry 3) -/
  digest : DigestSt
  /-- the padding of the digest has been absorbed; 06 R173; reset false -/
  padded : Bool
  /-- 2 x 64 bytes; 05 R128; reset zero (DESIGN CHOICE, log entry 3). Input trick halves, active first -/
  inA    : Bytes
  inB    : Bytes
  /-- 2 x 64 bytes; 05 R129; reset zero (DESIGN CHOICE, log entry 3). Output trick halves, active first -/
  outA   : Bytes
  outB   : Bytes
  /-- 64 bytes; 05 R141; reset 0. CWA, and what the microword of this round writes to it -/
  cwa    : Bytes
  cwaNext : Option Bytes
  /-- 64 bytes; 05 R141; reset 0. CWB -/
  cwb    : Bytes
  /-- 4,104 bytes; 05 R126; reset zero (DESIGN CHOICE, log entry 3). Wrap buffer -/
  wrap   : Bytes
  /-- wrap or unwrap steps made over the wrap buffer; 05 R132; reset 0 -/
  steps  : Nat
  /-- the last pair of blocks of an XTS unit that waits for its ciphertext stealing; 05 R149; reset empty -/
  held   : Bytes
  /-- bytes of input taken and of output appended by the plays of the segment; 05 R128, R129; reset 0 -/
  taken  : Nat
  emitted : Bytes
  /-- outcome of the last TAGCMP or unwrap check of the segment; 05 R144; reset equal -/
  differ : Bool
  deriving DecidableEq, Repr

/-- A key in a bank (R138, R140): TDES or not, its length, two 256-bit shares whose XOR holds it, the suit it carries, and
whether it came from KEYIN. -/
structure BankKey where
  tdes : Bool
  size : Nat
  a    : Bytes
  b    : Bytes
  suit : BitVec 16
  core : Bool
  deriving DecidableEq, Repr

/-- The key register file of a lane (R138-R140): a bank is its key, or none when cleared. -/
structure Banks where
  /-- 256 bits each; 05 R126, R139; reset cleared. KEY0 and KEY1, active and idle -/
  k0a   : Option BankKey
  k0i   : Option BankKey
  k1a   : Option BankKey
  k1i   : Option BankKey
  /-- 256 bits; 02 R70; reset cleared. Dummy bank -/
  dummy : Option BankKey
  /-- 64 bytes; 02 R70; reset cleared. Dummy data chain -/
  chain : Bytes
  /-- 05 R138; reset unseeded. Blocks mixed into the mask generator, newest first -/
  mask  : List (BitVec 128)
  /-- 1 bit; 05 R141; reset 0. KEYSTAT.CORE -/
  core  : Bool
  /-- 1 bit; 05 R141; reset 0. KEYSTAT.DENIED -/
  denied : Bool
  /-- KEYIN_CTRL accepted: bank (true = KEY1) and length of the key written at the next boundary; 05 R140; reset none -/
  keyin : Option (Bool × Nat)
  deriving DecidableEq, Repr

/-- A store waiting in the store buffer (R265). -/
structure StoreEnt where
  addr  : BitVec 16
  bank  : BitVec 8
  /-- HWIN of its bank when it was issued, on a house core; 10 R265, R275 -/
  win   : BitVec 28
  data  : Bytes
  level : BitVec 2
  suit  : BitVec 16
  /-- core cycle of its acknowledgement; 10 R265 -/
  due   : Nat
  deriving DecidableEq, Repr

/-- A G8 core (R251, R286). -/
structure Core where
  /-- 8 bits; 10 R251; reset 0x00 -/
  a   : BitVec 8
  /-- 16 bits; 10 R251; reset 0x0000 -/
  x   : BitVec 16
  /-- 16 bits; 10 R251; reset 0x0000 -/
  y   : BitVec 16
  /-- 16 bits; 10 R251; reset 0x0000 -/
  sp  : BitVec 16
  /-- 16 bits; 10 R251, 11 R277; reset 0xE000 -/
  pc  : BitVec 16
  /-- 8 bits; 10 R252; reset 0x80 -/
  f   : BitVec 8
  /-- 8 bits; 10 R274; reset 0x00 -/
  bk  : BitVec 8
  /-- 16 bits; 10 R251; reset 0x0000 -/
  lc  : BitVec 16
  /-- 16 bits; 10 R251; reset 0x0000 -/
  le  : BitVec 16
  /-- register code and value of a load whose slot has not completed; 10 R263; reset none -/
  load : Option (BitVec 4 × BitVec 16)
  /-- core cycle of the round at which the next instruction starts; 10 R250; reset 0 -/
  cyc : Nat
  /-- 16 bits; 11 R286; reset 0xE040. ENTRY_PC -/
  entryPc : BitVec 16
  /-- 16 bits; 11 R286; reset 0x0000. ENTRY_SP -/
  entrySp : BitVec 16
  /-- 8 bits; 11 R286; reset 0x80. ENTRY_F -/
  entryF  : BitVec 8
  /-- 1 bit; 11 R286; reset 0. XSTAT.MC -/
  mc      : Bool
  /-- 1 bit and the failing address; 11 R286, R297; reset none. XSTAT.LATE_PEND -/
  latePend : Option (BitVec 16)
  /-- 16 bits; 11 R286; reset 0x0000. MDEPTH -/
  mdepth  : BitVec 16
  /-- 16 bits; 11 R286; reset 0x0000. SPLIM_A -/
  splimA  : BitVec 16
  /-- 16 bits; 11 R286; reset 0x0000. SPLIM_K -/
  splimK  : BitVec 16
  /-- 16 bits; 11 R286; reset 0x0000. SPLIM_M -/
  splimM  : BitVec 16
  /-- 8 bits; 11 R286; reset 0x00. EXC_CAUSE -/
  excCause : BitVec 8
  /-- 16 bits; 11 R286; reset 0x0000. LATE_STORE_ADDR -/
  lateAddr : BitVec 16
  /-- 8 bits; 11 R286; reset 0x00. LATE_STORE_INFO -/
  lateInfo : BitVec 8
  /-- 8 bits; 11 R286; reset 0x00. IRQ_PEND -/
  irqPend : BitVec 8
  /-- 8 bits; 11 R286; reset 0x01. IRQ_MASK -/
  irqMask : BitVec 8
  /-- up to four stores, oldest first; 10 R265; reset empty -/
  sbuf    : List StoreEnt
  /-- stopped by STACK_COLLAPSE or a device-fatal cause; 11 R289, 15 R393; reset running -/
  stopped : Bool
  /-- entry of a play that the sequencer refused in a segment's first round: PLAY_FORM is pending; 05 R134; reset none -/
  playForm : Option (BitVec 8)
  /-- one instruction of the lower level must complete first; 11 R293; reset false -/
  oneFirst : Bool
  deriving DecidableEq, Repr

/-- The raw engine request window (R202). -/
structure Pkr where
  /-- 8 bits; 07 R202; reset 0x00. PKR_OP -/
  op    : Byte
  /-- 8 bits; 07 R202; reset 0x00. PKR_WORDS -/
  words : Byte
  /-- 1 bit; 07 R202; reset 0. PKR_CTRL.GO -/
  go    : Bool
  /-- 8 bits; 07 R202; reset 0x00. PKR_STAT -/
  stat  : Byte
  /-- 256 bytes each; 07 R202; reset 0. PKR_M, PKR_A, PKR_B -/
  m     : Bytes
  a     : Bytes
  b     : Bytes
  deriving DecidableEq, Repr

/-- One lane (R126, R141). -/
structure Lane where
  /-- 1 bit; 02 R80; reset 1. Its bit in DEAL_LANE_EN -/
  en      : Bool
  /-- 1 bit; 02 R76; reset 0. DEAL_LANE_STATE.PEND -/
  pend    : Bool
  /-- disabled and drained; 02 R75; reset false -/
  halted  : Bool
  /-- in DRAIN: disabled while a segment ran; 02 R75, R76; reset false -/
  drain   : Bool
  /-- round of the last change of its bit in DEAL_LANE_EN; 02 R75; reset 0 -/
  enAt    : Round
  /-- halted on a fault; 02 R77, 05 R157; reset false. Its bit in LANE_FAULT -/
  fault   : Bool
  /-- round of that fault: the lane is in HALT from the next; 02 R77, R80; reset 0 -/
  faultAt : Round
  /-- halted because a play RAM word is uncorrectable, until house firmware rewrites it; 12 R318; reset false -/
  playFault : Bool
  /-- segments bound to the lane, in order of their first rounds; 02 R45; reset none -/
  binds   : List Binding
  banks   : Banks
  dp      : Datapath
  seqr    : Sequencer
  core    : Core
  pkr     : Pkr
  /-- the request window as it stood at the start of the round; 07 R203; reset cleared -/
  pkrAt   : Pkr
  /-- 32 bits; 05 R141; reset 0. RESULT -/
  result  : BitVec 32
  /-- RESULT as it stood at the start of the round; 05 R142; reset 0 -/
  resultAt : BitVec 32
  /-- 1 bit; 05 R141; reset 0. OUTZ -/
  outz    : Bool
  /-- 16 bytes; 05 R141; reset 0. PLAY_EXPORT0-15 -/
  exports : Bytes
  /-- 8 bits; 05 R141; reset 0. PT_INDEX -/
  ptIndex : Byte
  /-- 32 bytes; 05 R141; reset 0. KEYIN -/
  keyin   : Bytes
  deriving DecidableEq, Repr

/-- A dealt sheet's cover part (R49, R67, R70): the round it is for, the lanes in DUMMY with the class they
mirror (an IDLE_CLASS code, or 8 plus the opcode of a mirrored segment), and the lane refreshed. -/
structure Sheet where
  round   : Round
  dummies : List (Nat × Nat)
  refresh : Option Nat
  /-- the four blocks reserved for its cover refresh; 02 R70, 09 R240 -/
  seed    : List (BitVec 128)
  deriving DecidableEq, Repr

/-- The dealer (R56-R80). -/
structure Dealer where
  /-- 13 bits; 02 R80; reset 0. DEAL_TIE_PTR.SEAT -/
  tiePtr   : Nat
  /-- 4 bits; 02 R80; reset 0. DEAL_DECK_PTR.DECK -/
  deckPtr  : Nat
  /-- 3 bits; 02 R80; reset 0. DEAL_DECK_PTR.LANE -/
  lanePtr  : Nat
  /-- 24 bits; 02 R80; reset 0x01_0000. HAND_WAIT_LIMIT -/
  waitLim  : Nat
  /-- 32 bits; 02 R80; reset 0. DEAL_HAND_BUSY_CNT -/
  busyCnt  : Word
  /-- 1 bit; 02 R80; reset 0. DEAL_STATUS.FROZEN -/
  frozen   : Bool
  /-- round of the freeze: every lane is in HALT in later rounds; 02 R78; reset 0 -/
  frozeAt  : Round
  /-- 1 bit; 02 R80; reset 0. DEAL_STATUS.RNG_HOLD -/
  rngHold  : Bool
  /-- 16 bits; 02 R80; reset 0. DEAL_STATUS.COVER_DEFICIT -/
  deficit  : BitVec 16
  /-- 11 bits for each deck; 02 R80; reset 0 until the DCR is loaded. DEAL_COVER (LEVEL, FLOOR, IDLE_CLASS) -/
  cover    : SMap Word
  /-- sheets composed for this round and the next two; 02 R45; reset none -/
  sheets   : List Sheet
  /-- RANDOM and KEY_GEN grants of the sheet composed in this round, in grant order, by seat and fetch; 02 R74; reset none -/
  grants   : List (Nat × Nat)
  /-- lane next in the rotation of the cover refresh; 02 R70; reset 0 -/
  refreshAt : Nat
  /-- order of the next fetch; 02 R57; reset 0 -/
  seq      : Nat
  /-- round from which launches may be composed again; 02 R78; reset 0 -/
  thawAt   : Round
  /-- the play image whose entry points fill the dealer's table; 05 R135; reset none. An entry of the table is what
  Config.entryPoint reads from it -/
  plays    : Option Bytes
  deriving DecidableEq, Repr

/-! ## Engines -/

/-- A request in an engine's queue (R72, R197). -/
structure Ticket where
  lane   : Nat
  seat   : Nat
  seq    : Nat
  desc   : Desc
  /-- issue round q; 07 R197 -/
  q      : Round
  /-- rotated index under DEAL_DECK_PTR.LANE of round q; 07 R199 -/
  rot    : Nat
  /-- window of a raw request; 07 R203 -/
  raw    : Option Pkr
  input  : Bytes
  /-- staging places not yet released; 07 R183 -/
  resvIn : List Nat
  resvOut : List Nat
  suit   : BitVec 16
  /-- first round in which its start could be placed but for its blocks; 07 R192 -/
  waitFrom : Option Round
  deriving DecidableEq, Repr

/-- A start composed for a coming round (R72, R197). -/
structure Start where
  ticket : Ticket
  /-- start round s; 07 R197 -/
  s      : Round
  /-- its random blocks; 07 R191 -/
  blocks : List (BitVec 128)
  /-- the key load of round s - 1 has been made; 07 R197 -/
  loaded : Bool
  refused : Option (Status × BitVec 16)
  key    : Option Bytes
  deriving DecidableEq, Repr

/-- The operation an engine runs (R177). -/
structure Running where
  ticket : Ticket
  s      : Round
  /-- duration E; 07 R189 -/
  e      : Nat
  key    : Option Bytes
  blocks : List (BitVec 128)
  blind  : Bool
  /-- result worked out by the operation's own command -/
  played : Bool
  outcome : Option (Status × BitVec 16)
  out    : Bytes
  /-- output tricks the unload phase has written; 07 R175, R177 -/
  sent   : Nat
  /-- private material or secret for the hand slot; 07 R188 -/
  toHand : Option Bytes
  deriving DecidableEq, Repr

/-- A finished operation waiting for its collect (R198). -/
structure Finished where
  ticket : Ticket
  ended  : Round
  status : Status
  detail : BitVec 16
  /-- value for the hand slot, placed at the collect; 07 R188 -/
  toHand : Option Bytes
  deriving DecidableEq, Repr

/-- One public-key engine (R175, R204). -/
structure Engine where
  /-- up to 8 requests, oldest first; 07 R72; reset empty. PKE_STAT.QUEUE -/
  queue  : List Ticket
  /-- start composed and not yet begun; 07 R197; reset none -/
  start  : Option Start
  /-- operation under way; 07 R177; reset none. PKE_STAT.BUSY, OPCODE -/
  run    : Option Running
  /-- finished operations in the order they ended; 07 R198; reset none -/
  ended  : List Finished
  /-- round before which no operation may start; 07 R177, R200; reset 0 -/
  freeAt : Round
  /-- 1 bit; 07 R204; reset 0 until the DCR is loaded. PKE_CTRL.IDLE_FILL -/
  idleFill : Deferred Bool
  /-- 4 bits; 07 R204; reset 0 until the DCR is loaded. PKE_CTRL.DSA_PAD -/
  dsaPad : Deferred (BitVec 4)
  /-- 1 bit; 07 R204; reset 0 until the DCR is loaded. PKE_CTRL.LEGACY_BLIND -/
  blind  : Deferred Bool
  /-- 128 bits; 07 R176; reset cleared. OP_MASK -/
  mask   : Option (BitVec 128)
  /-- operand memory holds nothing an operation used; 07 R177, R200; reset true -/
  zeroed : Bool
  /-- an operation or an abort has zeroed all of operand memory since the last main reset; 12 R315; reset false -/
  cleared : Bool
  /-- rounds spent in dummy doublings; 07 R181; reset 0 -/
  fills  : Nat
  /-- 4 bits; 02 R73; reset 0. DEAL_PKE_TICKETS of the deck -/
  tickets : Nat
  /-- collects bound and not yet made, in order: lane and collect round; 07 R198; reset none -/
  colls   : List (Nat × Round)
  /-- collects made in this round, with their lanes; 02 R50, 07 R198; reset none -/
  made    : List (Nat × Round)
  deriving DecidableEq, Repr

/-! ## Key store -/

/-- A hand header (R206) and the key objects of its slots. -/
structure Hand where
  /-- 16 bits; 08 R206; reset HOUSE. SUIT -/
  suit   : BitVec 16
  /-- 16 bits; 08 R209; reset 0. GEN -/
  gen    : BitVec 16
  /-- 8 bits; 08 R206; reset EMPTY. STATE -/
  live   : Bool
  /-- 8 bits; 08 R206; reset 0. POLICY -/
  policy : Byte
  /-- 16 bits; 08 R206; reset 0. DEFAULT_USAGE -/
  defUse : BitVec 16
  /-- 16 bits; 08 R206; reset 0. OWNER_BASE -/
  base   : BitVec 16
  /-- 16 bits; 08 R206; reset 0. OWNER_SPAN -/
  span   : BitVec 16
  /-- 16 slots, filled ones with their key objects; 08 R206; reset none. SLOT_MASK -/
  slots  : SMap (Option KeyObj)
  /-- slot to the fetch order of the descriptor that reserved it; 08 R206; reset none. RESV_MASK -/
  resv   : SMap (Option Nat)
  deriving DecidableEq, Repr

/-- The key store (R205-R230). -/
structure KeyStore where
  /-- 2 bits; 08 R230; reset ERASED. KEYS_STATUS.STATE is READY -/
  ready     : Bool
  /-- 1 bit; 08 R230; reset 0. KEYS_STATUS.WIPE_FAULT -/
  wipeFault : Bool
  /-- round in which a pending rearm was requested; 08 R227; reset none. KEYS_STATUS.REARM_PEND -/
  rearm     : Option Round
  /-- round in which its blocks were reserved; 08 R227; reset none -/
  rearmRes  : Option Round
  /-- those three blocks; 08 R227, 09 R240; reset none -/
  rearmBlk  : List (BitVec 128)
  /-- 256 bits; 08 R214; reset cleared. STORE_KEY -/
  storeKey  : Option Bytes
  /-- 128 bits; 05 R152; reset cleared. MIG_KEY -/
  migKey    : Option (BitVec 128)
  /-- 64 bits; 08 R230; reset 0. KEYS_ERASE_ROUND -/
  eraseAt   : Round
  /-- an erase asked for by ZEROISE, for the next round; 08 R224; reset none -/
  zeroAt    : Option Round
  /-- a wipe is under way; 08 R224; reset false -/
  wiping    : Bool
  /-- round t of the erase that started the last wipe; 08 R224; reset 0 -/
  wipeAt    : Round
  /-- 18 bits; 08 R230; reset 0x2_0000. KEYS_WIPE_LEFT -/
  wipeLeft  : Nat
  /-- granules that a wipe has written since the last main reset; 08 R224, 12 R315; reset 0 -/
  wiped     : Nat
  /-- hands with a header other than a wiped one; 08 R205; reset all EMPTY -/
  hands     : SMap Hand
  /-- pool granules being overwritten before they are free again; 08 R218, R229; reset none -/
  zeroing   : List Nat
  /-- 32 bits; 08 R230; reset 0. KEYS_DENY_CNT -/
  deny      : Word
  deriving DecidableEq, Repr

/-! ## Random bits -/

/-- One noise source (R231-R235). -/
structure Source where
  /-- samples of the startup test still to come; 09 R234; reset 1,024 -/
  startup : Nat
  /-- 1 bit; 09 R249; reset 0. RNG_STATUS.HEALTHY -/
  healthy : Bool
  /-- last sample and length of its run; 09 R233; reset none -/
  last    : Bool
  runLen  : Nat
  /-- window position, its first sample and how often it recurred; 09 R233; reset 0 -/
  winPos  : Nat
  winBit  : Bool
  winCnt  : Nat
  /-- samples absorbed by the compressor; 09 R231; reset 0 -/
  absorbed : Nat
  /-- 128 bits; 09 R231; reset DESIGN CHOICE 0 (log entry 3). The compressor -/
  lfsr    : BitVec 128
  /-- 8 bits; 09 R249; reset 0. EXCLUSIONS -/
  excl    : Nat
  /-- 1 bit; 09 R249; reset 0. LOCKOUT -/
  lockout : Bool
  /-- 1 bit; 09 R249; reset 0. APT_FAIL -/
  aptFail : Bool
  /-- 1 bit; 09 R249; reset 0. RCT_FAIL -/
  rctFail : Bool
  /-- the source runs; 09 R231, 15 R377; reset stopped until CLK_CORE locks -/
  on      : Bool
  deriving DecidableEq, Repr

/-- A conditioned word of the pool: its source, its 128 bits, and the round it entered in (R231, R232). -/
structure PoolWord where
  src  : Nat
  word : BitVec 128
  at_  : Round
  deriving DecidableEq, Repr

/-- One expander (R236, R237). -/
structure Expander where
  /-- 09 R236; reset not instantiated -/
  st    : ExpState
  /-- 32 and 16 bytes, the working state of CTR_DRBG with AES-256; 09 R236; reset cleared (zero bytes) -/
  key   : Bytes
  v     : Bytes
  /-- 48 bytes, the seed of the operation under way; 09 R232, R236; reset none -/
  seed  : Bytes
  /-- first round after a seed operation under way; 09 R236; reset 0 -/
  until_ : Round
  /-- requests since the last seed; 09 R237; reset 0 -/
  reqs  : Nat
  /-- rounds delivered of the request under way, 0-4; 09 R236; reset 0 -/
  part  : Nat
  /-- round of its last delivery; 09 R239; reset 0 -/
  lastAt : Round
  deriving DecidableEq, Repr

/-- The RNG (R231-R249). -/
structure Rng where
  /-- 2 bits; 09 R249; reset STARTUP. RNG_STATUS.STATE -/
  st      : RngState
  src     : SMap Source
  /-- up to 8 words, oldest first; 09 R232; reset empty -/
  pool    : List PoolWord
  expA    : Expander
  expB    : Expander
  /-- up to 512 blocks that no consumer has reserved, oldest first; 09 R239; reset empty. RNG_SHOE.LEVEL counts them and the
  reserved ones, which their consumers hold -/
  shoe    : List (BitVec 128)
  /-- 10 bits; 09 R249; reset 0. RNG_SHOE.RESERVED: blocks reserved this round, delivered in the next -/
  resv    : Nat
  /-- level at the end of the last round; 09 R238; reset 0 -/
  endLevel : Nat
  /-- 15 bits; 09 R249; reset 1,024. RNG_RESEED.INTERVAL -/
  interval : Nat
  /-- consecutive rounds with the level at 384 or more; 09 R238; reset 0 -/
  high    : Nat
  /-- 24 bits; 09 R249; reset 0x61A8. RNG_WAIT_LIMIT -/
  waitLim : Deferred Nat
  /-- 32 bits; 09 R249; reset 0. RNG_UNAVAIL_CNT -/
  unavail : Word
  /-- filled, delivered and flushed blocks; 09 R248; reset 0 -/
  filled  : Nat
  delivered : Nat
  flushed : Nat
  deriving DecidableEq, Repr

/-! ## Memory, suits and errors -/

/-- Suits, regions and the error logic (R299-R322). -/
structure Prot where
  /-- suit tags of the session store's granules; 12 R299; reset HOUSE -/
  tags      : SMap (BitVec 16)
  /-- words 0 and 1 of region r of core c at key 32 c + 2 r, + 1 (house core 128); 12 R309; reset 0 -/
  regions   : SMap Word
  /-- region words written in this round and their earlier values; 12 R309, R320; reset none -/
  regPrev   : SMap (Option Word)
  /-- 32 bits; 12 R321; reset 0. PROT_SUIT_FAULT_CNT -/
  suitCnt   : Word
  /-- 32 bits; 12 R321; reset 0. PROT_SPAN_CNT -/
  spanCnt   : Word
  /-- 32 bits; 12 R321; reset 0. DEBUG_DENY_COUNT -/
  debugCnt  : Word
  /-- 27 bits; 12 R321; reset 0. PROT_RETAG: suit, lane, page and the round n of a running retag -/
  retagSuit : BitVec 16
  retagLane : Nat
  retagPage : Nat
  retagAt   : Option Round
  /-- words with a correctable (false) or uncorrectable (true) error, key 2^21 x memory + word; 12 R313; reset none
  (DESIGN CHOICE, log entry 2) -/
  bad       : SMap (Option Bool)
  /-- granules whose tag entry is uncorrectable, key the granule; 12 R299; reset none -/
  badTags   : SMap Bool
  /-- words waiting for a write-back, same keys; 12 R314; reset none -/
  fix       : SMap Bool
  /-- written bits, same keys; 12 R315; reset 0 -/
  written   : SMap Bool
  /-- the buckets as the round began; 12 R317, R320; reset 0 -/
  bucketWas : SMap Nat
  /-- 24 bits; 12 R316; reset 0. Rounds the scrubber has run, modulo 15,728,640 (a multiple of every memory's size): its
  word in a memory of w words is this mod w -/
  scrubAt   : Nat
  /-- 1 bit; 12 R322; reset 0 until the DCR is loaded. MEM_SCRUB_CTRL.EN -/
  scrubEn   : Deferred Bool
  /-- 16 bits for each memory; 12 R317; reset 0. MEM_BUCKET -/
  bucket    : SMap Nat
  /-- 32 bits; 12 R322; reset 25,000,000. MEM_LEAK_PERIOD -/
  leakPer   : Deferred Nat
  /-- 16 bits; 12 R322; reset 16. MEM_LEAK_LIMIT -/
  leakLim   : Deferred Nat
  /-- round of the last leak decrement; 12 R317; reset none -/
  leakAt    : Option Round
  /-- 32 bits; 12 R322; reset 0. MEM_UE_CNT -/
  ueCnt     : Word
  /-- 32 bits; 12 R322; reset 0. MEM_UE_LAST -/
  ueLast    : Word
  deriving DecidableEq, Repr

/-! ## Always-on domain and tamper -/

/-- Filter of one tamper source (R325). -/
structure Filter where
  /-- consecutive samples with the condition present; 13 R325; reset 0 -/
  hits   : Nat
  /-- consecutive samples without it; 13 R325; reset 0 -/
  misses : Nat
  /-- tripped and not yet absent long enough; 13 R325; reset false -/
  trippd : Bool
  /-- the source's own condition at the last sample; 13 R346; reset 0. TAMP_RAW -/
  raw    : Bool
  /-- measured value at the last sample; 13 R343; reset 0 -/
  value  : Int
  /-- the always-on clock's interval of the next sample; 13 R325; reset 0 -/
  next   : Nat
  /-- patterns the shift register has driven for the source; 13 R324, R338; reset 0 -/
  driven : Nat
  deriving DecidableEq, Repr

/-- A monitor self-test under way (R336). -/
structure SelfTest where
  source : Nat
  n      : Round
  window : Nat
  passed : Bool
  deriving DecidableEq, Repr

/-- The always-on domain (R323) and the tamper registers (R346). -/
structure Aon where
  /-- 32 bits; 13 R346; reset 0 (loss of the domain). RTC_SEC -/
  rtcSec   : BitVec 32
  /-- 15 bits; 13 R346; reset 0 (loss of the domain). RTC_FRAC -/
  rtcFrac  : BitVec 15
  /-- part of 1/32,768 s not yet counted, in 1/25,000,000 parts; 13 R344; reset 0 -/
  rtcAcc   : Nat
  /-- intervals of 40 ns since the domain came up, by which samples are timed; 13 R324; reset 0 -/
  now      : Nat
  /-- 1 bit; 13 R346; reset 0 (loss of the domain). RTC_VALID -/
  rtcValid : Bool
  /-- 256 bits; 13 R323; reset zero (loss of the domain). ROOT_KEY -/
  rootKey  : Bytes
  /-- 1 bit; 08 R230; reset 0 (loss of the domain). ROOT_VALID -/
  rootValid : Bool
  /-- 8 bits; 08 R211; reset 0 (loss of the domain). KEYS_EPOCH.EPOCH -/
  epoch    : BitVec 8
  /-- 2 x 256 bytes; 13 R337, R335; reset fails its check (DESIGN CHOICE: empty, log entry 5). TCR banks -/
  tcr0     : Bytes
  tcr1     : Bytes
  /-- 1 bit; 13 R323; reset 0 (DESIGN CHOICE, log entry 5). Bank selector -/
  bank     : Bool
  /-- 28 bits; 13 R346; reset 0. TAMP_TRIPPED -/
  tripped  : BitVec 28
  /-- 28 bits; 13 R346; reset 0. TAMP_LATCHED -/
  latched  : BitVec 28
  /-- 28 bits; 13 R346; reset 0. TAMP_PENDING -/
  pending  : BitVec 28
  /-- 1 bit; 13 R346; reset 0. TAMP_STATUS.FREEZE_HELD -/
  freeze   : Bool
  /-- round from which a cleared freeze is gone; 13 R329; reset none -/
  thaw     : Option Round
  /-- 64 entries of 32 bytes; 13 R343; reset empty -/
  log      : SMap (Option LogEntry)
  /-- 6 bits; 13 R346; reset 0. TAMP_LOG_HEAD.NEXT -/
  logNext  : Nat
  /-- 16 bits; 13 R346; reset 0. TAMP_LOG_HEAD.WRAPS -/
  logWraps : Nat
  /-- 32 bits; 13 R334; reset 0 (loss of the domain). AON_SENTINEL -/
  sentinel : BitVec 32
  filters  : SMap Filter
  /-- 1 bit; 13 R335, R341; reset true: empty banks fail their check (DEDUCED, log entry 5). The factory defaults are in
  force; TAMP_STATUS.TCR_DEFAULTED shows it after the boot check -/
  defaulted : Bool
  /-- 1 bit; 13 R346; reset 0. TAMP_STATUS.AON_LOST -/
  lost     : Bool
  /-- round of the last flip of the bank selector, and whether the defaults were in force before it: the earlier
  record governs to the end of that round; 13 R340, R345; reset none -/
  flip     : Option (Round × Bool)
  /-- sources that have qualified in this round with main power present, whose union runs at its end; 13 R328; reset none -/
  due      : BitVec 28
  /-- sources whose filter counters start afresh at the end of this round; 13 R340, R342; reset none -/
  restart  : BitVec 28
  /-- those of them that may qualify again with their condition still present; 13 R342; reset none -/
  rearm    : BitVec 28
  /-- 32 bits; 13 R346; reset 0. TAMP_TEST: the test under way -/
  test     : Option SelfTest
  /-- 2 bits; 13 R346; reset 0. TAMP_TEST.RESULT -/
  testRes  : BitVec 2
  /-- 5 bits; 13 R346; reset 0. TAMP_TEST.SOURCE -/
  testSrc  : BitVec 5
  deriving DecidableEq, Repr

/-! ## Power, boot, lifecycle -/

/-- Power, clock, boot and lifecycle (R375-R398). -/
structure Power where
  /-- 15 R375; reset RUN (main reset is a part of RUN) -/
  st       : PowerState
  /-- main power is good; 13 R323; reset true -/
  main     : Bool
  /-- the backup cell is fitted; 13 R323; reset true (DESIGN CHOICE, log entry 6) -/
  cell     : Bool
  /-- VBAT in mV; 13 R346; reset 0. TAMP_SENSE.VBAT_MV -/
  vbatMv   : Int
  /-- die temperature; 13 R346; reset 0. TAMP_SENSE.TEMP -/
  temp     : Int
  /-- PERST0# and PERST1# low; 16 R401; reset both low -/
  perst0   : Bool
  perst1   : Bool
  /-- a RESET response waits for the end of the round; 13 R327; reset false -/
  resetReq : Bool
  /-- CLK_CORE runs; 02 R39, 15 R376; reset stopped -/
  clock    : Bool
  /-- boot phase 1-7, 8 after READY, 0 in main reset, 9 in recovery; 15 R379, R396; reset 0 -/
  phase    : Nat
  /-- rounds since the release of PERST#; 15 R379; reset 0. CFG_STATUS.BOOT_TIME counts 250 of them -/
  bootRounds : Nat
  /-- 16 bits; 15 R396; reset 0. BOOT_TIME -/
  bootTime : Nat
  /-- bootRounds when the phase began; 15 R379; reset 0 -/
  phaseAt  : Nat
  /-- round in which the boot draws were reserved; 09 R240; reset none -/
  drawn    : Option Round
  /-- those 259 blocks, until they are used; 09 R240; reset none -/
  bootBlk  : List (BitVec 128)
  /-- 1 bit; 15 R397; reset 1. PWR_CTRL.GATE_EN -/
  gateEn   : Deferred Bool
  /-- 2 bits; 15 R397; reset 0b11. PWR_CTRL.STATE as written -/
  reqSt    : BitVec 2
  /-- round n of an accepted STANDBY request; 15 R376; reset none. PWR_STATUS.STBY_PEND -/
  stbyAt   : Option Round
  /-- 16 bits; 15 R397; reset 0. PWR_STATUS.DECK_CLK -/
  deckClk  : BitVec 16
  /-- 1 bit; 15 R396; reset 0. CFG_STATUS.DCR_DEFAULTED -/
  dcrDef   : Bool
  /-- 1 bit; 15 R396; reset 0. CFG_STATUS.DCR_BACKUP -/
  dcrBackup : Bool
  /-- 1 bit; 15 R396; reset 0. CFG_STATUS.IMAGE_B -/
  imageB   : Bool
  /-- 1 bit; 15 R396; reset 0. CFG_STATUS.BOOT_ERR -/
  bootErr  : Bool
  /-- 4 bits; 15 R396; reset 0. CFG_STATUS.ERR_CODE -/
  errCode  : Nat
  /-- the 2,048 bytes of the DCR in force; 15 R384; reset none read -/
  dcr      : Bytes
  /-- 16 bits; 05 R157; reset 0. LANE_IMAGE.KERNEL -/
  kernelV  : BitVec 16
  /-- 16 bits; 05 R157; reset 0. LANE_IMAGE.APPLETS -/
  appletsV : BitVec 16
  /-- 16 bits; 15 R397; reset 0. HOUSE_STATUS.FW_VERSION -/
  fwV      : BitVec 16
  /-- 64 words; 05 R157; reset 0. LANE_APPLET -/
  applets  : SMap Word
  /-- 1 bit; 15 R397; reset 0. LIFE_STATUS.FUSE_ERR -/
  fuseErr  : Bool
  /-- endpoint ID of the MCTP endpoint; 15 R391; reset 0 (PRESUMED, log entry 10) -/
  eid      : Byte
  /-- TAP instruction in force; 15 R387; reset IDCODE (PRESUMED, log entry 10) -/
  tap      : Byte
  /-- boundary cells preloaded; 15 R387; reset none (DESIGN CHOICE, log entry 10) -/
  scan     : Bytes
  deriving DecidableEq, Repr

/-- The fuses (R386): kept across every power state. -/
structure Fuses where
  /-- 3 bits; 15 R386; reset BLANK (DESIGN CHOICE, log entry 7) -/
  lc    : Lifecycle
  /-- 384 bits; 15 R386; reset blank -/
  owner : Bytes
  /-- 6 bits of count; 15 R386; reset 0 (DESIGN CHOICE, log entry 7) -/
  svn   : Nat
  /-- 64 bits; 15 R386; reset 0 (DESIGN CHOICE, log entry 7). LIFE_DIE_ID -/
  dieId : BitVec 64
  /-- 128 bits; 15 R386; reset 0 (DESIGN CHOICE, log entry 7) -/
  trim  : BitVec 128
  /-- 32 bits; 15 R397; reset 0 (DESIGN CHOICE, log entry 7). LIFE_VDM_ID -/
  vdm   : BitVec 32
  deriving DecidableEq, Repr

/-- A cause waiting for its score sheet (R393). -/
structure ScoreReq where
  cause  : Byte
  round  : Round
  unit   : Nat
  seat   : Nat
  sq     : Nat
  opcode : Byte
  status : Byte
  detail : BitVec 16
  frame  : Bytes
  play   : BitVec 16
  left   : BitVec 16
  late   : BitVec 16
  lateI  : Byte
  data   : Bytes
  /-- the device-wide part of the sheet as it stood at the end of the cause's round: RTC_SEC and bytes 64-151; none in
  that round itself; 15 R393 -/
  snap   : Option Bytes
  deriving DecidableEq, Repr

/-- The house block (R389-R397). -/
structure House where
  core    : Core
  /-- the second core of the lockstep pair; 10 R275; reset as the first -/
  twin    : Core
  /-- 28 bits for each window; 10 R275; reset 0 (DESIGN CHOICE, log entry 8). HWIN0-255 -/
  hwin    : SMap (BitVec 28)
  /-- 1 bit; 15 R397; reset 0. HOUSE_STATUS.RUNNING -/
  running : Bool
  /-- 1 bit; 15 R397; reset 0. HOUSE_STATUS.FATAL -/
  fatal   : Bool
  /-- 32 bits; 15 R397; reset 0. HOUSE_MSG -/
  msg     : Word
  /-- up to 16 causes waiting for a sheet; 15 R393; reset none -/
  queue   : List ScoreReq
  /-- 8 bits; 15 R397; reset 0 at power-up. HOUSE_SCORE.LOST -/
  scLost  : Nat
  /-- 4 bits; 15 R397; reset 0 at power-up. HOUSE_SCORE.NEWEST -/
  newest  : Nat
  /-- 16 bits; 15 R397; reset 0 at power-up. HOUSE_SCORE.COUNT and SEQ -/
  count   : Nat
  /-- 4 bits; 15 R397; reset 0. HOUSE_SCORE_SEL.INDEX -/
  sel     : BitVec 4
  deriving DecidableEq, Repr

/-! ## Custodian slots -/

/-- What a slot is doing with its credential (R349, R355, R365-R371). -/
inductive SlotStep where
  /-- nothing under way -/
  | none
  /-- OPCOND sent, with the number of polls (R355) -/
  | opcond (n : Nat)
  | ident | setaddr | setbus
  /-- TUNE at a phase (R357) -/
  | tune (phase : Nat)
  /-- SLEEP sent (R363) -/
  | toSleep
  /-- UNLOCK sent (R364) -/
  | unlock
  /-- reading USE (R371) -/
  | readUse
  /-- waiting for challenge blocks (R371 step 4) -/
  | challenge
  /-- challenge blocks reserved in a round, delivered in the next -/
  | drawing (r : Round)
  /-- AUTH or CUSTODIAN_SIGN sent (R360, R368) -/
  | auth
  /-- reading the component (R371 step 5) -/
  | readComp
  /-- writing USE + 1 (R371 step 6) -/
  | writeUse
  /-- FORCE_ERASE sent (R364) -/
  | erase
  /-- a locked credential waits for a password (R371 step 3) -/
  | waitPw
  /-- cold reset of a card, with the number of the reset (R365) -/
  | coldReset
  | warmReset
  | pps
  /-- SELECT sent to a card with the AID of a roster entry (R368) -/
  | select (k : Nat)
  /-- VERIFY sent to a card (R368) -/
  | verify
  deriving DecidableEq, Repr

/-- One custodian slot (R347-R374). -/
structure Slot where
  /-- 1 bit; 14 R374; reset 0. PRESENT -/
  present : Bool
  /-- 3 bits; 14 R374; reset OFF. STATE -/
  st      : SlotSt
  /-- 2 bits; 14 R374; reset 0. KIND -/
  kind    : BitVec 2
  /-- 2 bits; 14 R374; reset 0. CLASS -/
  cls     : BitVec 2
  /-- 1 bit; 14 R374; reset 0. WIDTH4 -/
  width4  : Bool
  /-- 3 bits; 14 R374; reset 0. CLK -/
  clk     : Nat
  /-- 8 bits; 14 R374; reset 0x00. LAST_ERR -/
  lastErr : Byte
  /-- 8 bits; 14 R374; reset 0xFF. ROSTER -/
  roster  : Byte
  /-- 16 bits; 14 R374; reset 0. SLOT_TUNE.PASS -/
  pass    : BitVec 16
  /-- 4 bits; 14 R374; reset 0. SLOT_TUNE.PHASE -/
  phase   : Nat
  /-- 32 bits; 14 R374; reset 0 until the DCR is loaded. SLOT_CFG -/
  cfg     : Deferred Word
  /-- 32 bytes; 14 R374; reset 0. SLOT_PW -/
  pw      : Bytes
  /-- 1 bit; 14 R374; reset 0. SLOT_PW_CTRL.VALID -/
  pwValid : Bool
  /-- 6 bits; 14 R374; reset 0. SLOT_PW_CTRL.LEN -/
  pwLen   : BitVec 6
  step    : SlotStep
  /-- command frames sent again for the step; 14 R356; reset 0 -/
  resends : Nat
  /-- repetitions of the character under way; 14 R352; reset 0 -/
  reps    : Nat
  /-- address of the token; 14 R354; reset 0x00 -/
  addr    : Byte
  /-- bytes of the last command frame sent; 14 R353; reset none -/
  sent    : Bytes
  /-- 8 bytes; 14 R358; reset none. TOKEN_ID or card ID -/
  id      : Bytes
  /-- token's MAX_CLK and width offer; 14 R358; reset 0 -/
  tokClk  : Nat
  tokW4   : Bool
  /-- the credential is locked; 14 R364; reset false -/
  locked  : Bool
  /-- 64 bits; 14 R360; reset 0. USE as read -/
  use     : Nat
  /-- challenge in use; 14 R371; reset none -/
  chal    : Bytes
  /-- component read and not yet counted; 14 R371; reset none -/
  comp    : Option Bytes
  /-- waking from SLEEP: polls come before work; 14 R363; reset false -/
  waking  : Bool
  /-- round of the last command; 14 R363; reset 0 -/
  lastCmd : Round
  /-- PPS is not sent again after a failed one; 14 R367; reset false -/
  noPps   : Bool
  /-- Fi and Di of a card; 14 R367; reset 372 and 1 -/
  fi      : Nat
  di      : Nat
  /-- WI of TC2, and TC1 of the extra guard time; 14 R365; reset 10 and 0 -/
  wi      : Nat
  guard   : Byte
  /-- round from which the card's waiting time runs; 14 R365; reset 0 -/
  wait    : Round
  /-- response data of the exchange under way; 14 R368; reset none -/
  got     : Bytes
  /-- the running session's authentication has begun for this credential; 14 R371; reset false -/
  engaged : Bool
  deriving DecidableEq, Repr

/-- The quorum session (R370-R374). -/
structure Quorum where
  /-- 2 bits; 14 R374; reset IDLE. SLOT_QSTATUS.STATE -/
  st     : QuorumSt
  /-- 3 bits; 14 R374; reset none. SLOT_QSTATUS.END -/
  ended  : QuorumEnd
  /-- 4 bits; 08 R230; reset 0. KEYS_QUORUM.M -/
  m      : Nat
  /-- 10 bits; 08 R230; reset 0. Function that opened the session -/
  func   : Func
  /-- 15 bits; 14 R374; reset 0. HELD_MASK -/
  mask   : BitVec 15
  /-- up to 9 components, in order of counting; 14 R372; reset none. COMPS -/
  comps  : List Bytes
  /-- 16 bits; 14 R374; reset 600. SLOT_QLIMIT -/
  limit  : Deferred Nat
  /-- limit in force for the session; 14 R374; reset 600 -/
  inForce : Nat
  /-- rounds the session has run; 14 R370; reset 0 -/
  timer  : Nat
  /-- writes of this round to SLOT_CTRL, SLOT_QCTRL, SLOT_PW and SLOT_PW_CTRL, applied from the next: function,
  offset in the block, value; 14 R374; reset none -/
  writes : List (Func × Nat × Word)
  deriving DecidableEq, Repr

/-! ## Protection of registers and the device -/

/-- Reads that clear and other counters of single units. -/
structure Counters where
  /-- 32 bits for each function; 03 R88; reset 0. DB_DISCARD_CNT -/
  dbDiscard : SMap Word
  /-- 1 bit for each function; 03 R88; reset 0. SEAT_BANK -/
  bank      : SMap Bool
  /-- 32 bits; 05 R157; reset 0. LANE_MIG_WAIT_CNT -/
  migWait   : Word
  /-- 32 bits; 07 R204; reset 0. PKE_INVALID_CNT -/
  pkeInvalid : Word
  /-- 8 bits; 07 R204; reset 0. PKE_DSA_MAX -/
  dsaMax    : Word
  /-- 32 bits for each function and 64-bit quantity, none when no copy is pending; 00 R8; reset none.
  Key 2^25 x function + offset of the upper word -/
  holding   : SMap (Option Word)
  deriving DecidableEq, Repr

/-- The whole device. -/
structure State where
  /-- commands waiting, first in first out; reset empty -/
  pending : List Instr
  /-- 64 bits; 02 R39; reset 0. ROUND_COUNT -/
  round   : Round
  /-- byte-addressed memory in the house physical space of R389, plus each lane's entry page; 15 R389, 10 R274;
  reset nothing listed (an unlisted byte reads zero: DESIGN CHOICE, log entry 1) -/
  mem     : List Host.Cell
  power   : Power
  fuses   : Fuses
  aon     : Aon
  link    : Link
  irq     : SMap IrqBlock
  seats   : SMap Seat
  kitty   : Kitty
  dealer  : Dealer
  lanes   : SMap Lane
  records : SMap (Option MigRec)
  engines : SMap Engine
  keys    : KeyStore
  rng     : Rng
  prot    : Prot
  house   : House
  slots   : SMap Slot
  quorum  : Quorum
  cnt     : Counters
  answer  : Answer
  deriving DecidableEq, Repr

/-! ## Reset values: every field at the value its comment names -/

/-- A register value in force at once. -/
def Deferred.now {α : Type} (v : α) : Deferred α := { cur := v, prev := v, from_ := 0 }

/-- n zero bytes. -/
def zeros (n : Nat) : Bytes := List.replicate n 0

/-- The physical function of port 0, link 0. -/
def func0 : Func := { port := 0, link := 0, vf := 0 }

def IrqBlock.reset : IrqBlock := { status := 0, enable := 0, vector := 0, errInfo := 0 }

def Link.reset : Link := { queue := [], used := [], left := [], unmasked := [], msiPend := [], msix := [], mode := [] }

def Seat.reset : Seat where
  sqBase := 0
  cqBase := 0
  shadow := 0
  shadowEn := false
  sqLog2 := 4
  cqLog2 := 4
  st := .off
  prevSt := .off
  stFrom := 0
  ctrl := []
  pend := false
  cfgErr := false
  phase := false
  sqHead := 0
  sqTail := 0
  cqHead := 0
  cqTail := 0
  cqSeen := 0
  irqEn := .now false
  irqVec := .now 0
  irqCount := .now 1
  coalTime := .now 0
  stageLim := 256
  cause := .none
  idxValid := false
  haltIdx := 0
  haltAt := 0
  bind := func0
  suit := 0
  weight := 1
  decks := 0xFFFF
  flights := []
  fetches := []
  unsig := 0
  oldest := none

def Flag.reset : Flag := { owner := 0, seq := 0, seat := 0 }

def Kitty.reset : Kitty where
  flags := []
  keep := []
  holder := []
  limits := []
  refused := 0
  deniedC := 0
  touched := []
  moves := []
  putOff := []

def DigestSt.reset : DigestSt := { words := [], pend := [], total := 0, outer := [] }

def CipherSt.reset : CipherSt where
  chain := zeros 16
  ghash := zeros 16
  j0 := zeros 16
  hkey := zeros 16
  pend := []
  digest := .reset

def Datapath.reset : Datapath where
  chain := zeros 16
  counter := zeros 16
  tweak := zeros 16
  tag := zeros 64
  acc := zeros 16
  hkey := zeros 16
  j0 := zeros 16
  digest := .reset
  padded := false
  inA := zeros 64
  inB := zeros 64
  outA := zeros 64
  outB := zeros 64
  cwa := zeros 64
  cwaNext := none
  cwb := zeros 64
  wrap := []
  steps := 0
  held := []
  taken := 0
  emitted := []
  differ := false

def Banks.reset : Banks where
  k0a := none
  k0i := none
  k1a := none
  k1i := none
  dummy := none
  chain := zeros 64
  mask := []
  core := false
  denied := false
  keyin := none

def Sequencer.reset : Sequencer where
  upc := 0
  run := false
  form := false
  loops := []
  rep := none
  from_ := 0

/-- The register values of R251 and R286 (R277). -/
def Core.reset : Core where
  a := 0
  x := 0
  y := 0
  sp := 0
  pc := 0xE000
  f := 0x80
  bk := 0
  lc := 0
  le := 0
  load := none
  cyc := 0
  entryPc := 0xE040
  entrySp := 0
  entryF := 0x80
  mc := false
  latePend := none
  mdepth := 0
  splimA := 0
  splimK := 0
  splimM := 0
  excCause := 0
  lateAddr := 0
  lateInfo := 0
  irqPend := 0
  irqMask := 1
  sbuf := []
  stopped := false
  oneFirst := false
  playForm := none

def Pkr.reset : Pkr where
  op := 0
  words := 0
  go := false
  stat := 0
  m := zeros 256
  a := zeros 256
  b := zeros 256

def Lane.reset : Lane where
  en := true
  pend := false
  halted := false
  drain := false
  enAt := 0
  fault := false
  faultAt := 0
  playFault := false
  binds := []
  banks := .reset
  dp := .reset
  seqr := .reset
  core := .reset
  pkr := .reset
  pkrAt := .reset
  result := 0
  resultAt := 0
  outz := false
  exports := zeros 16
  ptIndex := 0
  keyin := zeros 32

def Dealer.reset : Dealer where
  tiePtr := 0
  deckPtr := 0
  lanePtr := 0
  waitLim := 0x10000
  busyCnt := 0
  frozen := false
  frozeAt := 0
  rngHold := false
  deficit := 0
  cover := []
  sheets := []
  grants := []
  refreshAt := 0
  seq := 0
  thawAt := 0
  plays := none

def Engine.reset : Engine where
  queue := []
  start := none
  run := none
  ended := []
  freeAt := 0
  idleFill := .now false
  dsaPad := .now 0
  blind := .now false
  mask := none
  zeroed := true
  cleared := false
  fills := 0
  tickets := 0
  colls := []
  made := []

/-- The header a wipe leaves: EMPTY, GEN 0, suit HOUSE (R205, R209). -/
def Hand.reset : Hand where
  suit := 0
  gen := 0
  live := false
  policy := 0
  defUse := 0
  base := 0
  span := 0
  slots := []
  resv := []

def KeyStore.reset : KeyStore where
  ready := false
  wipeFault := false
  rearm := none
  rearmRes := none
  rearmBlk := []
  storeKey := none
  migKey := none
  eraseAt := 0
  zeroAt := none
  wiping := false
  wipeAt := 0
  wipeLeft := 131072
  wiped := 0
  hands := []
  zeroing := []
  deny := 0

def Source.reset : Source where
  startup := 1024
  healthy := false
  last := false
  runLen := 0
  winPos := 0
  winBit := false
  winCnt := 0
  absorbed := 0
  lfsr := 0
  excl := 0
  lockout := false
  aptFail := false
  rctFail := false
  on := false

def Expander.reset : Expander where
  st := .empty
  key := List.replicate 32 0
  v := List.replicate 16 0
  seed := []
  until_ := 0
  reqs := 0
  part := 0
  lastAt := 0

def Rng.reset : Rng where
  st := .startup
  src := []
  pool := []
  expA := .reset
  expB := .reset
  shoe := []
  resv := 0
  endLevel := 0
  interval := 1024
  high := 0
  waitLim := .now 25000
  unavail := 0
  filled := 0
  delivered := 0
  flushed := 0

def Prot.reset : Prot where
  tags := []
  regions := []
  regPrev := []
  suitCnt := 0
  spanCnt := 0
  debugCnt := 0
  retagSuit := 0
  retagLane := 0
  retagPage := 0
  retagAt := none
  bad := []
  badTags := []
  fix := []
  written := []
  bucketWas := []
  scrubAt := 0
  scrubEn := .now false
  bucket := []
  leakPer := .now 25000000
  leakLim := .now 16
  leakAt := none
  ueCnt := 0
  ueLast := 0

def Filter.reset : Filter where
  hits := 0
  misses := 0
  trippd := false
  raw := false
  value := 0
  next := 0
  driven := 0

/-- The always-on domain after its loss (R335). -/
def Aon.reset : Aon where
  rtcSec := 0
  rtcFrac := 0
  rtcAcc := 0
  now := 0
  rtcValid := false
  rootKey := zeros 32
  rootValid := false
  epoch := 0
  tcr0 := []
  tcr1 := []
  bank := false
  tripped := 0
  latched := 0
  pending := 0
  freeze := false
  thaw := none
  log := []
  logNext := 0
  logWraps := 0
  sentinel := 0
  filters := []
  defaulted := true
  lost := false
  flip := none
  due := 0
  restart := 0
  rearm := 0
  test := none
  testRes := 0
  testSrc := 0

def Power.reset : Power where
  st := .run
  main := true
  cell := true
  vbatMv := 0
  temp := 0
  perst0 := true
  perst1 := true
  resetReq := false
  clock := false
  phase := 0
  bootRounds := 0
  phaseAt := 0
  bootTime := 0
  drawn := none
  bootBlk := []
  gateEn := .now true
  reqSt := 3
  stbyAt := none
  deckClk := 0
  dcrDef := false
  dcrBackup := false
  imageB := false
  bootErr := false
  errCode := 0
  dcr := []
  kernelV := 0
  appletsV := 0
  fwV := 0
  applets := []
  fuseErr := false
  eid := 0
  tap := 1
  scan := []

def Fuses.reset : Fuses where
  lc := .blank
  owner := []
  svn := 0
  dieId := 0
  trim := 0
  vdm := 0

def House.reset : House where
  core := .reset
  twin := .reset
  hwin := []
  running := false
  fatal := false
  msg := 0
  queue := []
  scLost := 0
  newest := 0
  count := 0
  sel := 0

def Slot.reset : Slot where
  present := false
  st := .off
  kind := 0
  cls := 0
  width4 := false
  clk := 0
  lastErr := 0
  roster := 0xFF
  pass := 0
  phase := 0
  cfg := .now 0
  pw := zeros 32
  pwValid := false
  pwLen := 0
  step := .none
  resends := 0
  reps := 0
  addr := 0
  sent := []
  id := []
  tokClk := 0
  tokW4 := false
  locked := false
  use := 0
  chal := []
  comp := none
  waking := false
  lastCmd := 0
  noPps := false
  fi := 372
  di := 1
  wi := 10
  guard := 0
  wait := 0
  got := []
  engaged := false

def Quorum.reset : Quorum where
  st := .idle
  ended := .none
  m := 0
  func := func0
  mask := 0
  comps := []
  limit := .now 600
  inForce := 600
  timer := 0
  writes := []

def Counters.reset : Counters where
  dbDiscard := []
  bank := []
  migWait := 0
  pkeInvalid := 0
  dsaMax := 0
  holding := []

/-- The machine right after a main reset at the first power-up of the device: main power good, PERST# low,
the always-on domain as its loss leaves it (R334, R335), no command waiting. -/
def State.reset : State where
  pending := []
  round := 0
  mem := []
  power := .reset
  fuses := .reset
  aon := .reset
  link := .reset
  irq := []
  seats := []
  kitty := .reset
  dealer := .reset
  lanes := []
  records := []
  engines := []
  keys := .reset
  rng := .reset
  prot := .reset
  house := .reset
  slots := []
  quorum := .reset
  cnt := .reset
  answer := .none

/-! ## Faults and refusals -/

/-- Faults of the machine. The manual gives every event an outcome, so none stops the block: the one
fault is of the model's own queue, and no command raises it. -/
inductive Fault where
  /-- reserved for a stop the manual names; raised by no command; safe -/
  | stopped
  deriving DecidableEq, Repr

/-- Refusals of the machine. -/
inductive Refusal where
  /-- a command that has no meaning yet; raised by Dispatch alone; safe -/
  | notModelled (mnemonic : String)
  deriving DecidableEq, Repr

end Sys2Proof.Machine
end

