-- ==== Sys2Proof/Machine/Sha.lean ====
section
/-!
DEFINITION. The digest algorithms of R159: SHA-2 (FIPS 180-4), SHA-3 and SHAKE (FIPS 202), HMAC (FIPS 198-1) and
KMAC (SP 800-185), as states that absorb bytes. The manual names the standards; the algorithms are theirs
(PRESUMED, log entry 14).
-/
namespace Sys2Proof.Machine

/-! ## Constants of SHA-2: fractional parts of roots of primes -/

/-- The largest r below 2^n more than acc with r^k at most v. -/
def rootAux (k v : Nat) : Nat → Nat → Nat
  | 0, acc => acc
  | n + 1, acc => rootAux k v n (if (acc + 2 ^ n) ^ k ≤ v then acc + 2 ^ n else acc)

/-- The integer k-th root. -/
def iroot (k v : Nat) : Nat := rootAux k v 72 0

/-- The first 80 primes. -/
def primes80 : List Nat :=
  (List.range 410).filter fun n => decide (2 ≤ n) && (List.range n).all fun d => decide (d < 2 ∨ n % d ≠ 0)

/-- 64 bits of the fractional part of a cube root. -/
def cubeFrac (p : Nat) : Nat := iroot 3 (p * 2 ^ 192) % 2 ^ 64
/-- 64 bits of the fractional part of a square root. -/
def sqrtFrac (p : Nat) : Nat := iroot 2 (p * 2 ^ 128) % 2 ^ 64

/-- Round constants of SHA-512. -/
def k512 : List (BitVec 64) := primes80.map fun p => BitVec.ofNat 64 (cubeFrac p)
/-- Round constants of SHA-256. -/
def k256 : List (BitVec 32) := (primes80.take 64).map fun p => BitVec.ofNat 32 (cubeFrac p / 2 ^ 32)

/-! ## SHA-2 -/

/-- Rotation and shift amounts of one SHA-2 width. -/
structure Sha2Rot where
  bs0 : Nat × Nat × Nat
  bs1 : Nat × Nat × Nat
  ss0 : Nat × Nat × Nat
  ss1 : Nat × Nat × Nat
  deriving DecidableEq, Repr

def rot256 : Sha2Rot := { bs0 := (2, 13, 22), bs1 := (6, 11, 25), ss0 := (7, 18, 3), ss1 := (17, 19, 10) }
def rot512 : Sha2Rot := { bs0 := (28, 34, 39), bs1 := (14, 18, 41), ss0 := (1, 8, 7), ss1 := (19, 61, 6) }

/-- Three rotations combined. -/
def rot3 {w : Nat} (t : Nat × Nat × Nat) (x : BitVec w) : BitVec w :=
  x.rotateRight t.1 ^^^ x.rotateRight t.2.1 ^^^ x.rotateRight t.2.2

/-- Two rotations and a shift combined. -/
def rot2s {w : Nat} (t : Nat × Nat × Nat) (x : BitVec w) : BitVec w :=
  x.rotateRight t.1 ^^^ x.rotateRight t.2.1 ^^^ (x >>> t.2.2)

/-- The message schedule, newest word first. -/
def sha2Sched {w : Nat} (r : Sha2Rot) : Nat → List (BitVec w) → List (BitVec w)
  | 0, ws => ws
  | n + 1, ws =>
    sha2Sched r n ((rot2s r.ss1 (ws.getD 1 0) + ws.getD 6 0 + rot2s r.ss0 (ws.getD 14 0) + ws.getD 15 0) :: ws)

/-- The working variables a to h through the rounds. -/
def sha2Rounds {w : Nat} (r : Sha2Rot) : List (BitVec w × BitVec w) → List (BitVec w) → List (BitVec w)
  | (k, x) :: t, [a, b, c, d, e, f, g, h] =>
    let t1 := h + rot3 r.bs1 e + ((e &&& f) ^^^ (~~~e &&& g)) + k + x
    let t2 := rot3 r.bs0 a + ((a &&& b) ^^^ (a &&& c) ^^^ (b &&& c))
    sha2Rounds r t [t1 + t2, a, b, c, d + t1, e, f, g]
  | _, v => v

/-- The compression function on the words of a block. -/
def sha2Compress {w : Nat} (r : Sha2Rot) (ks v m : List (BitVec w)) : List (BitVec w) :=
  let ws := (sha2Sched r (ks.length - 16) m.reverse).reverse
  List.zipWith (· + ·) v (sha2Rounds r (ks.zip ws) v)

/-- One block absorbed; wide selects the 64-bit algorithms. -/
def sha2Block (wide : Bool) (v : List (BitVec 64)) (b : Bytes) : List (BitVec 64) :=
  if wide then sha2Compress rot512 k512 v ((chunks 8 b).map fun x => BitVec.ofNat 64 (beNat x))
  else (sha2Compress rot256 k256 (v.map (·.setWidth 32))
    ((chunks 4 b).map fun x => BitVec.ofNat 32 (beNat x))).map (·.setWidth 64)

/-! ## Keccak-f[1600]: lanes at x + 5y -/

/-- Bit t of the round-constant sequence, from the LFSR x^8 + x^6 + x^5 + x^4 + 1. -/
def keccakLfsr : Nat → Nat → Nat
  | 0, r => r
  | n + 1, r => keccakLfsr n (let v := 2 * r; if v < 256 then v else Nat.xor (v - 256) 0x71)

/-- The round constant of round i. -/
def keccakRc (i : Nat) : BitVec 64 :=
  (List.range 7).foldl (fun acc j =>
    if keccakLfsr (j + 7 * i) 1 % 2 = 1 then acc ^^^ BitVec.ofNat 64 (2 ^ (2 ^ j - 1)) else acc) 0

/-- The lanes after theta. -/
def keccakTheta (a : List (BitVec 64)) : List (BitVec 64) :=
  let c := (List.range 5).map fun x => (List.range 5).foldl (fun z y => z ^^^ a.getD (x + 5 * y) 0) 0
  (List.range 25).map fun i =>
    a.getD i 0 ^^^ c.getD ((i + 4) % 5) 0 ^^^ (c.getD ((i + 1) % 5) 0).rotateLeft 1

/-- rho and pi: the lane from (x, y) moves to (y, 2x + 3y), t steps still to walk. -/
def keccakRhoPi (a : List (BitVec 64)) : Nat → Nat → Nat → Nat → List (BitVec 64) → List (BitVec 64)
  | 0, _, _, _, out => out
  | n + 1, t, x, y, out =>
    let x' := y
    let y' := (2 * x + 3 * y) % 5
    keccakRhoPi a n (t + 1) x' y'
      (out.set (x' + 5 * y') ((a.getD (x + 5 * y) 0).rotateLeft ((t + 1) * (t + 2) / 2 % 64)))

/-- One round. -/
def keccakRound (rc : BitVec 64) (a : List (BitVec 64)) : List (BitVec 64) :=
  let t := keccakTheta a
  let b := keccakRhoPi t 24 0 1 0 t
  let c := (List.range 25).map fun i =>
    b.getD i 0 ^^^ (~~~ b.getD (i / 5 * 5 + (i + 1) % 5) 0 &&& b.getD (i / 5 * 5 + (i + 2) % 5) 0)
  c.set 0 (c.getD 0 0 ^^^ rc)

def keccakRcs : List (BitVec 64) := (List.range 24).map keccakRc

/-- The permutation. -/
def keccakF (a : List (BitVec 64)) : List (BitVec 64) := keccakRcs.foldl (fun s rc => keccakRound rc s) a

/-- A rate block absorbed. -/
def keccakBlock (v : List (BitVec 64)) (b : Bytes) : List (BitVec 64) :=
  keccakF (v.zipIdx.map fun p => p.1 ^^^ BitVec.ofNat 64 (leNat (slice b (8 * p.2) 8)))

/-- n bytes squeezed at a rate; the fuel counts blocks. -/
def keccakSqueeze (rate : Nat) : Nat → Nat → List (BitVec 64) → Bytes
  | 0, _, _ => []
  | fuel + 1, n, v =>
    let blk := (v.flatMap fun w => natLe 8 w.toNat).take rate
    if n ≤ rate then blk.take n else blk ++ keccakSqueeze rate fuel (n - rate) (keccakF v)

/-! ## The algorithms by HALG (R159) -/

/-- B of R159: block size or rate in bytes. -/
def halgB (h : Nat) : Nat :=
  if h < 2 then 64 else if h < 5 then 128 else if h = 8 then 144 else if h = 9 then 136
  else if h = 10 then 104 else if h = 11 then 72 else if h = 12 then 168 else 136

/-- F of R159: full output length in bytes. -/
def halgF (h : Nat) : Nat :=
  if h = 0 then 28 else if h = 1 then 32 else if h = 2 then 48 else if h = 3 then 64 else if h = 4 then 32
  else if h = 8 then 28 else if h = 9 then 32 else if h = 10 then 48 else if h = 11 then 64
  else if h = 12 then 32 else 64

/-- The 64-bit SHA-2 algorithms. -/
def halgWide (h : Nat) : Bool := decide (2 ≤ h ∧ h ≤ 4)

/-- Square-root words of the first eight primes, and of the next eight. -/
def ivSqrt (skip : Nat) : List (BitVec 64) :=
  ((primes80.drop skip).take 8).map fun p => BitVec.ofNat 64 (sqrtFrac p)

/-- The state an algorithm starts from, but for SHA-512/256. -/
def digIv (h : Nat) : List (BitVec 64) :=
  if h = 0 then (ivSqrt 8).map fun w => w &&& 0xFFFFFFFF
  else if h = 1 then (ivSqrt 0).map fun (w : BitVec 64) => w >>> (32 : Nat)
  else if h = 2 then ivSqrt 8
  else if h = 3 then ivSqrt 0
  else if h = 4 then (ivSqrt 0).map fun w => w ^^^ 0xA5A5A5A5A5A5A5A5
  else List.replicate 25 0

/-- One block of an algorithm. -/
def digBlock (h : Nat) (v : List (BitVec 64)) (b : Bytes) : List (BitVec 64) :=
  if h < 5 then sha2Block (halgWide h) v b else keccakBlock v b

/-- Whole blocks of n bytes taken from the front; the fuel is the length. -/
def digBlocks (h n : Nat) : Nat → List (BitVec 64) → Bytes → List (BitVec 64) × Bytes
  | 0, v, b => (v, b)
  | fuel + 1, v, b => if b.length < n then (v, b) else digBlocks h n fuel (digBlock h v (b.take n)) (b.drop n)

/-- Bytes absorbed. -/
def digAbsorb (h : Nat) (st : DigestSt) (b : Bytes) : DigestSt :=
  let r := digBlocks h (halgB h) (st.pend.length + b.length) st.words (st.pend ++ b)
  { st with words := r.1, pend := r.2, total := st.total + b.length }

/-- SHA-2 padding of a message of n bytes whose last block holds r of them. -/
def sha2Pad (wide : Bool) (n r : Nat) : Bytes :=
  let blk := if wide then 128 else 64
  let len := if wide then 16 else 8
  let z := (2 * blk - r - 1 - len) % blk
  0x80 :: (zeros z ++ natBe len (8 * n))

/-- Keccak padding with a suffix byte when r bytes of a block of n are pending. -/
def keccakPad (suffix : Byte) (n r : Nat) : Bytes :=
  if n = r + 1 then [suffix ||| 0x80] else suffix :: (zeros (n - r - 2) ++ [0x80])

/-- The words of a SHA-2 state as bytes. -/
def sha2Out (wide : Bool) (v : List (BitVec 64)) : Bytes :=
  v.flatMap fun w => natBe (if wide then 8 else 4) w.toNat

/-- Suffix byte of the Keccak algorithms: SHA-3 or SHAKE. -/
def halgSuffix (h : Nat) : Byte := if h < 12 then 0x06 else 0x1F

/-- The padding absorbed, with the suffix byte of the Keccak algorithms (microword DG = PAD). -/
def digPad (h : Nat) (suffix : Byte) (st : DigestSt) : DigestSt :=
  { st with
    pend := []
    words := if h < 5 then (digBlocks h (halgB h) 4 st.words (st.pend ++ sha2Pad (halgWide h) st.total st.pend.length)).1
      else digBlock h st.words (st.pend ++ keccakPad suffix (halgB h) st.pend.length) }

/-- The output of n bytes of a padded state. -/
def digOut (h : Nat) (st : DigestSt) (n : Nat) : Bytes :=
  if h < 5 then (sha2Out (halgWide h) st.words).take n else keccakSqueeze (halgB h) (n / halgB h + 1) n st.words

/-- The output of n bytes, with the suffix byte of the Keccak algorithms. -/
def digFinal (h : Nat) (suffix : Byte) (st : DigestSt) (n : Nat) : Bytes := digOut h (digPad h suffix st) n

/-- The starting state of an algorithm (microword DG = INIT). SHA-512/256 derives its own from SHA-512. -/
def digInit (h : Nat) : DigestSt :=
  let st : DigestSt := { words := digIv h, pend := [], total := 0, outer := [] }
  if h = 4 then
    let o := digFinal 3 0 (digAbsorb 3 st ("SHA-512/256".toUTF8.toList.map fun c => c.toBitVec)) 64
    { st with words := (chunks 8 o).map fun x => BitVec.ofNat 64 (beNat x) }
  else st

/-- A whole message under HALG h. -/
def hashOf (h : Nat) (b : Bytes) : Bytes := digFinal h (halgSuffix h) (digAbsorb h (digInit h) b) (halgF h)

/-- SHAKE128 (12) or SHAKE256 (13) of n bytes. -/
def shake (h n : Nat) (b : Bytes) : Bytes := digFinal h 0x1F (digAbsorb h (digInit h) b) n

/-! ## HMAC and KMAC -/

/-- HMAC started: the key block with ipad absorbed, and the state of the key block with opad kept (KEYPRE). -/
def hmacInit (h : Nat) (key : Bytes) : DigestSt :=
  let k := padTo (halgB h) key
  let i := digAbsorb h (digInit h) (k.map fun b => b ^^^ 0x36)
  { i with outer := (digAbsorb h (digInit h) (k.map fun b => b ^^^ 0x5C)).words }

/-- The outer hash of HMAC over an inner digest. -/
def hmacOuter (h : Nat) (st : DigestSt) (inner : Bytes) : Bytes :=
  let o : DigestSt := { words := st.outer, pend := [], total := halgB h, outer := [] }
  digFinal h (halgSuffix h) (digAbsorb h o inner) (halgF h)

/-- HMAC finished. -/
def hmacFinal (h : Nat) (st : DigestSt) : Bytes := hmacOuter h st (digFinal h (halgSuffix h) st (halgF h))

/-- Bytes of a number, most significant first, at least one. -/
def minBe (v : Nat) : Bytes :=
  let n := (List.range 8).foldl (fun m i => if 256 ^ (i + 1) ≤ v then i + 2 else m) 1
  natBe n v

def leftEncode (v : Nat) : Bytes := BitVec.ofNat 8 (minBe v).length :: minBe v
def rightEncode (v : Nat) : Bytes := minBe v ++ [BitVec.ofNat 8 (minBe v).length]
def encodeString (b : Bytes) : Bytes := leftEncode (8 * b.length) ++ b
def bytepad (w : Nat) (b : Bytes) : Bytes :=
  let x := leftEncode w ++ b
  x ++ zeros ((w - x.length % w) % w)

/-- The bytes of "KMAC". -/
def kmacName : Bytes := [0x4B, 0x4D, 0x41, 0x43]

/-- KMAC started with key and customisation string (KEYPRE). -/
def kmacInit (h : Nat) (key custom : Bytes) : DigestSt :=
  let w := halgB h
  let st := digAbsorb h (digInit h) (bytepad w (encodeString kmacName ++ encodeString custom))
  digAbsorb h st (bytepad w (encodeString key))

/-- KMAC finished with n bytes of output (R160). -/
def kmacFinal (h : Nat) (st : DigestSt) (n : Nat) : Bytes :=
  digFinal h 0x04 (digAbsorb h st (rightEncode (8 * n))) n

/-- KMAC256 of a whole input. -/
def kmac256 (key input custom : Bytes) (n : Nat) : Bytes := kmacFinal 13 (digAbsorb 13 (kmacInit 13 key custom) input) n

end Sys2Proof.Machine
end

