-- ==== Sys2Proof/Machine/PkMath.lean ====
section
/-!
DEFINITION. The arithmetic of the public-key engines (R175, R179, R187): modular exponentiation, the ffdhe groups
(RFC 7919), the RSA encodings (RFC 8017), the P-curves (SP 800-186, FIPS 186-5), X25519 and X448 (RFC 7748),
Ed25519 and Ed448 (RFC 8032). The manual names the standards; the algorithms are theirs (PRESUMED, log entry 14).
-/
namespace Sys2Proof.Machine

/-- b^e mod m times acc, with a fuel of e's bits. -/
def powAux (m : Nat) : Nat → Nat → Nat → Nat → Nat
  | 0, _, _, acc => acc
  | n + 1, b, e, acc => powAux m n (b * b % m) (e / 2) (if e % 2 = 1 then acc * b % m else acc)

/-- b^e mod m. -/
def modPow (b e m : Nat) : Nat := powAux m (e.log2 + 1) (b % m) e (1 % m)

/-- The inverse modulo a prime: exponentiation by the modulus minus 2 (R179). -/
def modInv (a m : Nat) : Nat := modPow a (m - 2) m

/-- a - b modulo m. -/
def modSub (a b m : Nat) : Nat := (a % m + m - b % m) % m

/-- Whether n has exactly k bits. -/
def bitLen (n k : Nat) : Bool := decide (2 ^ (k - 1) ≤ n ∧ n < 2 ^ k)

/-! ## RSA and its encodings -/

/-- RSA private exponentiation by the Chinese remainder (R208: p, q, dp, dq, qinv). -/
def rsaCrt (p q dp dq qinv x : Nat) : Nat :=
  let m1 := modPow x dp p
  let m2 := modPow x dq q
  m2 + q * (qinv * modSub m1 m2 p % p)

/-- HALG of an engine's HASH field: 1 SHA-256, 2 SHA-384, 3 SHA-512 (R184). -/
def pkHalg (h : Nat) : Nat := h

/-- Hash length of an engine's HASH field (R185). -/
def pkHashLen (h : Nat) : Nat := if h = 1 then 32 else if h = 2 then 48 else if h = 3 then 64 else 0

/-- MGF1 with the operation's hash. -/
def mgf1 (h : Nat) (seed : Bytes) (n : Nat) : Bytes :=
  ((List.range (ceilDiv n (pkHashLen h))).flatMap fun i => hashOf (pkHalg h) (seed ++ natBe 4 i)).take n

/-- EME-OAEP encoding with an empty label. -/
def oaepEncode (h k : Nat) (m seed : Bytes) : Bytes :=
  let hl := pkHashLen h
  let db := hashOf (pkHalg h) [] ++ zeros (k - m.length - 2 * hl - 2) ++ [1] ++ m
  let mdb := xorBytes db (mgf1 h seed (k - hl - 1))
  let ms := xorBytes seed (mgf1 h mdb hl)
  0 :: (ms ++ mdb)

/-- EME-OAEP decoding: the message, or nothing. -/
def oaepDecode (h k : Nat) (em : Bytes) : Option Bytes :=
  let hl := pkHashLen h
  let ms := slice em 1 hl
  let mdb := em.drop (1 + hl)
  let seed := xorBytes ms (mgf1 h mdb hl)
  let db := xorBytes mdb (mgf1 h seed (k - hl - 1))
  let rest := (db.drop hl).dropWhile (· == 0)
  if byteAt em 0 == 0 && db.take hl == hashOf (pkHalg h) [] && rest.head? == some 1 then some (rest.drop 1) else none

/-- EMSA-PSS encoding of a digest with a salt, for a modulus of 8k bits. -/
def pssEncode (h k : Nat) (digest salt : Bytes) : Bytes :=
  let hl := pkHashLen h
  let hh := hashOf (pkHalg h) (zeros 8 ++ digest ++ salt)
  let db := zeros (k - 2 * hl - 2) ++ [1] ++ salt
  let m := xorBytes db (mgf1 h hh (k - hl - 1))
  (byteAt m 0 &&& 0x7F) :: (m.drop 1 ++ hh ++ [0xBC])

/-- Whether an encoded message is a PSS encoding of a digest with a salt of h bytes. -/
def pssCheck (h k : Nat) (digest em : Bytes) : Bool :=
  let hl := pkHashLen h
  let m := em.take (k - hl - 1)
  let hh := slice em (k - hl - 1) hl
  let db := xorBytes m (mgf1 h hh (k - hl - 1))
  let db := (byteAt db 0 &&& 0x7F) :: db.drop 1
  byteAt em (k - 1) == 0xBC && bits (byteAt m 0).toNat 7 7 == 0
    && db.take (k - 2 * hl - 1) == zeros (k - 2 * hl - 2) ++ [1]
    && hh == hashOf (pkHalg h) (zeros 8 ++ digest ++ db.drop (k - 2 * hl - 1))

/-- The DigestInfo prefix of a hash. -/
def digestInfo (h : Nat) : Bytes :=
  let hl := pkHashLen h
  [0x30, BitVec.ofNat 8 (17 + hl), 0x30, 0x0D, 0x06, 0x09, 0x60, 0x86, 0x48, 0x01, 0x65, 0x03, 0x04, 0x02,
   BitVec.ofNat 8 h, 0x05, 0x00, 0x04, BitVec.ofNat 8 hl]

/-- EMSA-PKCS1-v1_5 encoding. -/
def v15Encode (h k : Nat) (digest : Bytes) : Bytes :=
  let t := digestInfo h ++ digest
  [0x00, 0x01] ++ List.replicate (k - t.length - 3) 0xFF ++ [0x00] ++ t

/-! ## Finite-field groups -/

/-- e scaled by 2^n: the sum of 2^n divided by each factorial, the fuel counting terms. -/
def eFixed : Nat → Nat → Nat → Nat
  | 0, _, _ => 0
  | fuel + 1, t, k => t + eFixed fuel (t / k) (k + 1)

/-- The prime of an ffdhe group of n bits, with the constant X of RFC 7919. -/
def ffdhe (n x : Nat) : Nat :=
  2 ^ n - 2 ^ (n - 64) + (eFixed 2000 (2 ^ (n - 130 + 64)) 1 / 2 ^ 64 + x) * 2 ^ 64 - 1

/-- Bits of the prime of GROUP (R184). -/
def dhBits (g : Nat) : Nat := if g = 1 then 2048 else if g = 2 then 3072 else if g = 3 then 4096 else 8192

/-- The prime of GROUP. -/
def dhPrime (g : Nat) : Nat :=
  if g = 1 then ffdhe 2048 560316 else if g = 2 then ffdhe 3072 2625351
  else if g = 3 then ffdhe 4096 5736041 else ffdhe 8192 10965728

/-- Bits of a private exponent: 2s (R187). -/
def dhExpBits (g : Nat) : Nat := if g = 1 then 224 else if g = 2 then 256 else if g = 3 then 304 else 400

/-! ## P-curves -/

/-- A prime curve y^2 = x^3 - 3x + b with base point and order. -/
structure Curve where
  p  : Nat
  b  : Nat
  n  : Nat
  gx : Nat
  gy : Nat
  f  : Nat
  nb : Nat
  deriving DecidableEq, Repr

def p256 : Curve where
  p := 2 ^ 256 - 2 ^ 224 + 2 ^ 192 + 2 ^ 96 - 1
  b := 0x5ac635d8aa3a93e7b3ebbd55769886bc651d06b0cc53b0f63bce3c3e27d2604b
  n := 0xffffffff00000000ffffffffffffffffbce6faada7179e84f3b9cac2fc632551
  gx := 0x6b17d1f2e12c4247f8bce6e563a440f277037d812deb33a0f4a13945d898c296
  gy := 0x4fe342e2fe1a7f9b8ee7eb4a7c0f9e162bce33576b315ececbb6406837bf51f5
  f := 32
  nb := 256

def p384 : Curve where
  p := 2 ^ 384 - 2 ^ 128 - 2 ^ 96 + 2 ^ 32 - 1
  b := 0xb3312fa7e23ee7e4988e056be3f82d19181d9c6efe8141120314088f5013875ac656398d8a2ed19d2a85c8edd3ec2aef
  n := 0xffffffffffffffffffffffffffffffffffffffffffffffffc7634d81f4372ddf581a0db248b0a77aecec196accc52973
  gx := 0xaa87ca22be8b05378eb1c71ef320ad746e1d3b628ba79b9859f741e082542a385502f25dbf55296c3a545e3872760ab7
  gy := 0x3617de4a96262c6f5d9e98bf9292dc29f8f41dbd289a147ce9da3113b5f0b8c00a60b1ce1d7e819d7a431d7c90ea0e5f
  f := 48
  nb := 384

def p521 : Curve where
  p := 2 ^ 521 - 1
  b := 0x51953eb9618e1c9a1f929a21a0b68540eea2da725b99b315f3b8b489918ef109e156193951ec7e937b1652c0bd3bb1bf073573df883d2c34f1ef451fd46b503f00
  n := 0x1fffffffffffffffffffffffffffffffffffffffffffffffffffffffffffffffffa51868783bf2f966b7fcc0148f709a5d03bb5c9b8899c47aebb6fb71e91386409
  gx := 0xc6858e06b70404e9cd9e3ecb662395b4429c648139053fb521f828af606b4d3dbaa14b5e77efe75928fe1dc127a2ffa8de3348b3c1856a429bf97e7e31c2e5bd66
  gy := 0x11839296a789a3bc0045c8a5fb42c7d1bd998f54449579b446817afbd17273e662c97ee72995ef42640c550b9013fad0761353c7086a272c24088be94769fd16650
  f := 66
  nb := 521

/-- The curve a CURVE code names (R184). -/
def curveOf (c : Nat) : Curve := if c = 1 then p256 else if c = 2 then p384 else p521

/-- A point of a P-curve; none is the point at infinity. -/
abbrev Pt := Option (Nat × Nat)

def onCurve (c : Curve) (x y : Nat) : Bool :=
  decide (y * y % c.p = (x * x * x + (c.p - 3) * x + c.b) % c.p)

/-- The chord or tangent of slope l through a point with abscissas x1 and x2. -/
def chord (c : Curve) (l x1 y1 x2 : Nat) : Pt :=
  let x3 := modSub (l * l) (x1 + x2) c.p
  some (x3, modSub (l * modSub x1 x3 c.p) y1 c.p)

/-- Point addition. -/
def ptAdd (c : Curve) : Pt → Pt → Pt
  | none, q => q
  | p, none => p
  | some (x1, y1), some (x2, y2) =>
    if x1 = x2 then
      if (y1 + y2) % c.p = 0 then none
      else chord c ((3 * x1 * x1 + c.p - 3) * modInv (2 * y1) c.p % c.p) x1 y1 x2
    else chord c (modSub y2 y1 c.p * modInv (modSub x2 x1 c.p) c.p % c.p) x1 y1 x2

/-- Scalar multiplication by a fuel of bits. -/
def ptMulAux (c : Curve) : Nat → Nat → Pt → Pt → Pt
  | 0, _, _, acc => acc
  | n + 1, k, p, acc => ptMulAux c n (k / 2) (ptAdd c p p) (if k % 2 = 1 then ptAdd c acc p else acc)

def ptMul (c : Curve) (k : Nat) (p : Pt) : Pt := ptMulAux c (k.log2 + 1) k p none

def ptBase (c : Curve) : Pt := some (c.gx, c.gy)

/-- A point in the uncompressed SEC 1 form (R185). -/
def ptBytes (c : Curve) : Pt → Bytes
  | none => [0]
  | some (x, y) => 0x04 :: (natBe c.f x ++ natBe c.f y)

/-- Coordinates read from the uncompressed form. -/
def ptCoords (c : Curve) (b : Bytes) : Nat × Nat := (beNat (slice b 1 c.f), beNat (slice b (1 + c.f) c.f))

/-- A digest as a number: its leftmost bits up to the order's length (R187). -/
def digestNum (c : Curve) (d : Bytes) : Nat :=
  if 8 * d.length ≤ c.nb then beNat d else beNat d / 2 ^ (8 * d.length - c.nb)

/-- A scalar from random bytes with extra bits: 1 to n - 1 (FIPS 186-5; byte order PRESUMED, log entry 15). -/
def extraBits (c : Curve) (r : Bytes) : Nat :=
  let w := c.nb + 64
  let v := beNat (r.take (ceilDiv w 8)) / 2 ^ (8 * ceilDiv w 8 - w)
  v % (c.n - 1) + 1

/-- ECDSA signature r, s. -/
def ecdsaSign (c : Curve) (d k : Nat) (digest : Bytes) : Nat × Nat :=
  match ptMul c k (ptBase c) with
  | none => (0, 0)
  | some (x, _) =>
    let r := x % c.n
    (r, modInv k c.n * (digestNum c digest + r * d) % c.n)

/-- ECDSA verification equation. -/
def ecdsaVerify (c : Curve) (q : Pt) (r s : Nat) (digest : Bytes) : Bool :=
  let w := modInv s c.n
  match ptAdd c (ptMul c (digestNum c digest * w % c.n) (ptBase c)) (ptMul c (r * w % c.n) q) with
  | none => false
  | some (x, _) => decide (x % c.n = r)

/-! ## X25519 and X448 -/

/-- One step of the ladder: (x2, z2) and (x3, z3) after a bit, x1 the input coordinate. -/
def ladderStep (p a24 x1 : Nat) (t : Bool) (v : (Nat × Nat) × (Nat × Nat)) : (Nat × Nat) × (Nat × Nat) :=
  let sw := fun (w : (Nat × Nat) × (Nat × Nat)) => if t then (w.2, w.1) else w
  let ((x2, z2), (x3, z3)) := sw v
  let a := (x2 + z2) % p
  let b := modSub x2 z2 p
  let aa := a * a % p
  let bb := b * b % p
  let e := modSub aa bb p
  let da := modSub x3 z3 p * a % p
  let cb := (x3 + z3) * b % p
  let u := (da + cb) % p
  let w := modSub da cb p
  sw ((aa * bb % p, e * ((aa + a24 * e) % p) % p), (u * u % p, x1 * (w * w % p) % p))

/-- The ladder over n bits of a scalar. -/
def ladder (p a24 x1 k : Nat) : Nat → (Nat × Nat) × (Nat × Nat) → (Nat × Nat) × (Nat × Nat)
  | 0, v => v
  | n + 1, v => ladder p a24 x1 k n (ladderStep p a24 x1 (k / 2 ^ n % 2 == 1) v)

def q25519 : Nat := 2 ^ 255 - 19
def q448 : Nat := 2 ^ 448 - 2 ^ 224 - 1

/-- X25519 of a scalar and a coordinate (RFC 7748). -/
def x25519 (k u : Bytes) : Bytes :=
  let kn := leNat k % 2 ^ 254 / 8 * 8 + 2 ^ 254
  let x := leNat u % 2 ^ 255
  let r := (ladder q25519 121665 (x % q25519) kn 255 ((1, 0), (x % q25519, 1))).1
  natLe 32 (r.1 * modInv r.2 q25519 % q25519)

/-- X448 of a scalar and a coordinate (RFC 7748). -/
def x448 (k u : Bytes) : Bytes :=
  let kn := leNat k % 2 ^ 447 / 4 * 4 + 2 ^ 447
  let x := leNat u % q448
  let r := (ladder q448 39081 x kn 448 ((1, 0), (x, 1))).1
  natLe 56 (r.1 * modInv r.2 q448 % q448)

/-! ## Ed25519 and Ed448 -/

/-- An Edwards curve a x^2 + y^2 = 1 + d x^2 y^2. -/
structure EdCurve where
  p  : Nat
  a  : Nat
  d  : Nat
  l  : Nat
  b  : Nat
  by_ : Nat
  bSign : Nat
  deriving DecidableEq, Repr

/-- A square root modulo p, when w has one. -/
def modSqrt (p w : Nat) : Option Nat :=
  let c := if p % 4 = 3 then modPow w ((p + 1) / 4) p else modPow w ((p + 3) / 8) p
  if c * c % p = w % p then some c
  else
    let c2 := c * modPow 2 ((p - 1) / 4) p % p
    if c2 * c2 % p = w % p then some c2 else none

def ed25519 : EdCurve where
  p := q25519
  a := q25519 - 1
  d := modSub 0 (121665 * modInv 121666 q25519) q25519
  l := 2 ^ 252 + 27742317777372353535851937790883648493
  b := 32
  by_ := 4 * modInv 5 q25519 % q25519
  bSign := 0

def ed448 : EdCurve where
  p := q448
  a := 1
  d := q448 - 39081
  l := 2 ^ 446 - 13818066809895115352007386748515426880336692474882178609894547503885
  b := 57
  by_ := 298819210078481492676017930443930673437544040154080242095928241372331506189835876003536878655418784733982303233503462500531545062832660
  bSign := 0

/-- Edwards addition by the complete affine formulas. -/
def edAdd (c : EdCurve) (u v : Nat × Nat) : Nat × Nat :=
  let t := c.d * (u.1 * v.1 % c.p) % c.p * (u.2 * v.2 % c.p) % c.p
  ((u.1 * v.2 + v.1 * u.2) * modInv (1 + t) c.p % c.p,
   modSub (u.2 * v.2) (c.a * u.1 % c.p * v.1) c.p * modInv (modSub 1 t c.p) c.p % c.p)

def edMulAux (c : EdCurve) : Nat → Nat → Nat × Nat → Nat × Nat → Nat × Nat
  | 0, _, _, acc => acc
  | n + 1, k, p, acc => edMulAux c n (k / 2) (edAdd c p p) (if k % 2 = 1 then edAdd c acc p else acc)

def edMul (c : EdCurve) (k : Nat) (p : Nat × Nat) : Nat × Nat := edMulAux c (k.log2 + 1) k p (0, 1)

/-- A point with ordinate y and the sign bit of x (RFC 8032). -/
def edLift (c : EdCurve) (y sign : Nat) : Option (Nat × Nat) :=
  let w := modSub (y * y) 1 c.p * modInv (modSub (c.d * (y * y % c.p)) c.a c.p) c.p % c.p
  match modSqrt c.p w with
  | none => none
  | some x =>
    if c.p ≤ y then none
    else if x = 0 ∧ sign = 1 then none
    else some (if x % 2 = sign then x else modSub 0 x c.p, y)

def edDecode (c : EdCurve) (b : Bytes) : Option (Nat × Nat) :=
  let v := leNat b
  edLift c (v % 2 ^ (8 * c.b - 1)) (v / 2 ^ (8 * c.b - 1))

def edEncode (c : EdCurve) (q : Nat × Nat) : Bytes := natLe c.b (q.2 + 2 ^ (8 * c.b - 1) * (q.1 % 2))

/-- The base point: x is the even root for Ed25519 and for Ed448. -/
def edBase (c : EdCurve) : Nat × Nat := (edLift c c.by_ c.bSign).getD (0, 1)

/-- The hash of EdDSA: SHA-512, or SHAKE256 of 114 bytes after dom4 with the context. -/
def edHash (big : Bool) (ctx m : Bytes) : Bytes :=
  if big then
    shake 13 114 (("SigEd448".toUTF8.toList.map fun c => c.toBitVec) ++ [0, BitVec.ofNat 8 ctx.length] ++ ctx ++ m)
  else hashOf 3 m

/-- The secret scalar and prefix of a seed. -/
def edSecret (big : Bool) (seed : Bytes) : Nat × Bytes :=
  if big then
    let h := shake 13 114 seed
    (leNat (h.take 57) % 2 ^ 447 / 4 * 4 + 2 ^ 447, h.drop 57)
  else
    let h := hashOf 3 seed
    (leNat (h.take 32) % 2 ^ 254 / 8 * 8 + 2 ^ 254, h.drop 32)

def edCurve (big : Bool) : EdCurve := if big then ed448 else ed25519

/-- The public key of a seed. -/
def edPublic (big : Bool) (seed : Bytes) : Bytes :=
  let c := edCurve big
  edEncode c (edMul c ((edSecret big seed).1 % c.l) (edBase c))

/-- An EdDSA signature. -/
def edSign (big : Bool) (seed pub ctx m : Bytes) : Bytes :=
  let c := edCurve big
  let sk := edSecret big seed
  let r := leNat (edHash big ctx (sk.2 ++ m)) % c.l
  let rb := edEncode c (edMul c r (edBase c))
  let k := leNat (edHash big ctx (rb ++ pub ++ m)) % c.l
  rb ++ natLe c.b ((r + k * sk.1) % c.l)

/-- The cofactored verification equation over decoded points (R187). -/
def edVerify (big : Bool) (a r : Nat × Nat) (s : Nat) (pub rb ctx m : Bytes) : Bool :=
  let c := edCurve big
  let k := leNat (edHash big ctx (rb ++ pub ++ m)) % c.l
  edMul c 8 (edMul c s (edBase c)) == edAdd c (edMul c 8 r) (edMul c 8 (edMul c k a))

end Sys2Proof.Machine
end

