-- ==== Sys2Proof/Config.lean ====
section
/-!
DEFINITION. What one GV-7128 fixes (R1, R32, R35, R37), and the free values: constants without a body
that stand for every value the manual leaves open. No proof can see what a free value is.
-/
namespace Sys2Proof.Config

/-- Number of lanes (R126). -/
def lanes : Nat := 128
/-- Number of decks, each with 8 lanes and one engine (R126). -/
def decks : Nat := 16
/-- Number of seats (R1). -/
def seats : Nat := 8192
/-- Number of hands (R205). -/
def hands : Nat := 65536
/-- Granules of the key pool (R205). -/
def poolGranules : Nat := 65536
/-- Granules of the whole key store (R205). -/
def storeGranules : Nat := 131072
/-- Tricks of the device staging pool (R26, R108). -/
def stagePool : Nat := 65536
/-- Migration records (R151). -/
def migRecords : Nat := 8192
/-- Kitty slots (R114). -/
def kittySlots : Nat := 4096
/-- Blocks the shoe holds (R239). -/
def shoeSize : Nat := 512
/-- Rounds in a second (R32). -/
def roundsPerSecond : Nat := 25000000
/-- Rounds in a millisecond, the sample period of the slow monitors (R324). -/
def roundsPerMs : Nat := 25000
/-- Bytes a whole x16 port carries in a round in one direction (R32). -/
def portBytes : Nat := 4096
/-- Bytes one x8 link of a bifurcated port carries in a round (R82). -/
def linkBytes : Nat := 2048
/-- Core cycles in a round (R250). -/
def coreCycles : Nat := 16

/-- FREE VALUE. A noise source's compressor after one more sample (R231 gives its length, 128 bits, and no polynomial).
Arguments: the register and the sample. -/
opaque lfsrStep : BitVec 128 → Bool → BitVec 128
/-- FREE VALUE. Byte n of the monitor ROM and of the other images whose contents the manual does not give. -/
opaque romByte : Nat → Byte
/-- FREE VALUE. The read of a house control register whose layout the manual does not give (R275). -/
opaque houseReg : Nat → Byte
/-- FREE VALUE. SHA-384 of the vendor key, held in the boot ROM (R382). -/
opaque vendorKeyHash : List Byte
/-- FREE VALUE. A byte of the fuse array as house cores read it at 0x05_0000_0000: the manual gives its contents but
not their places (R386, R389). Arguments: lifecycle code, SVN, the other fused bytes, the address. -/
opaque fuseByte : Nat → Nat → List Byte → Nat → Byte
/-- FREE VALUE. Whether an owner signature verifies under the owner key whose hash is fused (R382, R385):
the manual does not say where the owner key itself is held. Arguments: fused hash, message, signature. -/
opaque ownerSigOk : List Byte → List Byte → List Byte → Bool
/-- FREE VALUE. Word a of the applet table, and byte i of microwords 192-255, that a signed applet package holds: the
manual does not give the package's layout (R135, R155). First argument: the package. -/
opaque appletTable : List Byte → Nat → BitVec 32
opaque appletMicro : List Byte → Nat → Byte
/-- FREE VALUE. Word i of a lane's region set, and of the house set for lane 128, in the signed house image (R309): the
manual does not give their places. First argument: the image. -/
opaque regionWord : List Byte → Nat → Nat → BitVec 32
/-- FREE VALUE. The play-table entry point that the signed play image gives: the manual does not print the image (R135,
R143, R166). Arguments: the image, OPCODE (0 for the refusal entry), MODE and direction, role, place of the segment,
pad count. -/
opaque entryPoint : List Byte → Nat → Nat → Nat → Nat → Nat → BitVec 8
/-- FREE VALUE. Place of the body microword of a dummy class in the signed play image (R137). -/
opaque bodyWord : List Byte → Nat → BitVec 8
/-- FREE VALUE. MODE under which a dummy of a class plays its body microword (R137 gives it no descriptor). -/
opaque dummyMode : Nat → BitVec 8
/-- FREE VALUE. What a lane's mask generator gives at a round boundary: the manual does not give its function (R138).
Arguments: the blocks mixed into it, the round, the bank. -/
opaque maskOut : List (BitVec 128) → Nat → Nat → List Byte
/-- FREE VALUE. OP_MASK as an engine's mask generator draws it from the two blocks of an operation's start: the manual does
not give the generator's function (R176, R191). -/
opaque opMask : List (BitVec 128) → BitVec 128
/-- FREE VALUE. What an index register holds after a 16-bit addition or subtraction to it whose own mode also updates it:
the manual gives it both values (R255, R261). Arguments: the result, the updated index. -/
opaque indexClash : BitVec 16 → BitVec 16 → BitVec 16
/-- FREE VALUE. Max Read Request Size of a function, by its PCIe encoding (R81, R104: set by PCIe configuration). -/
opaque maxReadCode : Nat → Nat
/-- Max Read Request Size ÷ 64 of a function: 128 to 4,096 bytes (R81, R104). -/
def maxReadUnits (f : Nat) : Nat := 2 * 2 ^ (maxReadCode f % 6)
/-- FREE VALUE. What the rest of a function's configuration space holds beside what R81 and R82 name. -/
opaque configRest : Nat → BitVec 32
/-- FREE VALUE. Bytes a link carries in a round when it has trained below its full rate or width: the manual gives rates
for the full link alone (R32, R82). Arguments: GT/s, FLIT mode, lanes. -/
opaque slowLink : Nat → Bool → Nat → Nat
/-- FREE VALUE. MCTP version and message-type answers (DSP0236; R391 names the messages only). -/
opaque mctpAnswer : Nat → Nat → List Byte
/-- FREE VALUE. IRQ_ERR_INFO of an access error met on BAR4 (R113 describes BAR0 accesses only). Arguments:
the function's number and the offset. -/
opaque bar4ErrInfo : Nat → Nat → BitVec 32
/-- FREE VALUE. Level that the always-on shift register drives for a dynamic loop (R324, R338: the manual gives neither its
length nor its taps). Arguments: the source and how many patterns it has driven. -/
opaque tampPattern : Nat → Nat → Bool
/-- FREE VALUE. Boundary scan cells captured from the pins (R387). -/
opaque scanCells : Nat → List Byte

end Sys2Proof.Config
end

