-- ==== Sys2Proof/Machine/Ops.lean ====
section
/-!
DEFINITION. The named operations of the machine: sparse tables, the parts of the state by number, memory with
its tags and error bits, interrupts, messages to the host, the event log, the score queue, and the decision of
a descriptor's status.
-/
namespace Sys2Proof.Machine

/-- The outcome of a command. -/
abbrev Out := Host.Outcome State Fault Refusal

/-! ## Sparse tables -/

/-- The entry at a key, or the table's default. -/
def sget {α : Type} (d : α) : SMap α → Nat → α
  | [], _ => d
  | (k', v) :: t, k => if k' = k then v else sget d t k

/-- The table without a key. -/
def serase {α : Type} (m : SMap α) (k : Nat) : SMap α := m.filter fun e => decide (e.1 ≠ k)

/-- The table with a new entry in its place by key. -/
def sins {α : Type} (k : Nat) (v : α) : SMap α → SMap α
  | [] => [(k, v)]
  | (k', v') :: t => if k < k' then (k, v) :: (k', v') :: t else (k', v') :: sins k v t

/-- The table with an entry written: the default value is not listed. -/
def sput {α : Type} [DecidableEq α] (d : α) (m : SMap α) (k : Nat) (v : α) : SMap α :=
  if v = d then serase m k else sins k v (serase m k)

/-- Keys strictly rising, and no entry equal to the default. -/
def swf {α : Type} [DecidableEq α] (d : α) : SMap α → Bool
  | [] => true
  | [(_, v)] => decide (v ≠ d)
  | (k, v) :: (k', v') :: t => decide (v ≠ d ∧ k < k') && swf d ((k', v') :: t)

/-- One entry changed by a function. -/
def supd {α : Type} [DecidableEq α] (d : α) (m : SMap α) (k : Nat) (f : α → α) : SMap α :=
  sput d m k (f (sget d m k))

/-! ## Parts by number -/

/-- Number of a function: 128 x PORT + 64 x LINK + VF (R125). -/
def fkey (f : Func) : Nat := 128 * f.port.val + 64 * f.link.val + f.vf.val

/-- Number of a function's port and link. -/
def plKey (f : Func) : Nat := 2 * f.port.val + f.link.val

/-- The physical function of port and link k. -/
def pfOf (k : Nat) : Func := { port := Fin.ofNat 2 (k / 2), link := Fin.ofNat 2 k, vf := 0 }

/-- A physical function (R37). -/
def isPf (f : Func) : Bool := f.vf == 0

/-- FUNC_ID (R37). -/
def funcId (f : Func) : Nat := 512 * f.port.val + 256 * f.link.val + f.vf.val

/-- The function a FUNC_ID names. -/
def funcOf (v : Nat) : Func :=
  { port := Fin.ofNat 2 (bits v 9 9), link := Fin.ofNat 2 (bits v 8 8), vf := Fin.ofNat 64 (bits v 5 0) }

def getSeat (s : State) (i : Nat) : Seat := sget .reset s.seats i
def setSeat (s : State) (i : Nat) (x : Seat) : State := { s with seats := sput .reset s.seats i x }
def modSeat (s : State) (i : Nat) (f : Seat → Seat) : State := setSeat s i (f (getSeat s i))

def getLane (s : State) (i : Nat) : Lane := sget .reset s.lanes i
def setLane (s : State) (i : Nat) (x : Lane) : State := { s with lanes := sput .reset s.lanes i x }
def modLane (s : State) (i : Nat) (f : Lane → Lane) : State := setLane s i (f (getLane s i))

def getEngine (s : State) (i : Nat) : Engine := sget .reset s.engines i
def setEngine (s : State) (i : Nat) (x : Engine) : State := { s with engines := sput .reset s.engines i x }
def modEngine (s : State) (i : Nat) (f : Engine → Engine) : State := setEngine s i (f (getEngine s i))

def getSlot (s : State) (i : Nat) : Slot := sget .reset s.slots i
def setSlot (s : State) (i : Nat) (x : Slot) : State := { s with slots := sput .reset s.slots i x }
def modSlot (s : State) (i : Nat) (f : Slot → Slot) : State := setSlot s i (f (getSlot s i))

def getHand (s : State) (i : Nat) : Hand := sget .reset s.keys.hands i
def setHand (s : State) (i : Nat) (x : Hand) : State :=
  { s with keys := { s.keys with hands := sput .reset s.keys.hands i x } }
def modHand (s : State) (i : Nat) (f : Hand → Hand) : State := setHand s i (f (getHand s i))

def getSource (s : State) (i : Nat) : Source := sget .reset s.rng.src i
def setSource (s : State) (i : Nat) (x : Source) : State :=
  { s with rng := { s.rng with src := sput .reset s.rng.src i x } }

def getRec (s : State) (i : Nat) : Option MigRec := sget none s.records i
def setRec (s : State) (i : Nat) (x : Option MigRec) : State := { s with records := sput none s.records i x }

def getFlag (s : State) (k : Nat) : Flag := sget .reset s.kitty.flags k
def setFlag (s : State) (k : Nat) (x : Flag) : State :=
  { s with kitty := { s.kitty with flags := sput .reset s.kitty.flags k x } }

def getIrq (s : State) (k : Nat) : IrqBlock := sget .reset s.irq k
def setIrq (s : State) (k : Nat) (x : IrqBlock) : State := { s with irq := sput .reset s.irq k x }

/-- KITTY_LIMIT of function i: 4,096 after reset (R125). -/
def getLimit (s : State) (i : Nat) : Nat := sget 4096 s.kitty.limits i

/-- The core a G8 command names. -/
def getCore (s : State) : CoreId → Core
  | .lane l => (getLane s l.val).core
  | .house => s.house.core

/-- The state with that core replaced. -/
def setCore (s : State) (c : CoreId) (x : Core) : State :=
  match c with
  | .lane l => modLane s l.val fun ln => { ln with core := x }
  | .house => { s with house := { s.house with core := x } }

/-- A register replaced from a later round on, read in round r. -/
def Deferred.at_ {α : Type} (d : Deferred α) (r : Round) : α := if r < d.from_ then d.prev else d.cur

/-- A write that applies from round r' on, made in round r. -/
def Deferred.put {α : Type} (d : Deferred α) (r r' : Round) (v : α) : Deferred α :=
  { cur := v, prev := d.at_ r, from_ := r' }

/-- Data of the DCR in force, byte i; zero before it is read (R12, R384). -/
def dcrByte (s : State) (i : Nat) : Byte := byteAt s.power.dcr i

/-- Port p runs as two x8 links (R82, R384). -/
def bifurcated (s : State) (p : Nat) : Bool := bit (dcrByte s 8) p

/-- A function the device presents (R82, R384). A count above the 31 virtual functions of a bifurcated link, which R385 does
not test, is presented as it stands (DESIGN CHOICE, log entry 135). -/
def funcExists (s : State) (f : Func) : Bool :=
  (f.link == 0 || bifurcated s f.port.val) && decide (f.vf.val ≤ (dcrByte s (12 + plKey f)).toNat)

/-- The physical functions of the device, by port and link. -/
def pfs (s : State) : List Nat :=
  [0] ++ (if bifurcated s 0 then [1] else []) ++ [2] ++ (if bifurcated s 1 then [3] else [])

/-- Entries of a function's MSI-X table (R82, R384). -/
def msixSize (s : State) (f : Func) : Nat :=
  if isPf f then leField s.power.dcr (16 + 2 * plKey f) 2 else leField s.power.dcr (24 + 2 * plKey f) 2

/-- The host reaches the device through this function: the link is up, the device is ready, and the function
exists (R83, R375, R379). -/
def hostOk (s : State) (f : Func) : Bool :=
  (decide (s.power.st = .run) || decide (s.power.st = .standby)) && decide (8 ≤ s.power.phase) && funcExists s f

/-- CLK_CORE runs, so work proceeds (R375). -/
def running (s : State) : Bool := decide (s.power.st = .run) && s.power.clock

/-! ## Memory (R389, R26, R313) -/

def sessBase : Nat := 0x0200000000
def laneBase (l : Nat) : Nat := 0x0300000000 + 65536 * l
def flashBase : Nat := 0x0400000000
def scoreBase : Nat := 0x0600000000
def sliceBytes : Nat := 0x300000

/-- Address of byte o of the kitty: slot k lies in slice k / 256 (R27). -/
def kittyAddr (o : Nat) : Nat := sessBase + (o / 0x100000) * sliceBytes + o % 0x100000
/-- Address of the prefetch buffer of descriptor sq of seat i (R26; DESIGN CHOICE, log entry 12). -/
def prefetchAddr (i sq : Nat) : Nat := sessBase + (i / 512) * sliceBytes + 0x100000 + (i % 512) * 2048 + sq % 32 * 64
/-- Address of lane l's session area (R26, R274; DESIGN CHOICE, log entry 12). -/
def areaAddr (l : Nat) : Nat := sessBase + (l / 8) * sliceBytes + 0x200000 + (l % 8) * 65536
/-- Address of place t of the staging pool (R26; DESIGN CHOICE, log entry 12). -/
def stageAddr (t : Nat) : Nat := sessBase + (t / 4096) * sliceBytes + 0x280000 + t % 4096 * 64
/-- Address of migration record i (R26; DESIGN CHOICE, log entry 12). -/
def recAddr (i : Nat) : Nat := sessBase + (i / 512) * sliceBytes + 0x2C0000 + i % 512 * 512

/-- One byte of memory: an unlisted byte reads zero (DESIGN CHOICE, log entry 1). -/
def rd (s : State) (a : Nat) : Byte := sget 0 s.mem a
/-- n bytes of memory. -/
def rdN (s : State) (a n : Nat) : Bytes := (List.range n).map fun i => rd s (a + i)

/-- The cells of bytes from an address up: a zero byte is not listed. -/
def cells : Nat → Bytes → List Host.Cell
  | _, [] => []
  | a, b :: t => if b = 0 then cells (a + 1) t else (a, b) :: cells (a + 1) t

/-- A list of bytes written from an address up. -/
def memPut (m : List Host.Cell) (a : Nat) (b : Bytes) : List Host.Cell :=
  m.filter (fun e => decide (e.1 < a)) ++ cells a b ++ m.filter fun e => decide (a + b.length ≤ e.1)

/-- The memory form every operation keeps. -/
abbrev Memory.wf (m : List Host.Cell) : Prop := swf (0 : Byte) m = true

/-- Key of a word of a memory in the error tables. -/
def wkey (mem word : Nat) : Nat := 0x200000 * mem + word

/-- The vector and gate tables of the entry page, which are lane RAM (R279). -/
def inTables (o : Nat) : Bool :=
  (decide (0xF000 ≤ o) && decide (o < 0xF080)) || (decide (0xF800 ≤ o) && decide (o < 0x10000))

/-- Memory and word that hold an address (R313, R389): none where no SECDED memory lies. The tables of the entry page are
words of their core's RAM under the numbers of their own addresses (DESIGN CHOICE, log entry 155). -/
def memWord (a : Nat) : Option (Nat × Nat) :=
  if a < 0xA000 ∨ inTables a = true then some (0x121, a / 8)
  else if sessBase ≤ a ∧ a < sessBase + 16 * sliceBytes then
    some ((a - sessBase) / sliceBytes, (a - sessBase) % sliceBytes / 8)
  else if laneBase 0 ≤ a ∧ a < laneBase 128 then
    let l := (a - laneBase 0) / 65536
    let o := (a - laneBase 0) % 65536
    if o < 0xA000 ∨ inTables o = true then some (0x010 + l, o / 8)
    else if o < 0xA800 then some (0x090 + l, (o - 0xA000) / 8)
    else none
  else none

/-- Words of a memory (R313). -/
def memWords (mem : Nat) : Nat :=
  if mem < 0x10 then 393216 else if mem < 0x90 then 5120 else if mem < 0x110 then 256
  else if mem < 0x120 then 8192 else if mem = 0x120 then 1048576 else if mem = 0x121 then 5120 else 0

/-- A word that exists, the tables of the entry page among those of a core's RAM (R279, R313). -/
def wordThere (mem word : Nat) : Bool :=
  decide (word < memWords mem)
    || ((decide (0x010 ≤ mem) && decide (mem < 0x090) || mem == 0x121) && inTables (8 * word))

/-- Error keys of the words that n bytes at an address touch. -/
def wkeys (a n : Nat) : List Nat :=
  if n = 0 then []
  else (List.range ((a + n - 1) / 8 + 1 - a / 8)).filterMap fun i =>
    (memWord (8 * (a / 8 + i))).map fun p => wkey p.1 p.2

/-- Error keys of the words that n bytes at an address cover only in part (R318). -/
def partKeys (a n : Nat) : List Nat :=
  (wkeys a n).zipIdx.filterMap fun p =>
    let lo := 8 * (a / 8 + p.2)
    if lo < a ∨ a + n < lo + 8 then some p.1 else none

/-- Whether one of these words is uncorrectable. -/
def anyBad (s : State) (ks : List Nat) : Bool := ks.any fun k => sget none s.prot.bad k == some true

/-! ## Interrupts and messages -/

/-- A write of the device, queued for its port and link (R86). -/
def pushWrite (s : State) (w : LinkWrite) : State :=
  { s with link := { s.link with queue := supd [] s.link.queue (plKey w.func) (· ++ [w]) } }

/-- An MSI-X message, by its entry of the function's table, or its pending bit under a mask (R19, R110). -/
def sendMsi (s : State) (f : Func) (v : BitVec 11) : State :=
  let k := 2048 * fkey f + v.toNat
  if sget false s.link.unmasked k then
    let m := sget { addr := 0, data := 0 } s.link.msix k
    pushWrite s { func := f, addr := m.addr, data := natLe 4 m.data.toNat, kind := .msix v, issued := s.round }
  else { s with link := { s.link with msiPend := sput false s.link.msiPend k true } }

/-- A cause raised in one copy of the IRQ block; again: a write clears the bit in the same cycle (R10, R113). -/
def raiseIrq (s : State) (pl b : Nat) (again : Bool) : State :=
  let q := getIrq s pl
  if bit q.status b && !again then s
  else
    let s1 := setIrq s pl { q with status := setBit q.status b true }
    if bit q.enable b then sendMsi s1 (pfOf pl) q.vector else s1

/-- A device-wide cause, raised in every copy (R113). -/
def raiseAll (s : State) (b : Nat) : State := (pfs s).foldl (fun t pl => raiseIrq t pl b false) s

/-- REG_ACCESS_ERR with what IRQ_ERR_INFO records of the first such access (R7, R113). -/
def accessErr (s : State) (f : Func) (info : Word) : State :=
  let q := getIrq s (plKey f)
  let s1 := if bit q.status 31 then s else setIrq s (plKey f) { q with errInfo := info }
  raiseIrq s1 (plKey f) 31 false

/-- REG_ACCESS_ERR of an access to a BAR0 offset (R113). -/
def regErr (s : State) (f : Func) (off : Nat) : State :=
  accessErr s f (mkWord (2 ^ 24 * (64 * (funcId f / 256) + f.vf.val) + bits off 25 2))

/-- REG_ACCESS_ERR of an access to BAR4: R113 gives IRQ_ERR_INFO only for BAR0 (free value, log entry 13). -/
def bar4Err (s : State) (f : Func) (off : Nat) : State := accessErr s f (Config.bar4ErrInfo (fkey f) off)

/-- A STANDBY request is pending, or the device is in STANDBY (R377). -/
def standbyHold (s : State) : Bool := decide (s.power.st = .standby) || s.power.stbyAt.isSome

/-- A write to a BAR0 register: nothing from a function that does not reach the device (R83); while STANDBY is
requested or held, only the PWR block takes writes (R377). -/
def barWrite (s : State) (f : Func) (off : Nat) (act : State → State) : State :=
  if !hostOk s f then s
  else if standbyHold s && off / 0x10000 != 1 then regErr s f off
  else act s

/-- A register command of a physical function; a virtual function's is discarded with REG_ACCESS_ERR (R7, R80). -/
def pfWrite (s : State) (f : Func) (off : Nat) (act : State → State) : State :=
  barWrite s f off fun t => if isPf f then act t else regErr t f off

/-! ## Errors in memory (R313-R318) -/

/-- A bucket's new value, with MEM_LEAK on its rise from the limit or below to above it. Within a round the net value
decides: the round's leak decrement counts, made or not yet made, against the value the round began with (R317, R320). -/
def bucketUp (s : State) (mem v : Nat) : State :=
  let old := sget 0 s.prot.bucket mem
  let lim := s.prot.leakLim.at_ s.round
  let per := s.prot.leakPer.at_ s.round
  let due : Nat := if per ≠ 0 ∧ s.round % per = 0 ∧ s.prot.leakAt ≠ some s.round then 1 else 0
  let s1 := { s with prot := { s.prot with bucket := sput 0 s.prot.bucket mem v } }
  if sget 0 s.prot.bucketWas mem ≤ lim ∧ old - due ≤ lim ∧ lim < v - due then raiseAll s1 27 else s1

/-- An uncorrectable error met by any requester (R317, R318). -/
def recordUe (s : State) (mem word : Nat) (tag : Bool) : State :=
  let s1 := { s with prot := { s.prot with
    ueCnt := satAdd s.prot.ueCnt 1
    ueLast := mkWord (2 ^ 22 * mem + 2 ^ 21 * b2n tag + word) } }
  bucketUp s1 mem 0xFFFF

/-- A correctable error met by a read: the bucket counts it once until it is written back (R314). -/
def recordCe (s : State) (k : Nat) : State :=
  if sget false s.prot.fix k then s
  else
    let mem := k / 0x200000
    let s1 := { s with prot := { s.prot with fix := sput false s.prot.fix k true } }
    bucketUp s1 mem (min 0xFFFF (sget 0 s.prot.bucket mem + 1))

/-- What reads of these words leave in the error logic. -/
def touchWords (s : State) (ks : List Nat) : State :=
  ks.foldl (fun t k => match sget none t.prot.bad k with
    | some true => recordUe t (k / 0x200000) (k % 0x200000) false
    | some false => recordCe t k
    | none => t) s

/-- Words written: they take new check bits and their written bits, and lose a pending write-back (R313-R315). -/
def freshWords (s : State) (ks : List Nat) : State :=
  { s with prot := { s.prot with
      bad := ks.foldl (fun m k => sput none m k none) s.prot.bad
      fix := ks.foldl (fun m k => sput false m k false) s.prot.fix
      written := ks.foldl (fun m k => sput false m k true) s.prot.written } }

/-- Bytes stored. -/
def store (s : State) (a : Nat) (b : Bytes) : State :=
  { freshWords s (wkeys a b.length) with mem := memPut s.mem a b }

/-! ## Suits (R299-R303) -/

/-- Granule of the session store at an address. -/
def granule (a : Nat) : Nat := (a - sessBase) / 64

/-- Whether an access follows suit; up: a lane core at KERNEL or MONITOR, or a house core (R17, R302). -/
def follows (tag req : BitVec 16) (write up : Bool) : Bool :=
  if tag = 0xFFFE then req == 0xFFFE
  else if tag = 0xFFFF then !write || up
  else tag == req

/-- Granules of n bytes at an address of the session store. -/
def granules (a n : Nat) : List Nat :=
  if n = 0 then [] else (List.range (granule (a + n - 1) + 1 - granule a)).map (· + granule a)

/-- Whether every granule of n bytes lets an access of this suit through. -/
def suitOk (s : State) (a n : Nat) (req : BitVec 16) (write up : Bool) : Bool :=
  (granules a n).all fun g => !sget false s.prot.badTags g && follows (sget 0 s.prot.tags g) req write up

/-- Granules from g on, n of them, given a suit tag. -/
def tagGranules (s : State) (g n : Nat) (suit : BitVec 16) : State :=
  { s with prot := { s.prot with
    tags := (List.range n).foldl (fun m i => sput 0 m (g + i) suit) s.prot.tags
    badTags := (List.range n).foldl (fun m i => sput false m (g + i) false) s.prot.badTags } }

/-- Memory of a granule, and its number there: the session store's slices, and from 0x100000 on the key store (R313). -/
def tagPlace (g : Nat) : Nat × Nat := if 0x100000 ≤ g then (0x120, g - 0x100000) else (g / 49152, g % 49152)

/-- What checks of these granules' tags leave in the error logic (R318, R322). -/
def touchTags (s : State) (gs : List Nat) : State :=
  gs.foldl (fun t g => if sget false t.prot.badTags g then recordUe t (tagPlace g).1 (tagPlace g).2 true else t) s

/-- A refusal by suit, not by the debug master, of an access to these granules (R303, R318). -/
def suitRefused (s : State) (gs : List Nat) : State :=
  touchTags { s with prot := { s.prot with suitCnt := satAdd s.prot.suitCnt 1 } } gs

/-- A refused transfer whose span is more than one granule (R310). -/
def spanRefused (s : State) : State :=
  { s with prot := { s.prot with spanCnt := satAdd s.prot.spanCnt 1 } }

/-! ## The always-on domain -/

/-- Main power is absent or CLK_CORE stands: the flags an entry carries (R327, R331, R343). -/
def logFlags (s : State) (f : Nat) : Byte :=
  BitVec.ofNat 8 (f + (if s.power.main then 0 else 1) + (if s.power.main && !s.power.clock then 16 else 0))

/-- An entry written at the head of the event log (R343). -/
def pushLog (s : State) (e : LogEntry) : State :=
  let a := s.aon
  let full := (sget none a.log a.logNext).isSome
  { s with aon := { a with
    log := sput none a.log a.logNext (some e)
    logNext := (a.logNext + 1) % 64
    logWraps := if full then min 0xFFFF (a.logWraps + 1) else a.logWraps } }

/-- One entry of the event log (R343). -/
def logEvent (s : State) (source : Nat) (resp : BitVec 7) (flags : Nat) (info : BitVec 32) : State :=
  let a := s.aon
  let e : LogEntry :=
    { round := if s.power.main then s.round else 0, rtcSec := a.rtcSec, rtcFrac := a.rtcFrac
      source := BitVec.ofNat 8 source, resp := resp, flags := logFlags s flags, info := info }
  pushLog s e

/-! ## Statuses (R14, R15) -/

/-- Code of a status (R14). -/
def Status.code : Status → Nat
  | .done => 0x00 | .mismatch => 0x01 | .pointInvalid => 0x10 | .rangeInvalid => 0x11
  | .paramInvalid => 0x12 | .suitFault => 0x20 | .bounds => 0x21 | .policy => 0x22
  | .eccUncorrectable => 0x30 | .aborted => 0x40 | .seatHalted => 0x41 | .rngUnavailable => 0x50
  | .handleStale => 0x61 | .handBusy => 0x62 | .zeroised => 0x70 | .quorumRequired => 0x7F
  | .internal => 0xFF

/-- The status of a code; any other value is INTERNAL (R14). -/
def Status.ofCode (n : Nat) : Status :=
  if n = 0x00 then .done else if n = 0x01 then .mismatch else if n = 0x10 then .pointInvalid
  else if n = 0x11 then .rangeInvalid else if n = 0x12 then .paramInvalid else if n = 0x20 then .suitFault
  else if n = 0x21 then .bounds else if n = 0x22 then .policy else if n = 0x30 then .eccUncorrectable
  else if n = 0x40 then .aborted else if n = 0x41 then .seatHalted else if n = 0x50 then .rngUnavailable
  else if n = 0x61 then .handleStale else if n = 0x62 then .handBusy else if n = 0x70 then .zeroised
  else if n = 0x7F then .quorumRequired else .internal

/-- Rank of a status: the lowest rank wins (R15). -/
def Status.rank : Status → Nat
  | .internal => 1 | .zeroised => 2 | .seatHalted => 3 | .handleStale => 4 | .suitFault => 5
  | .bounds => 6 | .policy => 7 | .quorumRequired => 8 | .paramInvalid => 9 | .handBusy => 10
  | .rngUnavailable => 11 | .eccUncorrectable => 12 | .aborted => 13 | .rangeInvalid => 14
  | .pointInvalid => 15 | .mismatch => 16 | .done => 17

/-- A failed check and its DETAIL. -/
abbrev Fail := Status × BitVec 16

/-- A failed check comes before another: by rank, and of two suit refusals by DETAIL (R15, R303). -/
def Fail.before (f g : Fail) : Bool :=
  decide (f.1.rank < g.1.rank) || (f.1.rank == g.1.rank && (decide (f.1 ≠ .suitFault) || decide (f.2 ≤ g.2)))

/-- Of the failed checks, the one a completion carries; of one status, the first listed, but the suit refusal of lowest
DETAIL (R15, R303). -/
def worst : List Fail → Option Fail
  | [] => none
  | f :: t => match worst t with
    | none => some f
    | some g => if Fail.before f g then some f else some g

/-- A check that fails with a status when its condition is false. -/
def need (ok : Bool) (st : Status) (d : BitVec 16 := 0) : List Fail := if ok then [] else [(st, d)]

/-- The checks of a transfer over the granules of its span: its suit refusals are counted, each kind once, and the refused
transfer when its span is more than one granule; the tag errors they met are recorded (R303, R310, R318). -/
def countSuit (s : State) (fs : List Fail) (gs : List Nat) : State :=
  let n := (((fs.filter fun f => decide (f.1 = .suitFault)).map (·.2)).eraseDups).length
  let s1 := touchTags { s with prot := { s.prot with suitCnt := satAdd s.prot.suitCnt n } } gs
  if n ≠ 0 ∧ 1 < gs.length then spanRefused s1 else s1

/-! ## Score sheets (R393) -/

/-- A frame of a core's state (R287). -/
def frameBytes (c : Core) (cause info : Nat) : Bytes :=
  natLe 2 c.pc.toNat ++ natLe 1 c.f.toNat ++ natLe 1 c.a.toNat ++ natLe 2 c.x.toNat ++ natLe 2 c.y.toNat
    ++ natLe 2 c.sp.toNat ++ natLe 2 c.lc.toNat ++ natLe 2 c.le.toNat ++ natLe 1 c.bk.toNat
    ++ natLe 1 (match c.load with | some l => 0x80 + l.1.toNat | none => 0)
    ++ natLe 2 (match c.load with | some l => l.2.toNat | none => 0)
    ++ natLe 1 cause ++ [0] ++ natLe 2 info ++ [0, 0]

/-- A frame without A, X, Y and SHADOW_VAL (R395). -/
def frameHidden (b : Bytes) : Bytes := patch (patch b 3 (zeros 5)) 16 (zeros 2)

/-- The segment that runs or waits first on a lane. -/
def curBind (ln : Lane) (r : Round) : Option Binding := ln.binds.find? fun b => decide (b.first ≤ r) && !b.posted

/-- Rounds left in a segment, counting round r (R141 SEG_LEFT). -/
def segLeft (ln : Lane) (r : Round) : Nat :=
  match curBind ln r with
  | some b => b.final + 1 - r
  | none => 0

/-- PLAY_STAT (R141). -/
def playStat (ln : Lane) (r : Round) : Nat :=
  let runs := ln.seqr.run && decide (ln.seqr.from_ ≤ r)
  256 * ln.seqr.upc + 128 * b2n runs + 64 * b2n ln.seqr.form

/-- A cause for a score sheet, queued for house firmware; a seventeenth is counted and lost (R393). -/
def queueScore (s : State) (q : ScoreReq) : State :=
  if s.house.queue.length < 16 then { s with house := { s.house with queue := s.house.queue ++ [q] } }
  else { s with house := { s.house with scLost := min 0xFF (s.house.scLost + 1) } }

/-- What a sheet records of a lane and its segment (R394, R395). -/
def laneScore (s : State) (l cause : Nat) (st : Status) (detail : BitVec 16) : ScoreReq :=
  let ln := getLane s l
  let b := curBind ln s.round
  let fr := frameBytes ln.core ln.core.excCause.toNat 0
  let hide := decide (fld ln.core.f 7 6 = 0) || (match b with | some x => x.secret | none => false)
  { cause := BitVec.ofNat 8 cause, round := s.round, unit := l
    seat := match b with | some x => x.seat | none => 0xFFFF
    sq := match b with
      | some x => match (getSeat s x.seat).flights.find? (fun g => g.seq == x.seq) with | some g => g.sq | none => 0
      | none => 0
    opcode := match b with | some x => x.desc.opcode | none => 0
    status := BitVec.ofNat 8 st.code, detail := detail
    frame := if hide then frameHidden fr else fr
    play := BitVec.ofNat 16 (playStat ln s.round), left := BitVec.ofNat 16 (segLeft ln s.round)
    late := ln.core.lateAddr, lateI := ln.core.lateInfo, data := [], snap := none }

/-! ## Flights and their statuses (R104-R107) -/

/-- The flights of a seat that satisfy a condition changed by a function. -/
def modFlights (s : State) (i : Nat) (p : Flight → Bool) (f : Flight → Flight) : State :=
  modSeat s i fun x => { x with flights := x.flights.map fun g => if p g then f g else g }

/-- One flight changed, named by its place in the order of fetches. -/
def modFlight (s : State) (i seq : Nat) (f : Flight → Flight) : State := modFlights s i (fun g => g.seq == seq) f

/-- A flight by its place in the order of fetches. -/
def flightBySeq (s : State) (i seq : Nat) : Option Flight := (getSeat s i).flights.find? fun g => g.seq == seq

/-- The oldest flight of a seat with a submission index that satisfies a condition. -/
def flightBySq (s : State) (i sq : Nat) (p : Flight → Bool) : Option Flight :=
  (getSeat s i).flights.find? fun g => decide (g.sq = sq) && p g

/-- Every hand gives up the reservations a descriptor made (R170). -/
def dropResv (s : State) (seq : Nat) : State :=
  let hs := s.keys.hands.foldl (fun m e =>
    sput .reset m e.1 { e.2 with resv := e.2.resv.filter (fun r => decide (r.2 ≠ some seq)) }) s.keys.hands
  { s with keys := { s.keys with hands := hs } }

/-- A descriptor's status is decided in round r (R107): its fragment lists and its unused reservations go,
and a slot reserved for its result is released unless it ended DONE (R98, R109, R170). -/
def decide_ (s : State) (i seq : Nat) (st : Status) (d : BitVec 16) (r : Round) (house : Bool) : State :=
  let s1 := modFlights s i (fun g => g.seq == seq && g.decided.isNone) fun g =>
    { g with decided := some { status := st, detail := d, round := r, house := house }
             listPool := [], resvIn := [], resvOut := [], reserved := false, running := false }
  let s2 := if st = .done then s1 else dropResv s1 seq
  if st = .internal then queueScore s2 { laneScore s2 0x100 3 st d with
      unit := 0x100, seat := i
      sq := match flightBySeq s i seq with | some g => g.sq | none => 0
      opcode := match flightBySeq s i seq with | some g => g.desc.opcode | none => 0
      frame := frameBytes s.house.core s.house.core.excCause.toNat 0 }
  else s2

/-- Places of the staging pool in use: reservations of flights, held lists, segments on lanes, and engine
tickets (R98, R108, R109, R183). -/
def flightPool (g : Flight) : List Nat := g.resvIn ++ g.resvOut ++ g.listPool

def ticketsOf (e : Engine) : List Ticket :=
  e.queue ++ (match e.start with | some x => [x.ticket] | none => [])
    ++ (match e.run with | some x => [x.ticket] | none => []) ++ e.ended.map (·.ticket)

/-- Places a seat holds in the staging pool (INFLIGHT.TRICKS). -/
def seatPool (s : State) (i : Nat) : List Nat :=
  (getSeat s i).flights.flatMap flightPool
    ++ s.lanes.flatMap (fun e => (e.2.binds.filter fun b => decide (b.seat = i)).flatMap fun b => b.resvIn ++ b.resvOut)
    ++ s.engines.flatMap (fun e => ((ticketsOf e.2).filter fun t => decide (t.seat = i)).flatMap fun t => t.resvIn ++ t.resvOut)

/-- Data tricks a seat has reserved: list tricks do not count against its limit (R98). -/
def seatTricks (s : State) (i : Nat) : Nat :=
  (seatPool s i).length - ((getSeat s i).flights.flatMap (·.listPool)).length

/-- Every place of the pool in use. -/
def poolUsed (s : State) : List Nat :=
  s.seats.flatMap (fun e => e.2.flights.flatMap flightPool)
    ++ s.lanes.flatMap (fun e => e.2.binds.flatMap fun b => b.resvIn ++ b.resvOut)
    ++ s.engines.flatMap (fun e => (ticketsOf e.2).flatMap fun t => t.resvIn ++ t.resvOut)

/-- The seats from DEAL_TIE_PTR on. -/
def rotSeats (s : State) : List Nat :=
  let ks := s.seats.map (·.1)
  ks.filter (fun k => decide (s.dealer.tiePtr ≤ k)) ++ ks.filter fun k => decide (k < s.dealer.tiePtr)

/-- Free tricks of the pool (STAGE_POOL.FREE). -/
def poolFree (s : State) : Nat := Config.stagePool - (poolUsed s).length

/-- The n lowest numbers below a bound that a list does not hold, searched with fuel. -/
def lowestFree (used : List Nat) (n : Nat) : Nat → Nat → List Nat
  | 0, _ => []
  | fuel + 1, k =>
    if n = 0 then []
    else if used.contains k then lowestFree used n fuel (k + 1)
    else k :: lowestFree used (n - 1) fuel (k + 1)

/-- n free places of the pool: the lowest ones (DESIGN CHOICE, log entry 12). -/
def poolTake (s : State) (n : Nat) : List Nat :=
  let used := poolUsed s
  lowestFree used n (used.length + n) 0

/-! ## Messages and their records (R61, R151) -/

/-- The record of a hand's open message. -/
def openRec (s : State) (h : Nat) : Option (Nat × MigRec) :=
  (s.records.find? fun e => match e.2 with | some m => m.isOpen && m.hand == some h | none => false).bind
    fun e => e.2.map fun m => (e.1, m)

/-- The record a descriptor occupies. -/
def recOf (s : State) (seq : Nat) : Option (Nat × MigRec) :=
  (s.records.find? fun e => match e.2 with | some m => m.occupant == some seq | none => false).bind
    fun e => e.2.map fun m => (e.1, m)

/-- Free migration records (LANE_MIG_FREE). -/
def recsFree (s : State) : Nat := Config.migRecords - s.records.length

/-- A message closes and its record is free again (R61, R151). -/
def freeRec (s : State) (i : Nat) : State := setRec s i none

/-- Whether a key store service or ceremony is this opcode (R216, R222). -/
def isService (op : Nat) : Bool :=
  [0x50, 0x51, 0x52, 0x53, 0x56, 0x57, 0x5A, 0x5B].contains op
def isCeremony (op : Nat) : Bool := decide (0x70 ≤ op ∧ op ≤ 0x77)

/-- The rounds of a segment that a binding holds, over every lane: whether a seat has a segment running. -/
def seatRunning (s : State) (i : Nat) : List Binding :=
  s.lanes.flatMap fun e => e.2.binds.filter fun b => decide (b.seat = i) && !b.posted

end Sys2Proof.Machine
end

