-- ==== Sys2Proof/Machine/Operands.lean ====
section
/-!
DEFINITION. Operand forms: the submission descriptor and its fields (R93), fragment lists (R96), kitty
references (R121), KEYREFs (R209), the classes of opcodes (R53, R94), segments (R42) and their durations (R53,
R150, R159, R166, R167), and the ring engine's own checks (R92, R95).
-/
namespace Sys2Proof.Machine

/-! ## Descriptors (R93) -/

/-- A descriptor read from its 64 bytes. -/
def parseDesc (b : Bytes) : Desc where
  opcode := byteAt b 0
  mode := byteAt b 1
  xfer := byteAt b 2
  ctrl := byteAt b 3
  key0 := BitVec.ofNat 32 (leField b 4 4)
  key1 := BitVec.ofNat 32 (leField b 8 4)
  keySlots := byteAt b 12
  trunc := byteAt b 13
  srcFrags := BitVec.ofNat 16 (leField b 14 2)
  src := BitVec.ofNat 64 (leField b 16 8)
  dst := BitVec.ofNat 64 (leField b 24 8)
  len := BitVec.ofNat 32 (leField b 32 4)
  auxLen := BitVec.ofNat 32 (leField b 36 4)
  dstCap := BitVec.ofNat 32 (leField b 40 4)
  dstFrags := BitVec.ofNat 16 (leField b 44 2)
  resv := BitVec.ofNat 16 (leField b 46 2)
  inl := padTo 16 (slice b 48 16)

/-- The 64 bytes of a descriptor. -/
def descBytes (d : Desc) : Bytes :=
  [d.opcode, d.mode, d.xfer, d.ctrl] ++ natLe 4 d.key0.toNat ++ natLe 4 d.key1.toNat ++ [d.keySlots, d.trunc]
    ++ natLe 2 d.srcFrags.toNat ++ natLe 8 d.src.toNat ++ natLe 8 d.dst.toNat ++ natLe 4 d.len.toNat
    ++ natLe 4 d.auxLen.toNat ++ natLe 4 d.dstCap.toNat ++ natLe 2 d.dstFrags.toNat ++ natLe 2 d.resv.toNat ++ d.inl

def Desc.op (d : Desc) : Nat := d.opcode.toNat
def Desc.srcFrag (d : Desc) : Bool := bit d.xfer 6
def Desc.dstFrag (d : Desc) : Bool := bit d.xfer 7
def Desc.srcKitty (d : Desc) : Bool := bit d.xfer 4
def Desc.dstKitty (d : Desc) : Bool := bit d.xfer 5
/-- XFER.RESULT: 0 HOST, 1 HAND, 2 COMPARE, 3 reserved. -/
def Desc.result (d : Desc) : Nat := fld d.xfer 3 2
/-- XFER.MSG: 0 ONE, 1 START, 2 CONTINUE, 3 FINISH. -/
def Desc.msg (d : Desc) : Nat := fld d.xfer 1 0
def Desc.irqNow (d : Desc) : Bool := bit d.ctrl 3
def Desc.order (d : Desc) : Bool := bit d.ctrl 2
def Desc.key1Used (d : Desc) : Bool := bit d.ctrl 1
def Desc.decrypt (d : Desc) : Bool := bit d.ctrl 0
def Desc.slot0 (d : Desc) : Nat := fld d.keySlots 3 0
def Desc.slot1 (d : Desc) : Nat := fld d.keySlots 7 4
def Desc.l (d : Desc) : Nat := d.len.toNat
def Desc.aux (d : Desc) : Nat := d.auxLen.toNat
def Desc.cap (d : Desc) : Nat := d.dstCap.toNat
/-- HALG or the low field of MODE. -/
def Desc.modeLo (d : Desc) : Nat := fld d.mode 3 0
def Desc.modeHi (d : Desc) : Nat := fld d.mode 7 4
/-- ALG of the cipher opcodes (R145). -/
def Desc.alg (d : Desc) : Nat := fld d.mode 2 0

/-- Hand of a HANDLE (R209). -/
def handleHand (h : BitVec 32) : Nat := fld h 15 0
/-- GEN of a HANDLE (R209). -/
def handleGen (h : BitVec 32) : BitVec 16 := BitVec.ofNat 16 (fld h 31 16)

/-- The role MSG asks for. -/
def msgRole (m : Nat) : Role := if m = 0 then .one else if m = 1 then .start else if m = 2 then .cont else .finish

/-! ## Classes of opcodes (R53, R94) -/

/-- The classes of the duration table, with those that use no segment of their own. -/
inductive OpClass where
  | nop | cipher | cipherMac | aead | keyWrap | digest | keyedDigest | engine | service | random | ceremony
  | applet | reserved
  deriving DecidableEq, Repr

/-- Class of an opcode; applets 0x80-0xBF are refused as reserved when their entry is not VALID (R155). -/
def opClass (op : Nat) : OpClass :=
  if op = 0x00 then .nop
  else if op = 0x01 ∨ op = 0x02 ∨ op = 0x03 ∨ op = 0x04 then .cipher
  else if op = 0x08 ∨ op = 0x09 then .cipherMac
  else if op = 0x0C ∨ op = 0x0D then .aead
  else if op = 0x10 ∨ op = 0x54 ∨ op = 0x55 ∨ op = 0x58 ∨ op = 0x59 then .keyWrap
  else if op = 0x20 then .digest
  else if op = 0x21 ∨ op = 0x22 then .keyedDigest
  else if 0x30 ≤ op ∧ op ≤ 0x45 then .engine
  else if 0x50 ≤ op ∧ op ≤ 0x5B then .service
  else if op = 0x60 then .random
  else if 0x70 ≤ op ∧ op ≤ 0x77 then .ceremony
  else if 0x80 ≤ op ∧ op ≤ 0xBF then .applet
  else .reserved

/-- Opcodes that form messages: CBC, CTR, CMAC, GMAC, GCM and the digests (R146, R158). -/
def formsMessage (op : Nat) : Bool :=
  [0x02, 0x03, 0x08, 0x09, 0x0C, 0x20, 0x21, 0x22].contains op

/-- Opcodes with an XFER.RESULT other than HOST (R146, R158, R186). -/
def formsResult (op : Nat) : Bool :=
  [0x08, 0x09, 0x20, 0x21, 0x22].contains op || (decide (0x30 ≤ op) && decide (op ≤ 0x45))

/-- Classes whose segments follow the message rules of R62. -/
def OpClass.msg : OpClass → Bool
  | .cipher | .cipherMac | .aead | .digest | .keyedDigest => true
  | _ => false

/-- Classes that run a segment on a lane. -/
def OpClass.lane : OpClass → Bool
  | .cipher | .cipherMac | .aead | .keyWrap | .digest | .keyedDigest | .engine | .applet => true
  | _ => false

/-- Engine opcodes whose KEY0 names a private key (R186). -/
def engineKeyed (op : Nat) : Bool :=
  [0x31, 0x33, 0x34, 0x36, 0x39, 0x3B, 0x3D, 0x3E, 0x42, 0x44].contains op

/-- Whether a descriptor loads the key of its first KEYREF; an applet does when its KEYREF is not zero. -/
def loadsKey0 (d : Desc) : Bool :=
  match opClass d.op with
  | .cipher | .cipherMac | .aead | .keyedDigest => true
  | .keyWrap => d.op != 0x59
  | .engine => engineKeyed d.op
  | .applet => d.key0 != 0 || d.slot0 != 0
  | _ => false

/-- Whether a descriptor loads a second key: the tweak key of XTS, the source of KEY_WRAP, an applet's KEY1. -/
def loadsKey1 (d : Desc) : Bool :=
  d.op == 0x04 || d.op == 0x54 || (opClass d.op == .applet && d.key1Used)

/-- Whether the second KEYREF names a target slot: HAND results, unwrap targets (R170, R216). -/
def hasTarget (d : Desc) : Bool :=
  d.op == 0x55 || d.op == 0x59 || (d.result == 1 && (opClass d.op).lane)

/-- Secret-keyed segments (R65): not unkeyed digests, and not engine hand-offs (R188). -/
def secretKeyed (d : Desc) : Bool :=
  match opClass d.op with
  | .cipher | .cipherMac | .aead | .keyWrap | .keyedDigest => true
  | .applet => loadsKey0 d || loadsKey1 d
  | _ => false

/-- The first of the two KEYREFs must be zero where the opcode names no key (R93, R162, R186, R216, R222). -/
def usesKey0 (d : Desc) : Bool :=
  match opClass d.op with
  | .cipher | .cipherMac | .aead | .keyedDigest | .applet => true
  | .digest => d.msg != 0
  | .keyWrap => d.op != 0x59
  | .engine => engineKeyed d.op
  | .service => [0x51, 0x52, 0x56, 0x57, 0x5A, 0x5B].contains d.op
  | .ceremony => d.op == 0x73 || d.op == 0x74
  | _ => false

/-- Every hand a descriptor names (R57). -/
def handsNamed (d : Desc) : List Nat :=
  (if usesKey0 d then [handleHand d.key0] else []) ++ (if d.key1Used then [handleHand d.key1] else [])

/-! ## Fragments and kitty references (R96, R121) -/

/-- The entries of a fragment list. -/
def parseFrags (b : Bytes) : List Frag :=
  (chunks 16 b).map fun e =>
    { addr := BitVec.ofNat 64 (leField e 0 8), len := leField e 8 4, flags := BitVec.ofNat 32 (leField e 12 4) }

/-- A reserved bit of a kitty reference is set (R121). -/
def kittyBad (a : BitVec 64) : Bool := decide (fld a 63 32 ≠ 0) || decide (fld a 30 24 ≠ 0)
def kittyKeep (a : BitVec 64) : Bool := bit a 31
/-- Byte of the kitty at which a reference starts. -/
def kittyStart (a : BitVec 64) : Nat := 4096 * fld a 23 12 + fld a 11 0
/-- A reference that would run past slot 4,095 (R121). -/
def kittyPast (a : BitVec 64) (n : Nat) : Bool := decide (4096 * Config.kittySlots < kittyStart a + n)
/-- The slots n bytes of a reference cover. -/
def kittySpan (a : BitVec 64) (n : Nat) : List Nat :=
  if n = 0 then []
  else (List.range ((kittyStart a + n - 1) / 4096 + 1 - kittyStart a / 4096)).map (· + kittyStart a / 4096)

/-- A piece of a source or destination: in the kitty or at a host address. -/
structure Span where
  kitty : Bool
  addr  : BitVec 64
  len   : Nat
  deriving DecidableEq, Repr

/-- A fragment entry as a piece. -/
def fragSpan (f : Frag) : Span := { kitty := bit f.flags 0, addr := f.addr, len := f.len }

/-- The pieces of the source. -/
def srcSpans (g : Flight) : List Span :=
  match g.srcList with
  | some l => l.map fragSpan
  | none => if g.desc.l = 0 then [] else [{ kitty := g.desc.srcKitty, addr := g.desc.src, len := g.desc.l }]

/-- The pieces of the destination, or of the expected value under COMPARE (R171). -/
def dstSpans (g : Flight) : List Span :=
  match g.dstList with
  | some l => l.map fragSpan
  | none => if g.desc.cap = 0 then [] else [{ kitty := g.desc.dstKitty, addr := g.desc.dst, len := g.desc.cap }]

/-- Every kitty reference of a descriptor, with its length. -/
def kittyRefs (g : Flight) : List (BitVec 64 × Nat) :=
  ((srcSpans g ++ dstSpans g).filter (·.kitty)).map fun p => (p.addr, p.len)

/-- The slots a descriptor names, each once (R121). -/
def kittyNamed (g : Flight) : List Nat := ((kittyRefs g).flatMap fun r => kittySpan r.1 r.2).eraseDups

/-- A slot returns to DEVICE when any reference to it sets KEEP (R121). -/
def kittyKeeps (g : Flight) (k : Nat) : Bool :=
  (kittyRefs g).any fun r => kittyKeep r.1 && (kittySpan r.1 r.2).contains k

/-- The part of a list of pieces from byte off on, n bytes long. -/
def cutSpans : List Span → Nat → Nat → List Span
  | [], _, _ => []
  | p :: t, off, n =>
    if n = 0 then []
    else if p.len ≤ off then cutSpans t (off - p.len) n
    else
      let k := min n (p.len - off)
      { p with addr := p.addr + BitVec.ofNat 64 off, len := k } :: cutSpans t 0 (n - k)

/-! ## Applets (R155) -/

/-- Entry of an applet's table. -/
def appletEntry (s : State) (a : Nat) : Word := sget 0 s.power.applets a
def appletValid (w : Word) : Bool := bit w 31
def appletMax (w : Word) : Nat := fld w 30 24
def appletPro (w : Word) : Nat := fld w 23 20
def appletEpi (w : Word) : Nat := fld w 19 16
def appletPer (w : Word) : Nat := fld w 15 12
def appletBody (w : Word) : Nat := fld w 11 0

/-! ## Segments and durations (R42, R53) -/

/-- Segments a descriptor forms (R42). -/
def segCount (d : Desc) : Nat := if (opClass d.op).msg then max 1 (ceilDiv d.l 4096) else 1

/-- Input bytes of segment j: at most 64 tricks, or 65 of a key wrap; a longer LEN is refused by its checks (R42). -/
def segBytes (d : Desc) (j : Nat) : Nat :=
  if opClass d.op = .engine then 0
  else if d.op = 0x54 ∨ d.op = 0x58 then 0
  else if (opClass d.op).msg then min 4096 (d.l - 4096 * j)
  else if opClass d.op = .keyWrap then min 4160 d.l
  else min 4096 d.l

/-- Input tricks of segment j. -/
def segTricks (d : Desc) (j : Nat) : Nat := ceilDiv (segBytes d j) 64

/-- T: the result length in bytes, TRUNC or the full length (R146, R160). -/
def resultLen (d : Desc) : Nat :=
  if d.trunc ≠ 0 then d.trunc.toNat
  else match opClass d.op with
    | .digest | .keyedDigest => halgFull d.modeLo
    | .cipherMac | .aead => if d.op = 0x08 ∧ d.alg = 4 then 8 else 16
    | _ => 0
where
  /-- F of R159. -/
  halgFull (h : Nat) : Nat :=
    if h = 0 then 28 else if h = 1 then 32 else if h = 2 then 48 else if h = 3 then 64 else if h = 4 then 32
    else if h = 8 then 28 else if h = 9 then 32 else if h = 10 then 48 else if h = 11 then 64
    else if h = 12 then 32 else 64

/-- Semiblocks s of the padded key data (R149, R219, R220). -/
def wrapSemi (d : Desc) : Nat :=
  if d.op = 0x54 ∨ d.op = 0x58 ∨ (d.op = 0x10 ∧ !d.decrypt) then ceilDiv d.l 8 else d.l / 8 - 1

/-- Tricks of the padded message of m bytes, q(M) of R159. -/
def paddedTricks (d : Desc) (m : Nat) : Nat :=
  let h := d.modeLo
  let e := if d.op = 0x22 then (if resultLen d ≤ 31 then 2 else 3) else 0
  let rate := if h = 8 then 144 else if h = 9 then 136 else if h = 10 then 104 else if h = 11 then 72
    else if h = 12 then 168 else 136
  if h < 2 then ceilDiv (m + 9) 64
  else if h < 5 then 2 * ceilDiv (m + 17) 128
  else ceilDiv (rate * ceilDiv (m + e + 1) rate) 64

/-- Pad rounds p of a closing segment, m0 the bytes absorbed by earlier descriptors (R166). -/
def padRounds (d : Desc) (m0 : Nat) : Nat := paddedTricks d (m0 + d.l) - m0 / 64 - ceilDiv d.l 64

/-- First-segment prologue by class (R53). -/
def prologueOf : OpClass → Nat
  | .aead | .keyedDigest => 2
  | _ => 1

/-- Final epilogue by class (R53). -/
def epilogueOf : OpClass → Nat
  | .aead | .keyedDigest => 2
  | _ => 1

/-- A role that opens a message with this descriptor. -/
def Role.opens : Role → Bool
  | .one | .start => true
  | _ => false

/-- A role that closes the message with this descriptor. -/
def Role.closes : Role → Bool
  | .one | .finish => true
  | _ => false

/-- Prologue rounds of segment j under a role: a continuing segment restores state in 1 round (R53). -/
def segPrologue (s : State) (d : Desc) (r : Role) (j : Nat) : Nat :=
  match opClass d.op with
  | .applet => appletPro (appletEntry s (d.op - 0x80))
  | c => if c.msg && !(r.opens && decide (j = 0)) then 1 else prologueOf c

/-- Pad rounds of segment j (R166). -/
def segPads (d : Desc) (r : Role) (j m0 : Nat) : Nat :=
  let c := opClass d.op
  if (c = .digest ∨ c = .keyedDigest) ∧ j + 1 = segCount d ∧ r.closes = true then padRounds d m0 else 0

/-- Duration of segment j in rounds: prologue, body, epilogue (R53, R155). -/
def segDuration (s : State) (d : Desc) (r : Role) (j m0 : Nat) : Nat :=
  let c := opClass d.op
  let last := decide (j + 1 = segCount d)
  match c with
  | .applet =>
    let w := appletEntry s (d.op - 0x80)
    appletPro w + appletBody w + appletPer w * ceilDiv d.l 64 + appletEpi w
  | .engine => 1
  | .keyWrap => 1 + ceilDiv (6 * wrapSemi d) 4 + 1
  | _ =>
    let pad := segPads d r j m0
    let epi := if last && r.closes then epilogueOf c else 1
    segPrologue s d r j + segTricks d j + pad + epi

/-- The entry point the dealer selects for segment j of an opcode's play: by OPCODE, MODE, role, place in the descriptor
and pad count (R49, R135, R166); none while its table is not filled. An applet's segment starts no play of the dealer's
(DEDUCED, log entry 144). -/
def playEntry (s : State) (d : Desc) (r : Role) (j p : Nat) : Option Nat :=
  if opClass d.op = .applet then none
  else s.dealer.plays.map fun img =>
    (Config.entryPoint img d.op (2 * d.mode.toNat + b2n d.decrypt) r.ctorIdx
      (2 * b2n (decide (j = 0)) + b2n (decide (j + 1 = segCount d))) p).toNat

/-- The refusal entry (R143). -/
def refusalEntry (s : State) : Option Nat := s.dealer.plays.map fun img => (Config.entryPoint img 0 0 0 0 0).toNat

/-! ## Output lengths (R148, R169, R186, R216) -/

/-- Bytes of a modulus or group, and of hashes, fields and encodings of the engine tables (R185, R186). -/
def rsaBytes (d : Desc) : Nat :=
  if d.modeHi = 1 then 128 else if d.modeHi = 2 then 256 else if d.modeHi = 3 then 384
  else if d.modeHi = 4 then 512 else 1024
def hashBytes (d : Desc) : Nat :=
  if d.modeLo = 1 then 32 else if d.modeLo = 2 then 48 else if d.modeLo = 3 then 64 else 0
def groupBytes (g : Nat) : Nat := if g = 1 then 256 else if g = 2 then 384 else if g = 3 then 512 else 1024
def fieldBytes (c : Nat) : Nat := if c = 1 then 32 else if c = 2 then 48 else 66
/-- Public key bytes of a curve; ed: the Edwards form. -/
def curvePub (c : Nat) (ed : Bool) : Nat :=
  if c = 4 then 32 else if c = 5 then (if ed then 57 else 56) else 1 + 2 * fieldBytes c
def kemEk (p : Nat) : Nat := if p = 1 then 800 else if p = 2 then 1184 else 1568
def kemCt (p : Nat) : Nat := if p = 1 then 768 else if p = 2 then 1088 else 1568
def dsaPk (p : Nat) : Nat := if p = 1 then 1312 else if p = 2 then 1952 else 2592
def dsaSig (p : Nat) : Nat := if p = 1 then 2420 else if p = 2 then 3309 else 4627

/-- O of the engine table. -/
def engineOut (d : Desc) : Nat :=
  let k := rsaBytes d
  let m := d.modeLo
  if d.op ∈ [0x30, 0x31, 0x32, 0x34, 0x36] then k
  else if d.op = 0x33 then (if d.result = 1 then 0 else k - 2 * hashBytes d - 2)
  else if d.op = 0x38 then groupBytes m
  else if d.op = 0x3A then curvePub m (bit d.mode 4)
  else if d.op = 0x3B then 2 * fieldBytes m
  else if d.op = 0x3E then (if m = 4 then 64 else 114)
  else if d.op = 0x40 then kemEk m
  else if d.op = 0x41 then kemCt m
  else if d.op = 0x43 then dsaPk m
  else if d.op = 0x44 then dsaSig m
  else 0

/-- P of the AEAD and GCM layouts: LEN less the padded associated data, and less the tag when decrypting (R147). -/
def aeadPayload (d : Desc) : Nat :=
  let rest := d.l - 64 * ceilDiv d.aux 64
  if d.decrypt ∧ (d.msg = 0 ∨ d.msg = 3) then rest - resultLen d else rest

/-- Output length of a lane descriptor (R148, R169, R216). -/
def laneOut (d : Desc) (r : Role) : Nat :=
  match opClass d.op with
  | .cipher => d.l
  | .cipherMac | .digest | .keyedDigest => if r.closes && decide (d.result = 0) then resultLen d else 0
  | .aead => aeadPayload d + (if !d.decrypt && r.closes then resultLen d else 0)
  | .keyWrap => if d.op = 0x55 ∨ d.op = 0x59 then 0
    else if d.op = 0x10 ∧ d.decrypt then d.l - 8 else 8 * ceilDiv d.l 8 + 8
  | .applet => d.cap
  | _ => 0

/-- Output bytes segment j may write, which its staging reservation covers (R109). -/
def segOut (d : Desc) (r : Role) (j : Nat) : Nat :=
  match opClass d.op with
  | .engine => engineOut d
  | .cipher => segBytes d j
  | .aead =>
    let a := 64 * ceilDiv d.aux 64
    let o := laneOut d r
    min (o - (4096 * j - a)) (if j + 1 = segCount d then o else 4096 * (j + 1) - a - (4096 * j - a))
  | .applet => min d.cap (64 * segTricks d j)
  | _ => if j + 1 = segCount d then laneOut d r else 0

/-! ## The ring engine's checks (R92, R95, R155) -/

/-- Every field a NOP does not use is zero (R93, R94). -/
def nopClean (d : Desc) : Bool :=
  allZero ((descBytes d).drop 1 |>.set 2 0) && d.ctrl.toNat &&& 0xF3 == 0

/-- A reserved bit of MODE is set (R145, R158). -/
def modeReserved (d : Desc) : Bool :=
  match opClass d.op with
  | .cipher | .cipherMac | .aead => decide (fld d.mode 5 3 ≠ 0)
  | .keyWrap => d.op == 0x10 && decide (fld d.mode 5 3 ≠ 0)
  | .digest | .keyedDigest => decide (d.modeHi ≠ 0)
  | _ => false

/-- Opcodes that read no source (R186, R216, R219, R222, R241). -/
def noSource (op : Nat) : Bool :=
  [0x38, 0x3A, 0x40, 0x43, 0x54, 0x58, 0x60].contains op || isService op || (decide (0x70 ≤ op ∧ op ≤ 0x74)) || op == 0x76

/-- Opcodes that write no destination (R186, R216, R222). -/
def noDest (op : Nat) : Bool :=
  [0x35, 0x37, 0x39, 0x3C, 0x3D, 0x3F, 0x42, 0x45, 0x51, 0x52, 0x53, 0x55, 0x57, 0x59, 0x5B].contains op || isCeremony op

/-- A fragment field of a source or destination that the opcode does not have is not zero (R93, R95). -/
def fragUnused (d : Desc) : Bool :=
  (noSource d.op && (d.srcFrag || d.srcFrags != 0)) || (noDest d.op && (d.dstFrag || d.dstFrags != 0))

/-- The opcode uses the second KEYREF: a second key, or a target slot (R93, R170, R216, R222). -/
def usesKey1 (d : Desc) : Bool :=
  d.op == 0x04 || d.op == 0x53 || d.op == 0x54 || d.op == 0x5B || d.op == 0x72 || opClass d.op == .applet || hasTarget d

/-- What the ring engine refuses in the round a fetch returns. A fragment list's address is not tested for its alignment
(DESIGN CHOICE, log entry 136). -/
def formatFails (s : State) (house : Bool) (d : Desc) : List Fail :=
  let c := opClass d.op
  let appletMissing := c == .applet && !appletValid (appletEntry s (d.op - 0x80))
  need (!(c == .reserved || appletMissing)) .paramInvalid
    ++ need (d.resv == 0 && fld d.ctrl 7 4 == 0 && d.result != 3) .paramInvalid
    ++ need (d.key1Used || (d.key1 == 0 && d.slot1 == 0)) .paramInvalid
    ++ need (if d.srcFrag then decide (1 ≤ d.srcFrags.toNat ∧ d.srcFrags.toNat ≤ 256) else d.srcFrags == 0) .paramInvalid
    ++ need (if d.dstFrag then decide (1 ≤ d.dstFrags.toNat ∧ d.dstFrags.toNat ≤ 256) else d.dstFrags == 0) .paramInvalid
    ++ need (usesKey0 d || (d.key0 == 0 && d.slot0 == 0)) .paramInvalid
    ++ need (usesKey1 d || (d.key1 == 0 && d.slot1 == 0)) .paramInvalid
    ++ need (!modeReserved d && !fragUnused d) .paramInvalid
    ++ need (formsMessage d.op || d.msg == 0) .paramInvalid
    ++ need (formsResult d.op || d.result == 0) .paramInvalid
    ++ need (c != .nop || nopClean d) .paramInvalid
    ++ need (!(d.srcKitty && !d.srcFrag && kittyBad d.src)) .paramInvalid
    ++ need (!(d.dstKitty && !d.dstFrag && kittyBad d.dst)) .paramInvalid
    ++ need (!(d.srcKitty && !d.srcFrag && kittyPast d.src d.l)) .bounds 0x2000
    ++ need (!(d.dstKitty && !d.dstFrag && kittyPast d.dst d.cap)) .bounds 0x2000
    ++ need (!house || c == .nop || c == .ceremony) .suitFault 0x0C06

/-! ## What a segment puts out (R129, R147) -/

/-- Bytes of padded associated data, and the end of the payload, in the source (R147). -/
def aadPad (d : Desc) : Nat := 64 * ceilDiv d.aux 64
def payEnd (d : Desc) : Nat := aadPad d + aeadPayload d

/-- Payload bytes of segment j, without associated data and tag (R147). -/
def payBytes (d : Desc) (j : Nat) : Nat :=
  if opClass d.op = .aead then
    min (payEnd d) (4096 * j + segBytes d j) - max (aadPad d) (4096 * j)
  else segBytes d j

/-- Associated-data tricks of segment j. -/
def aadTricks (d : Desc) (j : Nat) : Nat :=
  if opClass d.op = .aead then min (segTricks d j) (ceilDiv d.aux 64 - 64 * j) else 0

/-- Output bytes a segment has produced by the end of the last round. -/
def outReady (b : Binding) (r : Round) : Nat :=
  if b.final < r then b.out.length
  else match opClass b.desc.op with
    | .cipher | .aead => min b.out.length (min (64 * (r - b.first - b.prologue - aadTricks b.desc b.seg)) (payBytes b.desc b.seg))
    | .applet => b.out.length
    | _ => 0

end Sys2Proof.Machine
end

