-- ==== Sys2Proof/Machine/KeyOps.lean ====
section
/-!
DEFINITION. Operations of the key store: granules and key objects (R205-R208), generations (R209), the checks on a
KEYREF (R210), targets and reservations (R170), and what a key load meets (R303, R318).
-/
namespace Sys2Proof.Machine

/-! ## Granules (R205, R207) -/

/-- Granules of a key object of n bytes, g(L) of R207. -/
def objGranules (n : Nat) : Nat := if n ≤ 48 then 1 else 1 + ceilDiv (n - 48) 60

/-- Pool granules that key objects hold or that are being overwritten. -/
def poolGran (s : State) : List Nat :=
  s.keys.hands.flatMap (fun e => e.2.slots.flatMap fun p => match p.2 with | some k => k.gran | none => [])
    ++ s.keys.zeroing

/-- Free pool granules (KEYS_FREE_GRAN). -/
def granFree (s : State) : Nat := Config.poolGranules - (poolGran s).length

/-- n free pool granules, the lowest ones (DESIGN CHOICE, log entry 12). -/
def granTake (s : State) (n : Nat) : List Nat :=
  let used := poolGran s
  lowestFree used n (used.length + n) Config.hands

/-- LIVE hands (KEYS_LIVE_HANDS). -/
def liveHands (s : State) : Nat := (s.keys.hands.filter fun e => e.2.live).length

/-- The object in a slot. -/
def slotObj (h : Hand) (i : Nat) : Option KeyObj := sget none h.slots i

/-- A slot is reserved for a result (R206). -/
def slotReserved (h : Hand) (i : Nat) : Bool := (sget none h.resv i).isSome


/-! ## Words and tags of the store (R205, R299, R300, R318) -/

/-- Key of a key store granule's tag entry in the tag error table. -/
def storeTag (g : Nat) : Nat := 0x100000 + g

/-- Error keys of the words of a key store granule. -/
def storeWords (g : Nat) : List Nat := (List.range 8).map fun i => wkey 0x120 (8 * g + i)

/-- Granules of the store written at a commit: fresh words, and the suit they carry (R205, R214, R300). -/
def tagStore (s : State) (gs : List Nat) (suit : BitVec 16) : State :=
  let s1 := freshWords s (gs.flatMap storeWords)
  { s1 with prot := { s1.prot with
    tags := gs.foldl (fun m g => sput 0 m (storeTag g) suit) s1.prot.tags
    badTags := gs.foldl (fun m g => sput false m (storeTag g) false) s1.prot.badTags } }

/-- A hand changed by a commit: its header and these pool granules are written with its suit. -/
def writeHand (s : State) (h : Nat) (gs : List Nat) (f : Hand → Hand) : State :=
  tagStore (modHand s h f) (h :: gs) (f (getHand s h)).suit

/-- A key object placed in a slot of a hand. -/
def putKey (s : State) (h i : Nat) (k : KeyObj) : State :=
  let g := granTake s (objGranules k.mat.length)
  writeHand s h g fun x =>
    { x with slots := sput none x.slots i (some { k with gran := g }), resv := sput none x.resv i none }

/-- The next generation of a hand: the current epoch, and one more than its last count in the epoch (R209). -/
def nextGen (epoch : BitVec 8) (g : BitVec 16) : BitVec 16 :=
  let c := if fld g 15 8 = epoch.toNat then fld g 7 0 else 0
  BitVec.ofNat 16 (256 * epoch.toNat + (if c = 255 then 1 else c + 1))

/-- Granules that a load of a hand and some of its slots reads. -/
def loadGranules (s : State) (h : Nat) (slots : List Nat) : List Nat :=
  h :: slots.flatMap fun i => match slotObj (getHand s h) i with | some k => k.gran | none => []

/-! ## KEYREF checks (R210) -/

/-- A granule of the store carries a suit, in a sound tag entry (R302). -/
def tagOk (s : State) (suit : BitVec 16) (g : Nat) : Bool :=
  !sget false s.prot.badTags (storeTag g) && sget 0 s.prot.tags (storeTag g) == suit

/-- The owner range of a hand holds a seat: a span of 0 takes every seat of the suit (R206). -/
def ownerOk (h : Hand) (seat : Nat) : Bool :=
  h.span == 0 || decide (h.base.toNat ≤ seat ∧ seat < h.base.toNat + h.span.toNat)

/-- The checks of R210 that do not concern a key: store, epoch, generation, suit, owner. sd and pd are the
DETAILs of a suit and an owner refusal. -/
def handFails (s : State) (seat : Nat) (hd : BitVec 32) (sd pd : BitVec 16) : List Fail :=
  let h := getHand s (handleHand hd)
  need (s.keys.ready && decide (fld (handleGen hd) 15 8 = s.aon.epoch.toNat)) .zeroised
    ++ need (h.live && decide (h.gen = handleGen hd)) .handleStale
    ++ need (decide ((getSeat s seat).suit = h.suit) && tagOk s h.suit (handleHand hd)) .suitFault sd
    ++ need (ownerOk h seat) .policy pd

/-- The granules of a key object carry the suit of their hand (R205, R301). -/
def chainFails (s : State) (h slot : Nat) : List Fail :=
  need ((loadGranules s h [slot]).all (tagOk s (getHand s h).suit)) .suitFault 0x0C01

/-- The last check of R210 for a slot, as a condition on its object. -/
def slotFails (s : State) (hd : BitVec 32) (slot : Nat) (p : KeyObj → Bool) (pe pd : BitVec 16) : List Fail :=
  chainFails s (handleHand hd) slot ++
  match slotObj (getHand s (handleHand hd)) slot with
  | none => [(.policy, pe)]
  | some k => need (p k) .policy pd

/-- The checks on a target slot: the hand's, then empty and unreserved, then ACCEPT_DERIVED where the value is a
derived one (R170, R206, R221). mine: the order of fetch of the descriptor that may hold the reservation. -/
def targetFails (s : State) (seat : Nat) (hd : BitVec 32) (slot : Nat) (derived : Bool) (pd : BitVec 16)
    (mine : Option Nat) : List Fail :=
  let h := getHand s (handleHand hd)
  let r := sget none h.resv slot
  handFails s seat hd 0x0C05 pd
    ++ need ((slotObj h slot).isNone && (r.isNone || r == mine)) .policy 0x0803
    ++ need (!derived || bit h.policy 0) .policy 0x0807

/-- A target slot reserved for a descriptor (R170). -/
def reserveSlot (s : State) (hd : BitVec 32) (slot seq : Nat) : State :=
  writeHand s (handleHand hd) [] fun h => { h with resv := sput none h.resv slot (some seq) }

/-! ## Refusals counted (R210, R303, R310) -/

/-- A refusal that R210 counts in KEYS_DENY_CNT. -/
def isKeyRefusal (f : Fail) : Bool :=
  decide (f.1 = .zeroised) || decide (f.1 = .handleStale) || decide (f.1 = .policy)
    || (decide (f.1 = .suitFault) && (f.2 == 0x0C01 || f.2 == 0x0C05))

/-- A descriptor refused under R210 is counted once, whatever unit refused it and however often. -/
def countDeny (s : State) (seat seq : Nat) (fs : List Fail) : State :=
  match flightBySeq s seat seq with
  | some g =>
    if fs.any isKeyRefusal && !g.denied then
      let s1 := modFlight s seat seq fun x => { x with denied := true }
      { s1 with keys := { s1.keys with deny := satAdd s1.keys.deny 1 } }
    else s
  | none => s

/-! ## Keys by type (R208, R212) -/

/-- Bits of USAGE (R212). -/
def uEncrypt : Nat := 0
def uDecrypt : Nat := 1
def uMacGen : Nat := 2
def uMacVerify : Nat := 3
def uWrap : Nat := 4
def uUnwrap : Nat := 5
def uExport : Nat := 6
def uSign : Nat := 7
def uAgree : Nat := 8
def uRaw : Nat := 9
def uRetype : Nat := 10
def uArchive : Nat := 11

/-- A key of a type that a symmetric ALG fits: for AES the size, for TDES two or three parts that differ (R146). -/
def algFits (alg : Nat) (k : KeyObj) : Bool :=
  if alg = 4 then k.type == 2 && !tdesSame k.mat
  else k.type == 1 && decide (k.mat.length = 16 + 8 * alg)
where
  /-- K1 = K2 or K2 = K3 (R208). -/
  tdesSame (m : Bytes) : Bool :=
    slice m 0 8 == slice m 8 8 || slice m 8 8 == (if m.length = 16 then slice m 0 8 else slice m 16 8)

/-- A material length a type allows (R208). -/
def lenLegal (type n : Nat) : Bool :=
  if type = 1 then n == 16 || n == 24 || n == 32
  else if type = 2 then n == 16 || n == 24
  else if type = 3 then decide (16 ≤ n ∧ n ≤ 144)
  else if type = 4 then decide (16 ≤ n ∧ n ≤ 64)
  else if type = 5 then decide (1 ≤ n ∧ n ≤ 1024)
  else false

/-- Material of an asymmetric key by type and PARAM: its length, and where its public part starts and how long it
is (R208). PARAM is coded as the MODE field of R184. -/
def asymShape (type : Nat) (param : Byte) : Option (Nat × Nat × Nat) :=
  let hi := fld param 7 4
  let lo := fld param 3 0
  if type = 6 then
    let k := if hi = 1 then 128 else if hi = 2 then 256 else if hi = 3 then 384 else if hi = 4 then 512 else 1024
    if 1 ≤ hi ∧ hi ≤ 5 then some (k + 4 + 5 * k / 2, 0, k + 4) else none
  else if type = 7 then
    if 1 ≤ lo ∧ lo ≤ 4 then some (2 * groupBytes lo, groupBytes lo, groupBytes lo) else none
  else if type = 8 then
    if 1 ≤ lo ∧ lo ≤ 3 then some (3 * fieldBytes lo + 1, fieldBytes lo, 2 * fieldBytes lo + 1)
    else if lo = 4 then some (64, 32, 32) else if lo = 5 then some (112, 56, 56) else none
  else if type = 9 then
    if lo = 4 then some (64, 32, 32) else if lo = 5 then some (114, 57, 57) else none
  else if type = 10 then if 1 ≤ lo ∧ lo ≤ 3 then some (64 + kemEk lo, 64, kemEk lo) else none
  else if type = 11 then if 1 ≤ lo ∧ lo ≤ 3 then some (32 + dsaPk lo, 32, dsaPk lo) else none
  else none

/-- A key object whose type is known and whose length fits it. -/
def objLegal (type : Nat) (param : Byte) (n : Nat) : Bool :=
  if type ≤ 5 then param == 0 && lenLegal type n
  else match asymShape type param with
    | some t => decide (t.1 = n)
    | none => false

/-- Bytes of the first granule up to KLEN and two reserved bytes (R207; SLOT_INFO). -/
def objHeader (k : KeyObj) : Bytes :=
  [BitVec.ofNat 8 k.type.toNat, k.param] ++ natLe 2 k.usage.toNat ++ natLe 2 k.mat.length ++ [0, 0]

/-- DETAILs of POLICY refusals: those of R221 for opcodes 0x50-0x5B, 0 for others. -/
def policyDetail (d : Desc) (x : BitVec 16) : BitVec 16 := if 0x50 ≤ d.op ∧ d.op ≤ 0x5B then x else 0

/-- A value placed in a hand slot; with too few free granules it is a POLICY refusal (R170, R188, R221). -/
def placeKey (s : State) (d : Desc) (k : Option KeyObj) (f : Fail) : State × Fail :=
  match k with
  | some x =>
    if f.1 ≠ .done then (s, f)
    else if granFree s < objGranules x.mat.length then (s, (.policy, policyDetail d 0x0802))
    else (putKey s (handleHand d.key1) d.slot1 x, f)
  | none => (s, f)

/-- The key object an engine's private material or secret becomes (R188, R208, R213). -/
def engineObj (s : State) (d : Desc) (v : Bytes) : KeyObj :=
  let lo : Byte := BitVec.ofNat 8 d.modeLo
  let t : BitVec 4 := if d.op = 0x38 then 7 else if d.op = 0x3A then (if bit d.mode 4 then 9 else 8)
    else if d.op = 0x40 then 10 else if d.op = 0x43 then 11 else 5
  { type := t, param := if t = 5 then 0 else lo, usage := (getHand s (handleHand d.key1)).defUse, mat := v, gran := [] }

/-- The value of a finished engine operation goes to its slot while the reservation of its descriptor stands. -/
def placeFinished (s : State) (f : Finished) : State × Fail :=
  let d := f.ticket.desc
  let held := sget none (getHand s (handleHand d.key1)).resv d.slot1 == some f.ticket.seq
  match f.toHand with
  | some v => if held then placeKey s d (some (engineObj s d v)) (f.status, f.detail) else (s, (f.status, f.detail))
  | none => (s, (f.status, f.detail))

/-! ## Random blocks (R74, R239) -/

/-- Blocks as a byte string, most significant byte first (PRESUMED, log entry 15). -/
def blockBytes (bs : List (BitVec 128)) : Bytes := bs.flatMap fun b => natBe 16 b.toNat

/-- RNG_SHOE.LEVEL: a reserved block counts until it is delivered (R239). -/
def Rng.level (g : Rng) : Nat := g.shoe.length + g.resv

/-- The shoe can supply n more blocks in this round (R74). -/
def shoeHas (s : State) (n : Nat) : Bool := decide (n ≤ s.rng.shoe.length) && decide (s.rng.st = .run)

/-- The n blocks a reservation takes: the oldest that nobody holds. -/
def nextBlocks (s : State) (n : Nat) : List (BitVec 128) := s.rng.shoe.take n

/-- n blocks reserved in this round, to be held by their consumer; they are delivered in the next (R74, R239). -/
def shoeReserve (s : State) (n : Nat) : State :=
  { s with rng := { s.rng with shoe := s.rng.shoe.drop n, resv := s.rng.resv + n } }

/-- Blocks reserved in this round go back to the front of the shoe. -/
def shoeReturn (s : State) (bs : List (BitVec 128)) : State :=
  { s with rng := { s.rng with shoe := bs ++ s.rng.shoe, resv := s.rng.resv - bs.length } }

/-- STORE_KEY from a nonce (R214). -/
def deriveStoreKey (s : State) (nonce : Bytes) : Bytes :=
  kmac256 s.aon.rootKey nonce ("STORE".toUTF8.toList.map fun c => c.toBitVec) 32

/-- ARCHIVE_KEY (R215). -/
def archiveKey (s : State) : Bytes :=
  kmac256 s.aon.rootKey [] ("ARCHIVE".toUTF8.toList.map fun c => c.toBitVec) 32

end Sys2Proof.Machine
end

