-- ==== Sys2Proof/Machine/Erase.lean ====
section
/-!
DEFINITION. Abort, freeze, erase and trip: what a seat halt, a FREEZE response and an erase of the key store do to
work in flight (R61, R78, R112, R199, R200, R224-R228, R329), the end of a quorum session (R370), and the responses of
a tamper trip (R324-R331, R338, R341).
-/
namespace Sys2Proof.Machine

/-! ## Aborted and withdrawn work -/

/-- The message whose record a number names closes (R61). -/
def closeRec (s : State) : Option Nat → State
  | some i => freeRec s i
  | none => s

/-- The message a descriptor occupies closes. -/
def closeBySeq (s : State) (seq : Nat) : State := closeRec s ((recOf s seq).map (·.1))

/-- Every lane the table lists, changed in turn. -/
def eachLane (s : State) (f : State → Nat → State) : State := s.lanes.foldl (fun t e => f t e.1) s

/-- Every engine the table lists, changed in turn. -/
def eachEngine (s : State) (f : State → Nat → State) : State := s.engines.foldl (fun t e => f t e.1) s

/-- Every seat the table lists, changed in turn. -/
def eachSeat (s : State) (f : State → Nat → State) : State := s.seats.foldl (fun t e => f t e.1) s

/-- One segment of a lane changed. -/
def modBind (s : State) (l : Nat) (b : Binding) (f : Binding → Binding) : State :=
  modLane s l fun ln => { ln with binds := ln.binds.map fun c => if c.seq == b.seq && c.seg == b.seg then f c else c }

/-- A segment ends at once with a status decided in round r; its message closes (R61, R78, R225). This is its last
round, and output that has not drained is lost with it. -/
def abortSeg (s : State) (l : Nat) (b : Binding) (st : Status) (d : BitVec 16) (r : Round) : State :=
  let s1 := modBind s l b fun c =>
    { c with
      posted := true, outcome := some (st, d), final := min c.final s.round
      out := c.out.take (outReady c s.round), after := none, toHand := none }
  let s2 := decide_ s1 b.seat b.seq st d r false
  closeRec s2 b.record

/-- A segment bound but not begun is withdrawn: its descriptor stands as before the sheet (R78, R112). -/
def unbind (s : State) (l : Nat) (b : Binding) : State :=
  let s1 := modLane s l fun ln =>
    { ln with binds := ln.binds.filter fun c => !(c.seq == b.seq && c.seg == b.seg) }
  let s2 := modFlight s1 b.seat b.seq fun g =>
    { g with
      nextSeg := b.seg, running := false, input := some b.input, expected := b.expected
      resvIn := b.resvIn, resvOut := b.resvOut, reserved := true
      role := if b.seg = 0 then none else g.role
      record := if b.seg = 0 then none else g.record }
  match b.record with
  | none => s2
  | some i =>
    if b.seg ≠ 0 then s2
    else if b.role.opens then freeRec s2 i
    else match getRec s2 i with
      | some m => setRec s2 i (some { m with occupant := none, occEnd := none })
      | none => s2

/-- A request leaves an engine with a status decided in round r and posted without a lane (R199, R200). -/
def endTicket (s : State) (k : Nat) (t : Ticket) (st : Status) (d : BitVec 16) (r : Round) : State :=
  decide_ (modEngine s k fun e => { e with tickets := e.tickets - 1 }) t.seat t.seq st d r false

/-- The duration of a running operation is known: an ML-DSA signature's once its attempts are counted (R189). -/
def durationKnown (x : Running) : Bool := x.played || x.ticket.raw.isSome || decide (x.ticket.desc.op ≠ 0x44)

/-- The operation of a request has run its E rounds (R177, R199). -/
def opEnded (s : State) (k : Nat) (t : Ticket) : Bool :=
  match (getEngine s k).run with
  | some x => x.ticket.seq == t.seq && durationKnown x && decide (x.s + x.e ≤ s.round)
  | none => false

/-- The requests of an engine, queued or running, that satisfy a condition are aborted (R200). -/
def abortEngine (s : State) (k : Nat) (p : Ticket → Bool) (st : Status) (d : BitVec 16) (r : Round) : State :=
  let e := getEngine s k
  let vs := (e.queue ++ (match e.start with | some x => [x.ticket] | none => [])
    ++ (match e.run with | some x => [x.ticket] | none => [])).filter p
  let hit := match e.run with | some x => p x.ticket | none => false
  let e1 := { e with
    queue := e.queue.filter fun t => !p t
    start := e.start.filter fun x => !p x.ticket
    run := if hit then none else e.run
    mask := if hit then none else e.mask
    freeAt := if hit then s.round + 2 else e.freeAt }
  vs.foldl (fun t v => endTicket t k v st d r) (setEngine s k e1)

/-- Finished operations keep their own status, posted without a lane in round r (R199). -/
def postEnded (s : State) (k : Nat) (r : Round) : State :=
  let fs := (getEngine s k).ended
  fs.foldl (fun t f =>
    let x := placeFinished t f
    endTicket x.1 k f.ticket x.2.1 x.2.2 r) (modEngine s k fun e => { e with ended := [], colls := [] })

/-- The house operation under way is aborted (R24, R223, R329). -/
def abortHouse (s : State) (p : Flight → Bool) (st : Status) (d : BitVec 16) (r : Round) : State :=
  eachSeat s fun t i => (getSeat t i).flights.foldl (fun u g =>
    if g.begun.isSome && g.decided.isNone && p g then decide_ u i g.seq st d r true else u) t

/-! ## Freeze (R78, R199, R329) -/

/-- FREEZE in this round. A segment in its final round ends in it, as its lane enters HALT only at the next
round boundary (DEDUCED, log entry 17). -/
def freezeLane (s : State) (l : Nat) : State :=
  (getLane s l).binds.foldl (fun t b =>
    if b.posted then t
    else if s.round < b.first then unbind t l b
    else if s.round < b.final then abortSeg t l b .aborted 0 s.round
    else t) s

/-- A freeze aborts the requests of an engine; operations that have ended keep their own status (R199). -/
def freezeEngine (s : State) (k : Nat) : State :=
  postEnded (abortEngine s k (fun t => !opEnded s k t) .aborted 0 s.round) k s.round

/-- The FREEZE response: the sheets of later rounds are discarded, that of this round is played to its end (R78). A freeze
already held runs again (R328). -/
def freeze (s : State) : State :=
  let s1 := { s with
    aon := { s.aon with freeze := true, thaw := none }
    dealer := { s.dealer with
      frozen := true
      frozeAt := if s.dealer.frozen then s.dealer.frozeAt else s.round
      sheets := s.dealer.sheets.filter fun h => decide (h.round ≤ s.round) } }
  let s2 := eachLane s1 freezeLane
  let s3 := eachEngine s2 freezeEngine
  abortHouse s3 (fun _ => true) .aborted 0 s.round

/-! ## Quorum sessions (R370) -/

/-- A credential whose authentication has not sent its next command leaves it with the session; a write under way
runs to its outcome, uncounted (R371, R373). -/
def leaveSession (x : Slot) : Slot :=
  let waits := match x.step with
    | .waitPw | .challenge | .drawing _ => true
    | _ => false
  { x with engaged := false, step := if waits then .none else x.step, st := if waits then .ready else x.st }

/-- A session returns to IDLE. -/
def endSession (s0 : State) (e : QuorumEnd) : State :=
  let s := modSlot (modSlot s0 0 leaveSession) 1 leaveSession
  if s0.quorum.st = .idle then s0
  else
    let s1 := { s with quorum := { s.quorum with st := .idle, ended := e, m := 0, comps := [] } }
    let s2 := abortHouse s1 (fun g => isCeremony g.desc.op) .aborted 0 s.round
    raiseAll s2 23

/-! ## Erase (R224-R228) -/

/-- A request that uses the key store, through KEY0 or a hand target (R199). -/
def Ticket.keyed (t : Ticket) : Bool :=
  match t.raw with
  | some p => p.op == 6
  | none => engineKeyed t.desc.op || t.desc.result == 1

/-- A segment that uses a key or a migration record (R225). -/
def Binding.keyed (b : Binding) : Bool :=
  !b.handOff && (loadsKey0 b.desc || loadsKey1 b.desc || b.record.isSome || b.desc.op == 0x59)

/-- The crypto-erase of one lane: its five banks, and the segments that use a key or a record. -/
def eraseLane (s : State) (l : Nat) : State :=
  let s1 := modLane s l fun ln =>
    { ln with banks := { ln.banks with
        k0a := none, k0i := none, k1a := none, k1i := none, dummy := none, keyin := none } }
  (getLane s1 l).binds.foldl (fun t b =>
    if b.posted || !b.keyed then t
    else if b.first ≤ s.round then abortSeg t l b .zeroised 0 (s.round + 1)
    else modBind t l b fun c => { c with
      refused := if c.loaded || c.record.isSome then some (.zeroised, 0) else c.refused, record := none
      key0 := none, key1 := none }) s1

/-- The crypto-erase of one engine. -/
def eraseEngine (s : State) (k : Nat) : State :=
  let s1 := abortEngine s k (fun t => t.keyed && !opEnded s k t) .zeroised 0 (s.round + 1)
  modEngine s1 k fun e => { e with mask := if e.run.any (fun x => x.ticket.keyed) then none else e.mask }

/-- Descriptors whose work needs a key or a record that is gone: those part-way through a message, and those held
for a hand (R225). -/
def eraseFlights (s : State) (i : Nat) : State :=
  (getSeat s i).flights.foldl (fun t g =>
    let parted := !g.running && (recOf s g.seq).isSome
    let waiting := g.heldFrom.isSome && g.expired.isNone && (loadsKey0 g.desc || g.desc.op == 0x51 || g.desc.op == 0x52)
    let house := g.begun.isSome && (isService g.desc.op || (isCeremony g.desc.op && g.desc.op != 0x70))
    if g.decided.isNone && (parted || waiting || house) then decide_ t i g.seq .zeroised 0 (s.round + 1) house
    else t) s

/-- The event log without the entries a commit made: those made since follow the ones before it. -/
def unlog (s : State) (m : LogMark) : State :=
  let a := s.aon
  let since := (a.logNext + 64 - (m.next + m.made) % 64) % 64
  let later := (List.range since).filterMap fun j => sget none a.log ((m.next + m.made + j) % 64)
  later.foldl pushLog { s with aon := { a with log := m.log, logNext := m.next, logWraps := m.wraps } }

/-- A ceremony's commit is not made after all (R228). -/
def undoCommit (s : State) (u : Undo) : State :=
  match u with
  | .root => { s with aon := { s.aon with rootKey := zeros 32, rootValid := false } }
  | .suit k v => modSeat s k fun x => { x with suit := v }
  | .tcr d fresh m =>
    let s1 := unlog s m
    { s1 with aon := { s1.aon with
      bank := !s1.aon.bank, defaulted := d, flip := none, restart := s1.aon.restart &&& ~~~fresh } }
  | .latch bs fresh again m =>
    let s1 := unlog s m
    { s1 with aon := { s1.aon with
      latched := s1.aon.latched ||| bs, restart := s1.aon.restart &&& ~~~fresh, rearm := s1.aon.rearm &&& ~~~again } }

/-- A hand service or ceremony committed in this round. A LIFECYCLE_SET stands: its fuses were programmed before its commit
round, and nothing unwrites them (R386, R388; DEDUCED, log entry 60). -/
def committedNow (s : State) (g : Flight) : Bool :=
  match g.decided with
  | some d => d.house && decide (d.status = .done) && decide (d.round = s.round)
      && (isService g.desc.op || (isCeremony g.desc.op && g.desc.op != 0x77))
  | none => false

/-- How many log entries ago a commit was made. -/
def undoAge (s : State) : Undo → Nat
  | .tcr _ _ m | .latch _ _ _ m => (s.aon.logNext + 64 - m.next) % 64
  | .root | .suit _ _ => 0

/-- A commit among those to be undone, the last one first. -/
def insUndo (s : State) (u : Undo) : List Undo → List Undo
  | [] => [u]
  | v :: r => if undoAge s u ≤ undoAge s v then u :: v :: r else v :: insUndo s u r

/-- Hand services and ceremonies that committed in the round of the erase: the erase wins, the commits are not made, and
they complete with ZEROISED (R228). -/
def eraseCommitted (s : State) : State :=
  let us := s.seats.flatMap fun e => (e.2.flights.filter (committedNow s)).filterMap (·.undo)
  let s1 := (us.foldr (insUndo s) []).foldl undoCommit s
  eachSeat s1 fun t i => modFlights t i (committedNow s) fun g =>
    { g with undo := none, decided := g.decided.map fun d => { d with status := .zeroised, detail := 0 } }

/-- The erase of R224 in this round; boot: the boot erase, which always advances EPOCH and wipes (R211, R228). -/
def eraseStore (s : State) (boot : Bool) : State :=
  let k := s.keys
  let fresh := k.ready || boot
  let s1 := eachLane s eraseLane
  let s2 := eachEngine s1 eraseEngine
  let s3 := eachSeat (eraseCommitted s2) eraseFlights
  let s4 := { s3 with
    keys := { s3.keys with
      ready := false, rearm := none, rearmRes := none, rearmBlk := [], storeKey := none, migKey := none
      eraseAt := s.round, zeroAt := none
      wiping := k.wiping || fresh
      wipeAt := if fresh then s.round else k.wipeAt
      wipeLeft := if fresh then Config.storeGranules else k.wipeLeft
      hands := [], zeroing := [] }
    aon := { s3.aon with epoch := if fresh then s3.aon.epoch + 1 else s3.aon.epoch }
    records := [] }
  endSession s4 .erase

/-! ## The Tamper Configuration Record (R324, R337-R339, R341) -/

/-- Factory entry of a source: RESP, FILTER, THRESH (R324). -/
def factoryEntry (i : Nat) : Nat × Nat × Nat :=
  if i = 0 then (0x87, 3, 110) else if i = 1 then (0x8F, 3, 65536 - 45)
  else if i = 2 then (0xAF, 4, 680) else if i = 3 then (0xAF, 4, 820)
  else if i = 4 then (0x87, 4, 1620) else if i = 5 then (0x87, 4, 1980)
  else if i = 6 then (0xAF, 1, 500) else if i = 7 then (0x8F, 1, 100)
  else if i < 16 then (0xCF, 2, 4) else if i < 18 then (0xDF, 2, 0)
  else if i < 22 then (0x4F, 8, 0) else if i = 22 then (0x83, 2, 0)
  else if i = 23 then (0x83, 3, 2400) else if i = 24 then (0x83, 1, 0)
  else if i = 25 then (0x8B, 1, 0) else if i = 26 then (0xAF, 1, 0) else (0x8F, 1, 0)

/-- The 252 bytes of the factory record before CHECK. -/
def factoryBody : Bytes :=
  natLe 2 1 ++ natLe 2 28 ++ zeros 12
    ++ ((List.range 28).flatMap fun i =>
      let e := factoryEntry i
      natLe 1 e.1 ++ [0] ++ natLe 2 e.2.1 ++ natLe 2 e.2.2 ++ [0, 0])
    ++ zeros 12

/-- The factory record with its CHECK. -/
def factoryTcr : Bytes := factoryBody ++ natLe 4 (crc32c factoryBody).toNat

/-- CHECK of a stored record is right (R337, R341). -/
def tcrCheckOk (b : Bytes) : Bool := b.length == 256 && leField b 252 4 == (crc32c (b.take 252)).toNat

/-- The record in force (R341): in the round of a commit the one before it (R340, R345). -/
def tcr (s : State) : Bytes :=
  let a := s.aon
  let active := if a.defaulted then factoryTcr else if a.bank then a.tcr1 else a.tcr0
  match a.flip with
  | some (r, wasDefault) =>
    if s.round ≤ r then (if wasDefault then factoryTcr else if a.bank then a.tcr0 else a.tcr1) else active
  | none => active

def tcrResp (s : State) (i : Nat) : Byte := byteAt (tcr s) (16 + 8 * i)
def tcrMode (s : State) (i : Nat) : Nat := (byteAt (tcr s) (17 + 8 * i)).toNat
def tcrFilter (s : State) (i : Nat) : Nat := leField (tcr s) (18 + 8 * i) 2
def tcrThresh (s : State) (i : Nat) : Nat := leField (tcr s) (20 + 8 * i) 2
/-- TCR.KEEP_SIDEBAND (R327). -/
def keepSideband (s : State) : Bool := bit (byteAt (tcr s) 4) 0

/-- A source is armed (R326, TAMP_ARMED). -/
def armed (s : State) (i : Nat) : Bool :=
  let p := s.power
  bit (tcrResp s i) 7 &&
    (if !p.main then decide (i ≤ 1) || (decide (8 ≤ i) && decide (i ≤ 21)) || i == 23
     else if (2 ≤ i ∧ i ≤ 7) ∨ i = 22 then decide (p.st = .run) || decide (p.st = .standby)
     else true)

/-! ## Trips (R327-R331) -/

def rLog : Nat := 0
def rIrq : Nat := 1
def rFreeze : Nat := 2
def rEraseVol : Nat := 3
def rEraseRoot : Nat := 4
def rReset : Nat := 5
def rLatch : Nat := 6

/-- INFO of a source's log entry: the measured value of sources 0-5 and 23 (R343). -/
def tripInfo (s : State) (i : Nat) : BitVec 32 :=
  if i ≤ 5 ∨ i = 23 then BitVec.ofInt 32 (sget .reset s.aon.filters i).value else 0

/-- Set of a source as an entry carries it: RESP[6:0]. -/
def tripSet (s : State) (i : Nat) : BitVec 7 := (tcrResp s i).setWidth 7

/-- ROOT_KEY is cleared (R327). -/
def eraseRoot (s : State) : State :=
  { s with aon := { s.aon with rootKey := zeros 32, rootValid := false } }

/-- TAMP_TRIPPED bits set. -/
def markTripped (s : State) (is : List Nat) : State :=
  { s with aon := { s.aon with tripped := is.foldl (fun v i => setBit v i true) s.aon.tripped } }

/-- The responses of a set of sources, other than LOG and those of single sources, in the order of R328. -/
def respond (s : State) (r : Byte) (latch : List Nat) (log : State → State) : State :=
  let s1 := if bit r rEraseRoot then eraseRoot s else s
  let s2 := if bit r rEraseVol then eraseStore s1 false else s1
  let s3 := if bit r rFreeze || bit r rLatch then freeze s2 else s2
  let s4 := { s3 with aon := { s3.aon with latched := latch.foldl (fun v i => setBit v i true) s3.aon.latched } }
  let s5 := if bit r rLog then log s4 else s4
  let s6 := if bit r rIrq then raiseAll s5 28 else s5
  if bit r rReset then { s6 with power := { s6.power with resetReq := true } } else s6

/-- The union of the sets of sources. -/
def unionSet (s : State) (is : List Nat) : Byte := is.foldl (fun v i => v ||| tcrResp s i) 0

/-- A trip on the backup cell (R331). -/
def batteryTrip (s : State) (i : Nat) : State :=
  let s1 := markTripped s [i]
  let s2 := if bit (tcrResp s i) rEraseRoot then eraseRoot s1 else s1
  let s3 := { s2 with aon := { s2.aon with pending := setBit s2.aon.pending i true } }
  if bit (tcrResp s i) rLog then logEvent s3 i (tripSet s i) 2 (tripInfo s i) else s3

/-- Armed sources qualify: on the backup cell their responses run at once, with main power at the end of the round, with
those of every other source that qualifies in it (R327, R328, R331). -/
def trip (s : State) (is : List Nat) : State :=
  if s.power.main then { s with aon := { s.aon with due := is.foldl (fun v i => setBit v i true) s.aon.due } }
  else is.foldl batteryTrip s

/-- The sources that have qualified in this round, ascending. -/
def dueSources (s : State) : List Nat := (List.range 28).filter fun i => bit s.aon.due i

/-- The union of the sets of the sources that have qualified in this round runs once, in the order of R328: with LATCH in
it every one of them is latched, with LOG in it every one has its entry, ascending (DEDUCED, log entry 61). -/
def tripTurn (s0 : State) : State :=
  let is := dueSources s0
  if is.isEmpty then s0
  else
    let s := { s0 with aon := { s0.aon with due := 0 } }
    let r := unionSet s is
    respond (markTripped s is) r (if bit r rLatch then is else []) fun t =>
      is.foldl (fun u i => logEvent u i (tripSet s i) 0 (tripInfo s i)) t

/-- Alarms of the main domain raised in this round: each armed source trips at most once in a round (R325, R326, R345). -/
def alarms (s : State) (is : List Nat) : State :=
  let go := is.filter fun i => armed s i && s.power.main && decide ((sget .reset s.aon.filters i).next ≤ s.aon.now)
  let s1 := { s with aon := { s.aon with filters := go.foldl (fun m i =>
    supd .reset m i fun f => { f with next := s.aon.now + 1 }) s.aon.filters } }
  trip s1 go

end Sys2Proof.Machine
end

