-- ==== Sys2Proof/Machine/Kitty.lean ====
section
/-!
DEFINITION. The kitty: flag words and their transitions (R114-R118), access to slot data (R119, R120), locks and
releases (R121-R123).
-/
namespace Sys2Proof.Machine

def ownFree : BitVec 2 := 0
def ownHost : BitVec 2 := 1
def ownDevice : BitVec 2 := 2
def ownLocked : BitVec 2 := 3

/-- State of a seat in effect in this round (R90). -/
def seatState (s : State) (x : Seat) : SeatState := if s.round < x.stFrom then x.prevSt else x.st

/-- The seat halted in an earlier round: the rules of R112 are in force. -/
def haltPast (s : State) (i : Nat) : Bool :=
  let x := getSeat s i
  decide (seatState s x = .halted) && decide (x.haltAt < s.round)

/-- A seat bound to a function (R87). -/
def boundTo (s : State) (i : Nat) (f : Func) : Bool := (getSeat s i).bind == f

/-- A flag word as a register word (R114). -/
def flagWord (g : Flag) : Word := mkWord (2 ^ 30 * g.owner.toNat + 2 ^ 16 * g.seq.toNat + g.seat.toNat)

/-- What a function reads of a flag word (R116). -/
def flagView (s : State) (f : Func) (k : Nat) : Word :=
  let g := getFlag s k
  if g.owner = ownFree ∨ boundTo s g.seat.toNat f = true then flagWord g else 0xC0000000

/-- Slots a function holds (R117, R124). -/
def slotsHeld (s : State) (f : Func) : Nat :=
  (s.kitty.flags.filter fun e => decide (e.2.owner ≠ ownFree) && boundTo s e.2.seat.toNat f).length

/-- Slots with an owner (KITTY_COUNT0, KITTY_COUNT1). -/
def slotsOf (s : State) (o : BitVec 2) : Nat :=
  let n := (s.kitty.flags.filter fun e => decide (e.2.owner = o)).length
  if o = ownFree then Config.kittySlots - (s.kitty.flags.filter fun e => decide (e.2.owner ≠ ownFree)).length else n

/-- A host's transition is permitted (R117). -/
def hostMove (s : State) (f : Func) (cur : Flag) (owner : BitVec 2) (seat : BitVec 13) : Bool :=
  if cur.owner = ownFree then
    decide (owner = ownHost) && boundTo s seat.toNat f && decide (seatState s (getSeat s seat.toNat) ≠ .off)
      && decide (slotsHeld s f < getLimit s (fkey f))
  else
    boundTo s cur.seat.toNat f && decide (seat = cur.seat)
      && ((decide (cur.owner = ownHost) && (decide (owner = ownDevice) || decide (owner = ownFree)))
        || (decide (cur.owner = ownDevice) && decide (owner = ownHost)))

/-- A refused flag write is counted (R115). -/
def refuseFlag (s : State) : State := { s with kitty := { s.kitty with refused := satAdd s.kitty.refused 1 } }

/-- A host write of one flag word (R115, R120). -/
def hostFlag (s : State) (f : Func) (k : Nat) (w : Word) : State :=
  let cur := getFlag s k
  let owner : BitVec 2 := BitVec.ofNat 2 (fld w 31 30)
  let seat : BitVec 13 := BitVec.ofNat 13 (fld w 12 0)
  if fld w 29 16 = cur.seq.toNat ∧ fld w 15 13 = 0 ∧ hostMove s f cur owner seat = true then
    let s1 := setFlag s k { owner := owner, seq := cur.seq + 1, seat := seat }
    if cur.owner = ownFree then tagGranules s1 (granule (kittyAddr (4096 * k))) 64 (getSeat s seat.toNat).suit else s1
  else refuseFlag s

/-- One slot of a lock as it was before it. -/
def undoLock (s : State) (m : FlagMove) : State :=
  match m.lock with
  | some p =>
    let s1 := setFlag s m.slot m.before
    { s1 with kitty := { s1.kitty with
      holder := sput 0 s1.kitty.holder m.slot p.2.1
      keep := sput false s1.kitty.keep m.slot p.2.2
      moves := s1.kitty.moves.filter fun x => x != m } }
  | none => s

/-- The last device transition of this round on a slot is undone when a host write takes its cycle, and is tried again in
the next round. A lock is made whole or not at all: every slot of it goes back, and its descriptor waits (R118, R122). -/
def undoMove (s : State) (k : Nat) : State :=
  match s.kitty.moves.reverse.find? fun m => m.slot == k with
  | some m =>
    match m.lock with
    | some p =>
      let q := p.1
      let ms := s.kitty.moves.filter fun x => x.lock.any fun y => y.1 == q
      modFlight (ms.foldl undoLock s) m.before.seat.toNat q fun g => { g with locked := false, lockFrom := s.round + 1 }
    | none =>
      let s1 := setFlag s k m.before
      { s1 with kitty := { s1.kitty with
        moves := s1.kitty.moves.filter fun x => x != m
        putOff := s1.kitty.putOff ++ [m] } }
  | none => s

/-- A refused access to slot data (R119), and every BAR4 access around STANDBY (R377). -/
def denySlot (s : State) (f : Func) (off : Nat) : State :=
  bar4Err { s with kitty := { s.kitty with deniedC := satAdd s.kitty.deniedC 1 } } f off

def flagPage : Nat := 0x1000000

/-- FLAG_WRITE (R115, R118): a host write to the flag page. -/
def execFlagWrite (f : Func) (off : Nat) (data : Bytes) (sameCycle : Bool) (s : State) : Out :=
  let touches := decide (flagPage < off + data.length) && decide (off < flagPage + 4 * Config.kittySlots)
  if !hostOk s f || !touches then .next s
  else if standbyHold s then .next (denySlot s f off)
  else if data.length ≠ 4 ∨ off % 4 ≠ 0 ∨ off < flagPage then .next (bar4Err (refuseFlag s) f off)
  else
    let k := (off - flagPage) / 4
    let s1 := if sameCycle then undoMove s k else s
    let s2 := hostFlag s1 f k (BitVec.ofNat 32 (leNat data))
    .next (if sameCycle then { s2 with kitty := { s2.kitty with touched := k :: s2.kitty.touched } } else s2)

/-! ## Slot data (R119, R120, R318) -/

/-- The slots n bytes at an offset of BAR4 touch. -/
def slotSpan (off n : Nat) : List Nat :=
  if n = 0 then [] else (List.range ((off + n - 1) / 4096 + 1 - off / 4096)).map (· + off / 4096)

/-- Every slot touched is HOST with a seat bound to the function. -/
def slotAllowed (s : State) (f : Func) (off n : Nat) : Bool :=
  (slotSpan off n).all fun k =>
    let g := getFlag s k
    decide (k < Config.kittySlots) && decide (g.owner = ownHost) && boundTo s g.seat.toNat f

/-- Host accesses carry the suit of the seat in the slot's flag word (R301). -/
def slotSuitOk (s : State) (off n : Nat) (write : Bool) : Bool :=
  (slotSpan off n).all fun k =>
    (List.range 64).all fun j =>
      let a := kittyAddr (4096 * k + 64 * j)
      (decide (4096 * k + 64 * j + 64 ≤ off) || decide (off + n ≤ 4096 * k + 64 * j))
        || suitOk s a 64 (getSeat s (getFlag s k).seat.toNat).suit write false

/-- Granules that n bytes at an offset of BAR4 touch. -/
def slotGrans (off n : Nat) : List Nat :=
  if n = 0 then [] else
    (List.range ((off + n - 1) / 64 + 1 - off / 64)).map fun j => granule (kittyAddr (64 * (off / 64 + j)))

/-- n bytes of the kitty from a byte on. -/
def kittyRead (s : State) (start n : Nat) : Bytes := (List.range n).map fun i => rd s (kittyAddr (start + i))

/-- Error keys of the words that n bytes of the kitty touch. -/
def kittyKeys (start n : Nat) : List Nat :=
  ((List.range n).flatMap fun i => wkeys (kittyAddr (start + i)) 1).eraseDups

/-- SLOT_DATA_READ (R84, R116, R119, R318): slot data, flag words, or zero from the reserved part. -/
def execSlotDataRead (f : Func) (off len : Nat) (s : State) : Out :=
  if !hostOk s f then .next s
  else if standbyHold s then .next { denySlot s f off with answer := .bytes (zeros len) }
  else if flagPage ≤ off then
    let b := (List.range len).map fun i =>
      let o := off + i - flagPage
      if o < 4 * Config.kittySlots then byteAt (natLe 4 (flagView s f (o / 4)).toNat) (o % 4) else 0
    .next { s with answer := .bytes b }
  else if slotAllowed s f off len then
    if slotSuitOk s off len false then
      let ks := kittyKeys off len
      let s1 := touchWords s ks
      .next { s1 with answer := if anyBad s ks then .poison else .bytes (kittyRead s off len) }
    else .next { denySlot (suitRefused s (slotGrans off len)) f off with answer := .bytes (zeros len) }
  else .next { denySlot s f off with answer := .bytes (zeros len) }

/-- Bytes written to the kitty by the host: those in an uncorrectable word they only partly cover are discarded (R318). -/
def kittyHostWrite (s : State) (off : Nat) (data : Bytes) : State :=
  let parts := (List.range ((off + data.length + 7) / 8 - off / 8)).map fun i => off / 8 + i
  parts.foldl (fun t w =>
    let lo := max off (8 * w)
    let hi := min (off + data.length) (8 * w + 8)
    let piece := slice data (lo - off) (hi - lo)
    let ks := wkeys (kittyAddr (8 * w)) 8
    if hi - lo < 8 then
      let t1 := touchWords t ks
      if anyBad t ks then t1 else store t1 (kittyAddr lo) piece
    else store t (kittyAddr lo) piece) s

/-- SLOT_DATA_WRITE (R84, R119, R318): slot data written; a write to the reserved part is discarded. -/
def execSlotDataWrite (f : Func) (off : Nat) (data : Bytes) (s : State) : Out :=
  if !hostOk s f then .next s
  else if standbyHold s then .next (denySlot s f off)
  else if decide (flagPage ≤ off) || data.isEmpty then .next s
  else if slotAllowed s f off data.length then
    if slotSuitOk s off data.length true then .next (kittyHostWrite s off data)
    else .next (denySlot (suitRefused s (slotGrans off data.length)) f off)
  else .next (denySlot s f off)

/-! ## Locks and releases (R121-R123) -/

/-- A descriptor's slot at the lock: it passes, waits on an earlier descriptor of the seat, or fails (R122). -/
inductive LockCheck where
  | pass | wait | fail
  deriving DecidableEq, Repr

def lockCheck (s : State) (i : Nat) (g : Flight) (k : Nat) : LockCheck :=
  let w := getFlag s k
  let h := sget 0 s.kitty.holder k
  if w.owner = ownDevice ∧ w.seat.toNat = i then .pass
  else if w.owner = ownLocked ∧ w.seat.toNat = i ∧ h ≤ g.seq then .wait
  else .fail

/-- A slot's flag word moved by the device (R115, R117). -/
def deviceFlag (s : State) (k : Nat) (o : BitVec 2) : State :=
  let w := getFlag s k
  setFlag s k { w with owner := o, seq := w.seq + 1 }

/-- One slot locked for a descriptor; the move can still lose its cycle to a host write. -/
def lockSlot (s : State) (g : Flight) (k : Nat) : State :=
  let m : FlagMove :=
    { slot := k, before := getFlag s k, target := ownLocked
      lock := some (g.seq, sget 0 s.kitty.holder k, sget false s.kitty.keep k) }
  let s1 := deviceFlag s k ownLocked
  { s1 with kitty := { s1.kitty with
    moves := s1.kitty.moves ++ [m]
    holder := sput 0 s1.kitty.holder k (g.seq + 1)
    keep := sput false s1.kitty.keep k (kittyKeeps g k) } }

/-- The fragment lists a descriptor needs are there. -/
def listsIn (g : Flight) : Bool := (!g.desc.srcFrag || g.srcList.isSome) && (!g.desc.dstFrag || g.dstList.isSome)

/-- KITTY_LOCK (R118, R122): the descriptor's slots are locked whole, waited for, or fail with BOUNDS. -/
def execKittyLock (seat : Fin 8192) (sq : Nat) (s : State) : Out :=
  match flightBySq s seat.val sq fun g =>
      g.decided.isNone && g.checked && !g.locked && listsIn g && decide (g.lockFrom ≤ s.round) && (kittyNamed g).length != 0 with
  | some g =>
    let ks := kittyNamed g
    if !running s || haltPast s seat.val then .next s
    else if ks.any fun k => s.kitty.touched.contains k then
      .next (modFlight s seat.val g.seq fun x => { x with lockFrom := s.round + 1 })
    else
      match (ks.filter fun k => lockCheck s seat.val g k == .fail).min? with
      | some k => .next (decide_ s seat.val g.seq .bounds (BitVec.ofNat 16 (0x1000 + k)) s.round false)
      | none =>
        if ks.all fun k => lockCheck s seat.val g k == .pass then
          let s1 := ks.foldl (fun t k => lockSlot t g k) s
          .next (modFlight s1 seat.val g.seq fun x => { x with locked := true })
        else .next s
  | none => .next s

/-- One release of the device: its flag word moves, and the move can still lose its cycle to a host write. -/
def releaseSlot (s : State) (k : Nat) (o : BitVec 2) : State :=
  let before := getFlag s k
  let s1 := deviceFlag s k o
  { s1 with kitty := { s1.kitty with moves := s1.kitty.moves ++ [{ slot := k, before := before, target := o, lock := none }] } }

/-- The locked slots of a descriptor return to HOST, or to DEVICE under KEEP (R123); one that a host write has already
touched in this cycle moves in the next round (R118). -/
def releaseFlight (s : State) (seq : Nat) : State :=
  let ks := s.kitty.holder.filter fun e => decide (e.2 = seq + 1)
  ks.foldl (fun t e =>
    let o := if sget false t.kitty.keep e.1 then ownDevice else ownHost
    let t1 := if t.kitty.touched.contains e.1 then
        { t with kitty := { t.kitty with
          putOff := t.kitty.putOff ++ [{ slot := e.1, before := getFlag t e.1, target := o, lock := none }] } }
      else releaseSlot t e.1 o
    { t1 with kitty := { t1.kitty with
      holder := sput 0 t1.kitty.holder e.1 0, keep := sput false t1.kitty.keep e.1 false } }) s

/-- Slots of a seat that enters OFF become FREE (R117). -/
def freeSeatSlots (s : State) (i : Nat) : State :=
  let ks := s.kitty.flags.filter fun e =>
    decide (e.2.seat.toNat = i) && (decide (e.2.owner = ownHost) || decide (e.2.owner = ownDevice))
  ks.foldl (fun t e => releaseSlot t e.1 ownFree) s

/-- A release put off is tried again against the flag word as it now stands (R118). -/
def retryMove (s : State) (m : FlagMove) : State :=
  let w := getFlag s m.slot
  let ok := if m.target = ownFree then decide (w.seat = m.before.seat) && decide (w.owner ≠ ownLocked) && decide (w.owner ≠ ownFree)
    else decide (w.owner = ownLocked)
  if ok then releaseSlot s m.slot m.target else s

/-- The kitty at the start of a round: put-off moves, then the releases of descriptors decided in the last round and
of seats that enter OFF. -/
def kittyRound (s : State) : State :=
  let old := s.kitty.putOff
  let s1 := { s with kitty := { s.kitty with touched := [], moves := [], putOff := [] } }
  let s2 := old.foldl retryMove s1
  eachSeat s2 fun t i =>
    let x := getSeat t i
    let t1 := x.flights.foldl (fun u g =>
      match g.decided with
      | some d => if d.round < u.round then releaseFlight u g.seq else u
      | none => u) t
    if x.st = .off ∧ x.stFrom = t.round then freeSeatSlots t1 i else t1

/-- A descriptor's slots are all released, in the fabric's order, before its completion (R123). -/
def released (s : State) (g : Flight) : Bool :=
  (s.kitty.holder.all fun e => decide (e.2 ≠ g.seq + 1))
    && (s.kitty.putOff.all fun m => decide (m.target = ownFree) || !((kittyNamed g).contains m.slot))

end Sys2Proof.Machine
end

