-- ==== Sys2Proof/Machine/Aes.lean ====
section
/-!
DEFINITION. AES (FIPS 197), multiplication in GF(2^128) for GHASH (SP 800-38D) and tweak doubling (XTS, CMAC).
The manual names the standards; the algorithms are theirs (PRESUMED, log entry 14).
-/
namespace Sys2Proof.Machine

/-- Multiplication by x in the AES field. -/
def xtime (b : Byte) : Byte := if b.getLsbD 7 then (b <<< 1) ^^^ 0x1B else b <<< 1

/-- Product in the AES field, n low bits of the second factor. -/
def gfMulAux : Nat → Byte → Byte → Byte
  | 0, _, _ => 0
  | n + 1, a, b => (if b.getLsbD 0 then a else 0) ^^^ gfMulAux n (xtime a) (b >>> 1)

/-- Product in the AES field. -/
def gfMul (a b : Byte) : Byte := gfMulAux 8 a b

/-- a^254 in the AES field, the inverse of a nonzero a. -/
def gfInv (a : Byte) : Byte :=
  let a2 := gfMul a a
  let a3 := gfMul a2 a
  let a6 := gfMul a3 a3
  let a12 := gfMul a6 a6
  let a15 := gfMul a12 a3
  let a30 := gfMul a15 a15
  let a60 := gfMul a30 a30
  let a120 := gfMul a60 a60
  let a126 := gfMul a120 a6
  let a127 := gfMul a126 a
  gfMul a127 a127

/-- The S-box. -/
def aesSub (a : Byte) : Byte :=
  let b := gfInv a
  b ^^^ b.rotateLeft 1 ^^^ b.rotateLeft 2 ^^^ b.rotateLeft 3 ^^^ b.rotateLeft 4 ^^^ 0x63

/-- The inverse S-box. -/
def aesInvSub (a : Byte) : Byte :=
  gfInv (a.rotateLeft 1 ^^^ a.rotateLeft 3 ^^^ a.rotateLeft 6 ^^^ 0x05)

/-- The key schedule: words in reverse order, n still to come. -/
def aesExpand (nk : Nat) : Nat → Nat → Byte → List Bytes → List Bytes
  | 0, _, _, ws => ws
  | n + 1, i, rc, ws =>
    let prev := ws.headD []
    let t :=
      if i % nk = 0 then
        let r := (prev.drop 1 ++ prev.take 1).map aesSub
        xorBytes r [rc, 0, 0, 0]
      else if nk > 6 ∧ i % nk = 4 then prev.map aesSub else prev
    let w := xorBytes (ws.getD (nk - 1) []) t
    aesExpand nk n (i + 1) (if i % nk = 0 then xtime rc else rc) (w :: ws)

/-- Round keys of 16 bytes for a key of 16, 24 or 32 bytes. -/
def aesKeys (key : Bytes) : List Bytes :=
  let nk := key.length / 4
  let ws := aesExpand nk (4 * (nk + 7) - nk) nk 1 (chunks 4 key).reverse
  chunks 16 ws.reverse.flatten

/-- Rows shifted left: byte r + 4c comes from column c + r. -/
def shiftRows (b : Bytes) : Bytes := (List.range 16).map fun i => byteAt b ((i + 4 * (i % 4)) % 16)

/-- Rows shifted right. -/
def invShiftRows (b : Bytes) : Bytes := (List.range 16).map fun i => byteAt b ((i + 12 * (i % 4)) % 16)

/-- One column multiplied by the circulant of four coefficients. -/
def mixCol (k : Bytes) (c : Bytes) : Bytes :=
  (List.range 4).map fun i =>
    (List.range 4).foldl (fun x j => x ^^^ gfMul (byteAt k ((j + 4 - i) % 4)) (byteAt c j)) 0

/-- Every column multiplied. -/
def mixCols (k b : Bytes) : Bytes := ((chunks 4 b).map (mixCol k)).flatten

/-- The rounds of the cipher after the first key addition. -/
def aesRounds : List Bytes → Bytes → Bytes
  | [], b => b
  | [k], b => xorBytes (shiftRows (b.map aesSub)) k
  | k :: ks, b => aesRounds ks (xorBytes (mixCols [2, 3, 1, 1] (shiftRows (b.map aesSub))) k)

/-- AES encryption of one block. -/
def aesEnc (key b : Bytes) : Bytes :=
  match aesKeys key with
  | [] => b
  | k0 :: ks => aesRounds ks (xorBytes b k0)

/-- The rounds of the inverse cipher after the first key addition. -/
def aesInvRounds : List Bytes → Bytes → Bytes
  | [], b => b
  | [k], b => xorBytes ((invShiftRows b).map aesInvSub) k
  | k :: ks, b => aesInvRounds ks (mixCols [14, 11, 13, 9] (xorBytes ((invShiftRows b).map aesInvSub) k))

/-- AES decryption of one block. -/
def aesDec (key b : Bytes) : Bytes :=
  match (aesKeys key).reverse with
  | [] => b
  | k0 :: ks => aesInvRounds ks (xorBytes b k0)

/-- A block as a big-endian number of 128 bits. -/
def blockNat (b : Bytes) : Nat := beNat (padTo 16 b)

/-- Product in GF(2^128) in the bit order of GHASH: n bits of x from the top. -/
def ghMulAux : Nat → BitVec 128 → BitVec 128 → BitVec 128 → BitVec 128
  | 0, _, _, z => z
  | n + 1, x, v, z =>
    ghMulAux n (x <<< 1) (if v.getLsbD 0 then (v >>> 1) ^^^ (0xE1 <<< 120) else v >>> 1)
      (if x.getLsbD 127 then z ^^^ v else z)

/-- Product in GF(2^128) (SP 800-38D). -/
def ghMul (x y : BitVec 128) : BitVec 128 := ghMulAux 128 x y 0

/-- The GHASH accumulator after more blocks. -/
def ghash (h acc : Bytes) (data : Bytes) : Bytes :=
  natBe 16 ((chunks 16 data).foldl
    (fun y b => ghMul (y ^^^ BitVec.ofNat 128 (blockNat b)) (BitVec.ofNat 128 (blockNat h)))
    (BitVec.ofNat 128 (blockNat acc))).toNat

/-- Multiplication by x of a block of n bytes taken big-endian (CMAC subkeys): constant 0x87 or 0x1B. -/
def doubleBe (b : Bytes) : Bytes :=
  let n := b.length
  let v := beNat b
  let w := 2 * v % 2 ^ (8 * n)
  let r := if v < 2 ^ (8 * n - 1) then w else Nat.xor w (if n = 8 then 0x1B else 0x87)
  natBe n r

/-- Multiplication by x of a tweak taken little-endian (XTS). -/
def doubleLe (b : Bytes) : Bytes :=
  let v := leNat b
  let w := 2 * v % 2 ^ 128
  natLe 16 (if v < 2 ^ 127 then w else Nat.xor w 0x87)

end Sys2Proof.Machine
end

