-- ==== Sys2Proof/Machine/Rng.lean ====
section
/-!
DEFINITION. The random bit generator (R231-R248): noise sources, health tests, the entropy pool, the expanders, the
shoe, and the commands about them.
-/
namespace Sys2Proof.Machine

/-! ## Sources (R231, R233-R235) -/

/-- Healthy sources. -/
def healthyCount (s : State) : Nat := ((List.range 4).filter fun i => (getSource s i).healthy).length

/-- One sample through both health tests; the flags say which test failed. -/
def sampleTests (x : Source) (b : Bool) : Source × Bool × Bool :=
  let run := if x.runLen ≠ 0 ∧ x.last = b then x.runLen + 1 else 1
  let first := decide (x.winPos = 0)
  let cnt := if first then 1 else if x.winBit = b then x.winCnt + 1 else x.winCnt
  ({ x with last := b, runLen := run, winPos := (x.winPos + 1) % 1024
            winBit := if first then b else x.winBit, winCnt := cnt },
   decide (41 ≤ run), decide (841 ≤ cnt))

/-- Where a sample goes: the startup test, or the compressor of a healthy source (R231, R234). -/
def sampleUse (x : Source) (b : Bool) : Source :=
  if x.startup ≠ 0 then { x with startup := x.startup - 1 }
  else if x.healthy && decide (x.absorbed < 512) then { x with absorbed := x.absorbed + 1, lfsr := Config.lfsrStep x.lfsr b }
  else x

/-- Exclusion of a source (R235). -/
def excludeSource (x : Source) (rct apt : Bool) : Source :=
  { x with
    healthy := false, startup := 1024, runLen := 0, winPos := 0, winCnt := 0, absorbed := 0, lfsr := 0
    excl := min 0xFF (x.excl + 1), lockout := x.lockout || decide (2 ≤ x.excl), rctFail := rct, aptFail := apt }

/-- The samples of one round through a source; true once it has been excluded, after which the rest are ignored. -/
def sourceRound (x : Source) : List Bool → Source × Bool
  | [] => (x, false)
  | b :: t =>
    let r := sampleTests x b
    if r.2.1 || r.2.2 then (excludeSource r.1 r.2.1 r.2.2, true) else sourceRound (sampleUse r.1 b) t

/-- Samples of a byte of noise, bit 0 first. -/
def noiseBits (b : Byte) : List Bool := (List.range 8).map fun i => bit b i

/-- The working state of both expanders is cleared (R244, R245). -/
def clearExpanders (s : State) : State := { s with rng := { s.rng with expA := .reset, expB := .reset } }

/-- The RNG leaves STARTUP when its three conditions hold (R244). -/
def leaveStartup (s : State) : State :=
  let passed := (List.range 4).all fun i => (getSource s i).healthy || (getSource s i).lockout
  if s.rng.st = .startup ∧ passed = true ∧ 2 ≤ healthyCount s ∧ s.rng.expA.st = .ready ∧ s.rng.expB.st = .ready then
    { s with rng := { s.rng with st := .run } }
  else s

/-- One source through its samples of the round, with the effects of an exclusion. -/
def runSource (s : State) (i : Nat) (b : Byte) : State :=
  let x := getSource s i
  if x.on && !x.lockout then
    let r := sourceRound x (noiseBits b)
    let s1 := setSource s i r.1
    if r.2 then
      raiseAll { s1 with rng := { s1.rng with pool := s1.rng.pool.filter fun w => decide (w.src ≠ i) } } 26
    else s1
  else s

/-- The four sources through the samples of a round. -/
def runSources (s : State) (noise : Bytes) : State :=
  (List.range 4).foldl (fun t i => runSource t i (byteAt noise i)) s

/-! ## Failure (R244, R245) -/

/-- Grants whose blocks are flushed wait again from the next round (R245); in the round of a freeze they complete with ABORTED
(R247). The limit of a STORE_INIT goes on from its ceremony's first round (R243). -/
def withdrawGrants (s : State) : State :=
  let now (g : Flight) : Bool := g.decided.isNone && g.granted == some s.round
  let s1 := eachSeat s fun t i => modFlights t i now fun g =>
    { g with
      granted := none, blocks := [], resvOut := []
      waitFrom := if g.desc.op = 0x70 then g.begun else some (s.round + 1) }
  if s.dealer.frozen && decide (s.dealer.frozeAt = s.round) then
    eachSeat s1 fun t i => ((getSeat s i).flights.filter now).foldl (fun u g => decide_ u i g.seq .aborted 0 s.round (decide (g.desc.op ≠ 0x60))) t
  else s1

/-- Queued requests of an engine fail; the running operation goes on, and so does a start whose blocks were delivered
in this round (R192, R245). -/
def failEngine (s : State) (k : Nat) : State :=
  let e := getEngine s k
  let keep := e.start.filter fun x => decide (x.s ≤ s.round + 1)
  let vs := (match e.start with | some x => if keep.isNone then [x.ticket] else [] | none => []) ++ e.queue
  vs.foldl (fun t v => endTicket t k v .rngUnavailable 0 (s.round + 1))
    (setEngine s k { e with queue := [], start := keep })

/-- A reservation made in round f is flushed in it; one of an earlier round has been delivered (R245). -/
def unlessIn (f : Round) (r : Option Round) : Option Round := r.filter fun n => decide (n ≠ f)

/-- FAILED is entered in this round, which is ending: what the shoe holds is flushed, the consumers of this round's
reservations lose them, and the alarm is raised (R245). -/
def rngFail (s : State) : State :=
  let g := s.rng
  let keep := decide (s.keys.rearmRes ≠ some s.round)
  let s1 := { s with
    rng := { g with st := .failed, shoe := [], resv := 0, flushed := g.flushed + g.level, pool := []
                    expA := .reset, expB := .reset }
    keys := { s.keys with
      rearmRes := unlessIn s.round s.keys.rearmRes, rearmBlk := if keep then s.keys.rearmBlk else [] }
    power := { s.power with
      drawn := unlessIn s.round s.power.drawn
      bootBlk := if s.power.drawn = some s.round then [] else s.power.bootBlk }
    dealer := { s.dealer with
      rngHold := true
      sheets := s.dealer.sheets.map fun h => if h.round = s.round + 2 then { h with refresh := none, seed := [] } else h } }
  let again (x : Slot) : Slot := if x.step = .drawing s.round then { x with step := .challenge, chal := [] } else x
  alarms (modSlot (modSlot s1 0 again) 1 again) [24]

/-- What FAILED leaves of the work that lost its blocks, once the responses of the round have run, so that a freeze of this
round has aborted its own: it waits again or fails (R245, R247). -/
def rngAftermath (s : State) : State := eachEngine (withdrawGrants s) failEngine

/-- Sources that count as healthy at the end of a round: a source that has passed its startup test in it is readmitted in
it (R234, R247). -/
def countedHealthy (s : State) : Nat :=
  ((List.range 4).filter fun i =>
    let x := getSource s i
    x.healthy || (x.on && !x.lockout && decide (x.startup = 0))).length

/-- The healthy count below two: in RUN the RNG fails, in STARTUP its expanders start again (R244, R245). -/
def checkHealthy (s : State) : State :=
  if 2 ≤ countedHealthy s then leaveStartup s
  else match s.rng.st with
    | .run => rngFail s
    | .startup => clearExpanders s
    | .failed => clearExpanders s

/-! ## CTR_DRBG with AES-256 (R236; SP 800-90A 10.2.1) -/

/-- V after its increment. -/
def nextV (v : Bytes) : Bytes := natBe 16 ((beNat v + 1) % 2 ^ 128)

/-- The update function with 48 bytes of provided data. -/
def drbgUpdate (e : Expander) (data : Bytes) : Expander :=
  let v1 := nextV e.v
  let v2 := nextV v1
  let v3 := nextV v2
  let t := xorBytes (aesEnc e.key v1 ++ aesEnc e.key v2 ++ aesEnc e.key v3) data
  { e with key := t.take 32, v := t.drop 32 }

/-- Four blocks of a generate request. -/
def drbgBlocks (e : Expander) : Expander × List (BitVec 128) :=
  let v1 := nextV e.v
  let v2 := nextV v1
  let v3 := nextV v2
  let v4 := nextV v3
  ({ e with v := v4 }, [v1, v2, v3, v4].map fun v => BitVec.ofNat 128 (beNat (aesEnc e.key v)))

/-! ## The shoe (R236-R239) -/

/-- An expander that generates in this round. -/
def generating (s : State) (e : Expander) : Bool :=
  decide (e.st = .ready) && decide (e.until_ ≤ s.round) && decide (e.part < 4)

/-- Four blocks of one expander into the shoe, when four places are free. -/
def fillFrom (s : State) (b : Bool) : State :=
  let g := s.rng
  let e := if b then g.expB else g.expA
  if generating s e && decide (g.level + 4 ≤ Config.shoeSize) then
    let r := drbgBlocks e
    let e1 := { r.1 with part := e.part + 1, lastAt := s.round }
    let g1 := { g with shoe := g.shoe ++ r.2, filled := g.filled + 4 }
    { s with rng := if b then { g1 with expB := e1 } else { g1 with expA := e1 } }
  else s

/-- The RNG returns from FAILED in the round its first block is delivered (R246). -/
def rngRun (s : State) : State :=
  if s.rng.st = .failed ∧ generating s s.rng.expA = true ∧ generating s s.rng.expB = true then
    { s with rng := { s.rng with st := .run, interval := 1024 }
             dealer := { s.dealer with rngHold := false } }
  else s

/-- Deliveries of the expanders in this round: the one that delivered less recently first. -/
def shoeFill (s : State) : State :=
  let s1 := rngRun s
  if s1.rng.st = .run then
    if s1.rng.expB.lastAt < s1.rng.expA.lastAt then fillFrom (fillFrom s1 true) false
    else fillFrom (fillFrom s1 false) true
  else s1

/-- The level at the end of a round: a fall through 128 doubles I; rounds at 384 or more are counted (R238). -/
def reseedStretch (s : State) : State :=
  let g := s.rng
  let fell := decide (128 ≤ g.endLevel) && decide (g.level < 128)
  { s with rng := { g with
    interval := if fell then min 16384 (2 * g.interval) else g.interval
    high := if 384 ≤ g.level then g.high + 1 else 0
    endLevel := g.level } }

/-- Blocks reserved in the last round are delivered (R239). -/
def shoeDeliver (s : State) : State :=
  let g := s.rng
  { s with rng := { g with delivered := g.delivered + g.resv, resv := 0 } }

/-- The RNG's part of the end of a round with these samples. -/
def rngRoundEnd (s : State) (noise : Bytes) : State :=
  checkHealthy (runSources (reseedStretch (shoeFill s)) noise)

/-- The sources start, or restart after STANDBY: the RNG begins at STARTUP (R231, R377). -/
def rngStart (s : State) : State :=
  let fresh (x : Source) : Source :=
    { x with on := !x.lockout, healthy := false, startup := 1024, runLen := 0, winPos := 0, winCnt := 0, absorbed := 0, lfsr := 0 }
  { s with rng := { s.rng with
    st := .startup, pool := [], expA := .reset, expB := .reset, shoe := [], resv := 0
    flushed := s.rng.flushed + s.rng.level, endLevel := 0, high := 0, interval := 1024
    src := (List.range 4).foldl (fun m i => sput .reset m i (fresh (sget .reset m i))) s.rng.src } }

/-! ## Seeds (R232) -/

/-- The three words of a seed, when one can be formed, and the pool without them. -/
def takeSeed : List PoolWord → Option (List PoolWord × List PoolWord)
  | a :: b :: t =>
    let third (w : PoolWord) : Bool := decide (a.src ≠ b.src) || decide (w.src ≠ a.src)
    (t.find? third).map fun c => ([a, b, c], t.eraseP third)
  | _ => none

/-- The 48 bytes of a seed, its oldest word first. -/
def seedBytes (ws : List PoolWord) : Bytes := blockBytes (ws.map (·.word))

/-- A word enters the pool: those of one round stand in ascending source number, and the oldest of nine is dropped (R232). -/
def poolPut (p : List PoolWord) (w : PoolWord) : List PoolWord :=
  let before (c : PoolWord) : Bool := decide (c.at_ ≠ w.at_) || decide (c.src < w.src)
  let q := p.takeWhile before ++ w :: p.dropWhile before
  q.drop (q.length - 8)

/-! ## Commands -/

/-- CONDITIONED_WORD (R231, R232): a compressor that has absorbed 512 samples emits its word into the pool. -/
def execConditionedWord (src : Fin 4) (s : State) : Out :=
  let x := getSource s src.val
  if x.healthy && x.absorbed == 512 then
    let s1 := setSource s src.val { x with absorbed := 0 }
    .next { s1 with rng := { s1.rng with pool := poolPut s1.rng.pool { src := src.val, word := x.lfsr, at_ := s.round } } }
  else .next s

/-- SOURCE_STARTUP_END (R234, R235): a source that has passed its startup test becomes healthy. -/
def execSourceStartupEnd (src : Fin 4) (s : State) : Out :=
  let x := getSource s src.val
  if x.on && !x.healthy && !x.lockout && x.startup == 0 then
    let s1 := setSource s src.val { x with healthy := true }
    let s2 := if s1.rng.st = .failed ∧ healthyCount s1 = 2 then { s1 with rng := { s1.rng with pool := [] } } else s1
    let s3 := if x.excl = 0 then s2 else raiseAll s2 26
    .next (leaveStartup s3)
  else .next s

/-- The other expander is free of a seed operation. -/
def otherIdle (e : Expander) : Bool := !(decide (e.st = .instantiating) || decide (e.st = .reseeding))

/-- EXPANDER_INSTANTIATE (R236, R246): a 16-round instantiation from a seed, A before B. -/
def execExpanderInstantiate (b : Bool) (s : State) : Out :=
  let g := s.rng
  let e := if b then g.expB else g.expA
  let turn := if b then decide (g.expA.st = .ready) && decide (g.expA.until_ ≤ s.round) else otherIdle g.expB
  match takeSeed g.pool with
  | some (ws, p) =>
    if decide (e.st = .empty) && turn && decide (g.st ≠ .run) && decide (2 ≤ healthyCount s) && running s then
      let e1 := { Expander.reset with st := .instantiating, until_ := s.round + 16, seed := seedBytes ws }
      .next { s with rng := if b then { g with pool := p, expB := e1 } else { g with pool := p, expA := e1 } }
    else .next s
  | none => .next s

/-- EXPANDER_RESEED (R237): a 16-round reseed of an expander that waits for a seed. -/
def execExpanderReseed (b : Bool) (s : State) : Out :=
  let g := s.rng
  let e := if b then g.expB else g.expA
  let o := if b then g.expA else g.expB
  match takeSeed g.pool with
  | some (ws, p) =>
    if decide (e.st = .waitSeed) && otherIdle o && running s then
      let e1 := { e with st := .reseeding, until_ := s.round + 16, seed := seedBytes ws }
      .next { s with rng := if b then { g with pool := p, expB := e1 } else { g with pool := p, expA := e1 } }
    else .next s
  | none => .next s

/-- An expander at or past its reseed point goes for a seed unless the other one is reseeding or waiting (R237). -/
def goReseed (e o : Expander) (interval : Nat) : Expander :=
  if interval ≤ e.reqs ∧ e.part = 0 ∧ e.st = .ready ∧ o.st ≠ .reseeding ∧ o.st ≠ .waitSeed then
    { e with st := .waitSeed }
  else e

/-- SEED_OPERATION_END (R236, R237, R244): an instantiation or reseed of 16 rounds ends. -/
def execSeedOperationEnd (b : Bool) (s : State) : Out :=
  let g := s.rng
  let e := if b then g.expB else g.expA
  if !otherIdle e && decide (e.until_ ≤ s.round) then
    let e1 := { drbgUpdate e e.seed with st := .ready, reqs := 0, part := 0, seed := [] }
    let o := goReseed (if b then g.expA else g.expB) e1 g.interval
    .next (leaveStartup { s with rng := if b then { g with expB := e1, expA := o } else { g with expA := e1, expB := o } })
  else .next s

/-- GENERATE_REQUEST (R236, R237): a request whose 16 blocks are delivered completes and counts toward I. -/
def execGenerateRequest (b : Bool) (s : State) : Out :=
  let g := s.rng
  let e := if b then g.expB else g.expA
  let o := if b then g.expA else g.expB
  if decide (e.st = .ready) && e.part == 4 then
    let e1 := { drbgUpdate e (zeros 48) with reqs := e.reqs + 1, part := 0 }
    let first := b && o.part == 4 && decide (g.interval ≤ o.reqs + 1) && decide (o.st = .ready)
    let e2 := if first then e1 else goReseed e1 o g.interval
    .next { s with rng := if b then { g with expB := e2 } else { g with expA := e2 } }
  else .next s

/-- RESEED_HALVING (R238): after 4,096 rounds at 384 or more I halves and the count starts again. -/
def execReseedHalving (s : State) : Out :=
  let g := s.rng
  if 4096 ≤ g.high then .next { s with rng := { g with interval := max 1024 (g.interval / 2), high := 0 } }
  else .next s

/-- Round in which a wait that began in round w reaches its limit (R243). -/
def waitLimit (s : State) (w : Round) : Round := w + (s.rng.waitLim.at_ s.round) - 1

/-- RNG_WAIT_EXPIRY (R192, R243): a consumer whose wait has reached its limit fails with RNG_UNAVAILABLE. -/
def execRngWaitExpiry (who : RngWaiter) (s : State) : Out :=
  match who with
  | .flight seat sq =>
    match flightBySq s seat.val sq fun g => g.decided.isNone && g.granted.isNone && g.waitFrom.isSome with
    | some g =>
      match g.waitFrom with
      | some w =>
        if waitLimit s w ≤ s.round then
          .next (decide_ s seat.val g.seq .rngUnavailable 0 (waitLimit s w) (decide (g.desc.op ≠ 0x60)))
        else .next s
      | none => .next s
    | none => .next s
  | .engine d =>
    match (getEngine s d.val).queue with
    | t :: rest =>
      match t.waitFrom with
      | some w =>
        if waitLimit s w ≤ s.round then
          .next (endTicket (modEngine s d.val fun e => { e with queue := rest }) d.val t .rngUnavailable 0 (waitLimit s w))
        else .next s
      | none => .next s
    | [] => .next s

end Sys2Proof.Machine
end

