-- ==== Sys2Proof/Machine/Tamper.lean ====
section
/-!
DEFINITION. Tamper monitors and the commands on the tamper registers (R325, R329, R336, R344, R346).
-/
namespace Sys2Proof.Machine

/-! ## Register commands -/

/-- A W1C word after a write; same: bits the device sets in the same cycle (R10). -/
def w1c {w : Nat} (cur v same : BitVec w) : BitVec w := cur &&& ~~~ (v &&& ~~~ same)

/-! ## Monitors (R324, R325) -/

/-- Sample period of a monitor on main power, in rounds; continuous sources have 1 (R324, R336). -/
def samplePeriod (i : Nat) : Nat := if i ≤ 1 ∨ i = 22 ∨ i = 23 then Config.roundsPerMs else 1

/-- Intervals of 40 ns from one sample to the next: 1 s, 976.6 us and 244.1 us on the backup cell, in whole intervals
(R324; DESIGN CHOICE, log entry 153). -/
def sampleGap (s : State) (i : Nat) : Nat :=
  if s.power.main then samplePeriod i
  else if i ≤ 1 ∨ i = 23 then Config.roundsPerSecond
  else if i < 16 then 24414
  else 6104

/-- Samples with the condition that qualify a source: 1 for CLK_GLITCH and CLK_STOP, which qualify at once (R325). -/
def filterOf (s : State) (i : Nat) : Nat := if i = 6 ∨ i = 7 then 1 else tcrFilter s i

/-- A 16-bit threshold as a signed number of degrees. -/
def signed16 (n : Nat) : Int := if n < 32768 then (n : Int) else (n : Int) - 65536

/-- Whether a sample finds the condition of a source (R324). -/
def sampleCond (s : State) (i : Nat) (v : Sample) : Bool :=
  let th : Int := (tcrThresh s i : Int)
  let ts := signed16 (tcrThresh s i)
  if i = 0 then decide (ts ≤ v.value)
  else if i = 1 then decide (v.value ≤ ts)
  else if i = 2 ∨ i = 4 ∨ i = 23 then decide (v.value ≤ th)
  else if i = 3 ∨ i = 5 then decide (th ≤ v.value)
  else if i = 6 then decide (v.value < th)
  else if i = 7 then decide (th * 10 ≤ v.value)
  else if i < 16 then decide ((2 : Int) ^ (tcrThresh s i - 1) ≤ v.value)
  else if i = 22 then decide (v.value < 1800) && s.power.main
  else if 18 ≤ i ∧ i ≤ 21 then
    if tcrMode s i = 1 then v.cond != Config.tampPattern i (sget .reset s.aon.filters i).driven else v.cond
  else v.cond

/-- The test under way holds the condition of its source (R336). -/
def stimulus (s : State) (i : Nat) : Bool :=
  match s.aon.test with
  | some t => t.source == i && decide (t.n < s.round) && decide (s.round ≤ t.n + tcrFilter s i * samplePeriod i)
  | none => false

/-- The source is under test, so its trips are suppressed, in rounds n + 1 to n + W (R336). -/
def underTest (s : State) (i : Nat) : Bool :=
  match s.aon.test with
  | some t => t.source == i && decide (t.n < s.round) && decide (s.round ≤ t.n + t.window)
  | none => false

/-- A filter after one sample: c with the stimulus, own without it; a tripped source needs n samples without its condition
before it can qualify again. -/
def filterStep (f : Filter) (n : Nat) (c own : Bool) (value : Int) (next : Nat) : Filter :=
  let misses := if c then 0 else f.misses + 1
  { hits := if c then f.hits + 1 else 0, misses := misses
    trippd := f.trippd && !(decide (n ≤ misses)), raw := own, value := value, next := next, driven := f.driven + 1 }

/-- The always-on domain is supplied. -/
def aonUp (s : State) : Bool := s.power.main || s.power.cell

/-- Temperature and VBAT as TAMP_SENSE shows them. -/
def senseStep (p : Power) (i : Nat) (v : Sample) : Power :=
  if i ≤ 1 then { p with temp := v.value } else if i = 22 ∨ i = 23 then { p with vbatMv := v.value } else p

/-- A monitor's sample taken: its filter, then its trip. -/
def takeSample (s : State) (i : Nat) (v : Sample) : State :=
  let own := sampleCond s i v
  let f := filterStep (sget .reset s.aon.filters i) (tcrFilter s i) (own || stimulus s i) own v.value
    (s.aon.now + sampleGap s i)
  let q := decide (filterOf s i ≤ f.hits) && !f.trippd
  let t := underTest s i
  let fire := q && armed s i
  let f1 := { f with trippd := f.trippd || (fire || (q && t)) }
  let s1 := { s with
    power := senseStep s.power i v
    aon := { s.aon with
      filters := sput .reset s.aon.filters i f1
      test := if q && t then s.aon.test.map (fun x => { x with passed := true }) else s.aon.test } }
  if fire && !t then trip s1 [i] else s1

/-- MONITOR_SAMPLE (R324, R325): one sample of a monitor. Alarms 24-27 are raised by their own rules and take no samples. A
sample earlier than the source's period takes nothing; CLK_GLITCH and CLK_STOP are sampled continuously. -/
def execMonitorSample (src : Fin 28) (v : Sample) (s : State) : Out :=
  let i := src.val
  let due := i == 6 || i == 7 || decide ((sget .reset s.aon.filters i).next ≤ s.aon.now)
  .next (if decide (i < 24) && aonUp s && due then takeSample s i v else s)

/-! ## Register commands of the tamper block -/

def tampBase : Nat := 0x000F0000

/-- A condition present in this round (TAMP_RAW): an alarm's in the round it is raised, and the one a test's stimulus
holds. -/
def rawNow (s : State) (i : Nat) : Bool :=
  let f := sget Filter.reset s.aon.filters i
  f.raw || stimulus s i || (decide (24 ≤ i) && f.next == s.aon.now + 1)

/-- No armed source whose set holds FREEZE has its condition present or trips in this round (R329, R345). -/
def freezeQuiet (s : State) : Bool :=
  (List.range 28).all fun i => !(armed s i && bit (tcrResp s i) rFreeze && (rawNow s i || bit s.aon.due i))

/-- A freeze clear asked for (R329). -/
def freezeClear (t : State) (f : Func) : State :=
  if t.aon.latched == 0 && freezeQuiet t then { t with aon := { t.aon with thaw := some (t.round + 1) } }
  else regErr t f (tampBase + 4)

/-- FREEZE_CLEAR (R329): a freeze clears in the next round, with its entry, when nothing is latched or present; the write
is accepted, and its entry made, though no freeze is held. -/
def execFreezeClear (f : Func) (s : State) : Out := .next (pfWrite s f (tampBase + 4) fun t => freezeClear t f)

/-- A write of TAMP_TEST (R336). -/
def tampTestWrite (t : State) (f : Func) (v : Word) : State :=
  let i := fld v 4 0
  if bit v 31 then
    if decide (t.power.st = .run) && t.aon.test.isNone && decide (i < 24) && armed t i then
      { t with aon := { t.aon with
        test := some { source := i, n := t.round, window := tcrFilter t i * samplePeriod i + 16, passed := false }
        testRes := 0, testSrc := BitVec.ofNat 5 i
        restart := setBit t.aon.restart i true, rearm := setBit t.aon.rearm i true } }
    else regErr t f (tampBase + 0x1C)
  else { t with aon := { t.aon with testSrc := BitVec.ofNat 5 i } }

/-- TAMP_TEST (R336): GO starts a self-test of an armed monitor. -/
def execTampTest (f : Func) (v : Word) (s : State) : Out :=
  .next (pfWrite s f (tampBase + 0x1C) fun t => tampTestWrite t f v)

/-- TAMP_TEST_END (R336): in round n + W + 1 the test's result stands: its source qualified under the stimulus, and its own
condition was absent at its last sample. -/
def execTampTestEnd (s : State) : Out :=
  match s.aon.test with
  | some t =>
    if t.n + t.window < s.round then
      let f := sget Filter.reset s.aon.filters t.source
      let s1 := { s with aon := { s.aon with test := none, testRes := if t.passed && !f.raw then 1 else 2 } }
      .next (logEvent s1 t.source 0 4 0)
    else .next s
  | none => .next s

/-- The clock set (R344). -/
def rtcSet (t : State) (v : Word) : State :=
  logEvent { t with aon := { t.aon with rtcSec := v, rtcFrac := 0, rtcAcc := 0, rtcValid := true } } 0x44 0 0 t.aon.rtcSec

/-- TAMP_RTC_SET (R344): the clock is set, and the old seconds are logged. -/
def execTampRtcSet (f : Func) (v : Word) (s : State) : Out :=
  .next (pfWrite s f (tampBase + 0x28) fun t => rtcSet t v)

/-- Bits of TAMP_TRIPPED cleared by a write (R10). -/
def trippedClear (t : State) (v same : Word) : State :=
  { t with aon := { t.aon with tripped := w1c t.aon.tripped (v.setWidth 28) (same.setWidth 28) } }

/-- TAMP_TRIPPED (R10, R346): a W1C write. -/
def execTampTripped (f : Func) (v : Word) (sameCycle : Word) (s : State) : Out :=
  .next (pfWrite s f (tampBase + 0x10) fun t => trippedClear t v sameCycle)

/-! ## The always-on clock (R344) -/

/-- 40 ns of the always-on clock: 32,768 ticks a second over 25,000,000 rounds. -/
def rtcStep (a : Aon) : Aon :=
  let acc := a.rtcAcc + 32768
  if acc < Config.roundsPerSecond then { a with rtcAcc := acc, now := a.now + 1 }
  else
    let fr := a.rtcFrac + 1
    { a with rtcAcc := acc - Config.roundsPerSecond, rtcFrac := fr, now := a.now + 1
             rtcSec := if fr = 0 then a.rtcSec + 1 else a.rtcSec }

/-- Filters that start afresh at the end of a round: those a commit or a clear names, and that of a source whose test runs
no further (R336, R340, R342). -/
def restartTurn (s : State) : State :=
  let done_ (i : Nat) : Bool := match s.aon.test with
    | some t => t.source == i && decide (s.round = t.n + t.window)
    | none => false
  let is := (List.range 28).filter fun i => bit s.aon.restart i || done_ i
  { s with aon := { s.aon with
    restart := 0, rearm := 0
    filters := is.foldl (fun m i => supd .reset m i fun f =>
      { f with hits := 0, misses := 0, trippd := f.trippd && !bit s.aon.rearm i && !done_ i }) s.aon.filters } }

/-- A cleared freeze is gone from this round on (R329). -/
def thawStep (s : State) : State :=
  match s.aon.thaw with
  | some r =>
    if r ≤ s.round then
      logEvent { s with aon := { s.aon with freeze := false, thaw := none }
                        dealer := { s.dealer with
                          frozen := false, thawAt := if s.dealer.frozen then s.round else s.dealer.thawAt } } 0x45 0 0 0
    else s
  | none => s

end Sys2Proof.Machine
end

