-- ==== Sys2Proof/Machine/Seats.lean ====
section
/-!
DEFINITION. Seats: states and context (R87-R92), doorbells (R99-R103), halts (R111, R112), bindings, interrupt
configuration and the end of a drain.
-/
namespace Sys2Proof.Machine

/-! ## Context access (R88) -/

/-- BAR0 offset of a seat's context register. -/
def seatOff (i reg : Nat) : Nat := 0x30000 + 64 * (i % 4096) + reg

/-- A function writes the context of the seats bound to it; otherwise the write is discarded with REG_ACCESS_ERR. -/
def seatWrite (s : State) (f : Func) (i reg : Nat) (act : State → State) : State :=
  barWrite s f (seatOff i reg) fun t => if boundTo t i f then act t else regErr t f (seatOff i reg)

/-- A seat changes state in this round (R90). -/
def nextState (s : State) (x : Seat) (st : SeatState) : Seat :=
  { x with prevSt := seatState s x, st := st, stFrom := s.round }

/-- A seat signals its entries: the message is sent, the count cleared and the timer stopped (R110). -/
def seatMsi (s : State) (i : Nat) : State :=
  let x := getSeat s i
  if x.irqEn.at_ s.round then
    sendMsi (setSeat s i { x with unsig := 0, oldest := none }) x.bind (x.irqVec.at_ s.round)
  else s

/-! ## Halts (R111, R112) -/

/-- A seat enters HALTED in this round. -/
def enterHalt (s : State) (i : Nat) (c : HaltCause) (idx : Option Nat) : State :=
  let s1 := modSeat s i fun x =>
    { x with
      st := .halted, prevSt := .halted, stFrom := s.round, haltAt := s.round, cause := c
      idxValid := idx.isSome, haltIdx := idx.getD 0 }
  raiseAll (seatMsi s1 i) 29

/-- A DMA_DATA halt for a descriptor, which is to complete with ECC_UNCORRECTABLE and this DETAIL. A seat that halted in
this round does not halt again, but the descriptor is a cause of its halt too; one that is not in RUN or DRAINING else
is not changed. -/
def dmaHalt (s : State) (i : Nat) (g : Flight) (d : BitVec 16) : State :=
  let st := seatState s (getSeat s i)
  let s1 := modFlight s i g.seq fun x => { x with dmaErr := some d }
  if st = .run ∨ st = .draining then enterHalt s1 i .dmaData (some g.sq)
  else if st = .halted ∧ (getSeat s i).haltAt = s.round then s1
  else s

/-- Number of a halt cause (HALT_INFO.CAUSE). -/
def HaltCause.code : HaltCause → Nat
  | .none => 0 | .dmaData => 1 | .sqDoorbell => 2 | .cqDoorbell => 3 | .forced => 4

/-! ## State changes (R90-R92) -/

/-- Suits a seat may be armed with (R90, R92). -/
def armSuitOk (x : Seat) : Bool :=
  (x.suit == 0 && isPf x.bind) || (decide (1 ≤ x.suit.toNat) && decide (x.suit.toNat ≤ 0xFFFD))

def ringLegal (x : Seat) : Bool :=
  decide (4 ≤ x.sqLog2.toNat) && decide (x.sqLog2.toNat ≤ 16) && decide (4 ≤ x.cqLog2.toNat) && decide (x.cqLog2.toNat ≤ 16)

/-- ARM written 1 in OFF. -/
def armSeat (s : State) (x : Seat) : Seat :=
  if ringLegal x && armSuitOk x && decide (s.power.phase ≠ 9) then
    nextState s { x with sqHead := 0, sqTail := 0, cqHead := 0, cqTail := 0, cqSeen := 0, phase := true, cfgErr := false } .armed
  else { x with cfgErr := true }

/-- FORCE_HALT by a physical function of the seat's port and link (R88). A virtual function's FORCE_HALT of a seat bound to
itself is discarded with REG_ACCESS_ERR: R88 lets it write that context, R111 names a physical function alone (DESIGN
CHOICE, log entry 134). -/
def mayForce (s : State) (f : Func) (i : Nat) : Bool := isPf f && decide (plKey f = plKey (getSeat s i).bind)

/-- The state in which a write finds the seat moves on by the first of its fields that matches a row (R90). An ENABLE of
the round of an accepted STANDBY request is discarded (R377, R398). -/
def seatAct (s : State) (i : Nat) (v : Word) : State :=
  let x := getSeat s i
  let st := seatState s x
  if bit v 31 then
    if st = .run ∨ st = .draining then enterHalt s i .forced none else s
  else if !bit v 0 && decide (st = .armed) then setSeat s i (nextState s x .off)
  else if bit v 0 && decide (st = .off) then setSeat s i (armSeat s x)
  else if bit v 2 && decide (st = .halted) then
    if x.flights.isEmpty then setSeat s i (nextState s x .armed) else regErr s x.bind (seatOff i 0x1C)
  else if bit v 1 then
    if st = .armed then
      if standbyHold s then regErr s x.bind (seatOff i 0x1C) else setSeat s i (nextState s x .run)
    else if st = .draining then setSeat s i { x with pend := true }
    else s
  else if st = .run then setSeat s i (nextState s x .draining)
  else if st = .draining then setSeat s i { x with pend := false }
  else s

/-- One move of the last round takes effect (R76, R90). -/
def seatMove (i : Nat) (s : State) (m : SeatMove) : State :=
  let x := getSeat s i
  match m with
  | .write v rows => if rows.contains (seatState s x) then seatAct s i v else s
  | .drained =>
    if seatState s x = .draining then
      setSeat s i { nextState s x (if x.pend then .run else .armed) with pend := false }
    else s

/-- The moves of the last round take effect in their order of arrival, each on the state the one before it left (R90;
DESIGN CHOICE for two writes of one round, log entry 133). -/
def ctrlTurn (s : State) (i : Nat) : State :=
  let x := getSeat s i
  x.ctrl.foldl (seatMove i) (setSeat s i { x with ctrl := [] })

/-- Every state of a seat. -/
def allStates : List SeatState := [.off, .armed, .run, .draining, .halted]

/-- One SEAT_CTRL write of this round that stands for the rows of these states: it takes effect in the next round (R90).
One without the rights of R88 is discarded with REG_ACCESS_ERR. -/
def seatCtrlRows (s : State) (f : Func) (i : Nat) (v : Word) (rows : List SeatState) : State :=
  if if bit v 31 then mayForce s f i else boundTo s i f then
    modSeat s i fun x => { x with ctrl := x.ctrl ++ [.write v rows] }
  else regErr s f (seatOff i 0x1C)

/-- One SEAT_CTRL write: the first field that matches a row for the seat's state acts. -/
def seatCtrl (s : State) (f : Func) (i : Nat) (v : Word) : State := seatCtrlRows s f i v allStates

/-- A SEAT_CTRL command that stands for one field: it acts in the states its row names. -/
def seatCtrlCmd (s : State) (f : Func) (i : Nat) (v : Word) (rows : List SeatState) : State :=
  barWrite s f (seatOff i 0x1C) fun t => seatCtrlRows t f i v rows

/-- ARM (R90): ARM written 1 in OFF. -/
def execArm (f : Func) (seat : Fin 8192) (s : State) : Out := .next (seatCtrlCmd s f seat.val 1 [.off])

/-- DISARM (R90): ARM written 0 in ARMED. -/
def execDisarm (f : Func) (seat : Fin 8192) (s : State) : Out := .next (seatCtrlCmd s f seat.val 0 [.armed])

/-- ENABLE (R90): ENABLE written 1 in ARMED or DRAINING, the write carrying the ARM bit the state reads. -/
def execEnable (f : Func) (seat : Fin 8192) (s : State) : Out := .next (seatCtrlCmd s f seat.val 3 [.armed, .draining])

/-- DRAIN (R90): ENABLE written 0 in RUN or DRAINING. -/
def execDrain (f : Func) (seat : Fin 8192) (s : State) : Out := .next (seatCtrlCmd s f seat.val 1 [.run, .draining])

/-- CLEAR_HALT (R90): CLEAR_HALT written 1 in HALTED. -/
def execClearHalt (f : Func) (seat : Fin 8192) (s : State) : Out := .next (seatCtrlCmd s f seat.val 4 [.halted])

/-- FORCE_HALT (R88, R111): the seat halts in the next round. -/
def execForceHalt (f : Func) (seat : Fin 8192) (s : State) : Out :=
  .next (barWrite s f (seatOff seat.val 0x1C) fun t => seatCtrl t f seat.val 0x80000000)

/-- DRAIN_END (R76, R90): a DRAINING seat with nothing in flight and no fetch outstanding leaves it in the first round after
this one. -/
def execDrainEnd (seat : Fin 8192) (s : State) : Out :=
  let x := getSeat s seat.val
  if seatState s x = .draining ∧ x.flights = [] ∧ x.fetches = [] then
    .next (setSeat s seat.val { x with ctrl := x.ctrl ++ [.drained] })
  else .next s

/-! ## Doorbells (R99-R103) -/

/-- A discarded doorbell (R100). -/
def discardDoorbell (s : State) (f : Func) : State :=
  raiseIrq { s with cnt := { s.cnt with dbDiscard := supd 0 s.cnt.dbDiscard (fkey f) fun c => satAdd c 1 } } (plKey f) 30 false

/-- Ring sizes. -/
def sqSize (x : Seat) : Nat := 2 ^ x.sqLog2.toNat
def cqSize (x : Seat) : Nat := 2 ^ x.cqLog2.toNat

/-- Distance from index a to index b around a ring of n entries. -/
def ringDist (n a b : Nat) : Nat := (b + n - a) % n

/-- A new SQ_TAIL is legal (R101). -/
def sqLegal (x : Seat) (n : Nat) : Bool :=
  let z := sqSize x
  decide (n < z) && decide (ringDist z x.sqHead x.sqTail + ringDist z x.sqTail n ≤ z - 1)

/-- A new CQ_HEAD is legal (R101). -/
def cqLegal (x : Seat) (m : Nat) : Bool :=
  let z := cqSize x
  decide (m < z) && decide (ringDist z x.cqHead m ≤ ringDist z x.cqHead x.cqTail)

/-- A doorbell accepted by R100: R101 takes it or halts the seat. -/
def ringDoorbell (s : State) (f : Func) (i v : Nat) : State :=
  let x := getSeat s i
  let st := seatState s x
  let badSq := decide (bits v 63 63 = 1) && !sqLegal x (bits v 15 0)
  let badCq := decide (bits v 62 62 = 1) && !cqLegal x (bits v 31 16)
  if badSq || badCq then
    if st = .armed ∨ st = .halted then discardDoorbell s f
    else enterHalt s i (if badSq then .sqDoorbell else .cqDoorbell) none
  else setSeat s i { x with
    sqTail := if bits v 63 63 = 1 then bits v 15 0 else x.sqTail
    cqHead := if bits v 62 62 = 1 then bits v 31 16 else x.cqHead }

/-- DOORBELL (R99-R103). -/
def execDoorbell (f : Func) (off : Nat) (data : Bytes) (s : State) : Out :=
  let i := off / 8
  let v := leNat data
  if !hostOk s f then .next s
  else if data.length ≠ 8 ∨ off % 8 ≠ 0 ∨ bits v 44 32 ≠ i ∨ bits v 61 45 ≠ 0 then .next (discardDoorbell s f)
  else if !boundTo s i f || decide (seatState s (getSeat s i) = .off) then .next (discardDoorbell s f)
  else .next (ringDoorbell s f i v)

/-! ## Bindings and interrupt configuration -/

/-- BAR0 offset of SEAT_BIND of a seat. -/
def bindOff (i : Nat) : Nat := 0x78000 + 4 * i

/-- A write of SEAT_BIND. -/
def seatBindWrite (s : State) (f : Func) (i : Nat) (v : Word) : State :=
  let x := getSeat s i
  if isPf f && decide (plKey f = plKey x.bind) && decide (seatState s x = .off) then
    setSeat s i { x with bind := funcOf (fld v 9 0) }
  else regErr s f (bindOff i)

/-- SEAT_BIND (R87): a physical function rebinds an OFF seat of its own port and link. -/
def execSeatBind (f : Func) (seat : Fin 8192) (v : Word) (s : State) : Out :=
  .next (barWrite s f (bindOff seat.val) fun t => seatBindWrite t f seat.val v)

/-- IRQ_CFG of a seat written. -/
def irqCfgWrite (t : State) (i : Nat) (v : Word) : State :=
  let c : BitVec 8 := BitVec.ofNat 8 (fld v 7 0)
  modSeat t i fun x =>
    { x with
      irqEn := x.irqEn.put t.round (t.round + 1) (bit v 31)
      irqVec := x.irqVec.put t.round (t.round + 1) (BitVec.ofNat 11 (fld v 26 16))
      irqCount := x.irqCount.put t.round (t.round + 1) (if c = 0 then 1 else c) }

/-- IRQ_CFG (R89, R110): in force from the next round; a COUNT of 0 stores 1. -/
def execIrqCfg (f : Func) (seat : Fin 8192) (v : Word) (s : State) : Out :=
  .next (seatWrite s f seat.val 0x2C fun t => irqCfgWrite t seat.val v)

end Sys2Proof.Machine
end

