-- ==== Sys2Proof/Machine/Ring.lean ====
section
/-!
DEFINITION. The ring engine: descriptor and fragment-list fetches (R96-R98, R103, R104), staging (R109), completions,
shadows and coalescing (R105-R107, R110), and the host link (R81-R86).
-/
namespace Sys2Proof.Machine

/-! ## Read requests (R85) -/

/-- Read requests for n bytes at a host address, none longer than Max Read Request Size (R81, R85). -/
def readReqs (s : State) (f : Func) (k : ReadKind) (a : BitVec 64) (n : Nat) : List ReadReq :=
  let u := 64 * Config.maxReadUnits (fkey f)
  (List.range (ceilDiv n u)).map fun j =>
    { kind := k, func := f, addr := a + BitVec.ofNat 64 (u * j), len := min u (n - u * j), issued := s.round }

/-- Read requests for the host pieces of a list. -/
def spanReqs (s : State) (f : Func) (k : ReadKind) (l : List Span) : List ReadReq :=
  (l.filter fun p => !p.kitty).flatMap fun p => readReqs s f k p.addr p.len

/-- The reads that have not returned, once those of one kind have. -/
def readsLeft (g : Flight) (k : ReadKind) : List ReadReq := g.reads.filter fun r => decide (r.kind ≠ k)

/-! ## Descriptor fetch (R103, R104) -/

/-- Entries asked for by fetches that have not returned and that no halt has made void (R104). -/
def fetchedAhead (x : Seat) : Nat := ((x.fetches.filter fun f => !f.stale).map (·.count)).sum

/-- Entries one fetch reads (R104). -/
def fetchCount (x : Seat) : Nat :=
  let z := sqSize x
  let start := (x.sqHead + fetchedAhead x) % z
  let unfetched := ringDist z x.sqHead x.sqTail - fetchedAhead x
  let places := 32 - x.flights.length - fetchedAhead x
  min (min unfetched places) (min (z - start) (Config.maxReadUnits (fkey x.bind)))

/-- DESCRIPTOR_FETCH (R103, R104): a read of consecutive entries for a seat in RUN; the prefetch places take the
seat's suit (R300). -/
def execDescriptorFetch (seat : Fin 8192) (s : State) : Out :=
  let x := getSeat s seat.val
  let n := fetchCount x
  if running s && decide (seatState s x = .run) && decide (0 < n) then
    let start := (x.sqHead + fetchedAhead x) % sqSize x
    let ft : Fetch := { start := start, count := n, addr := x.sqBase + BitVec.ofNat 64 (64 * start)
                        func := x.bind, issued := s.round, stale := false }
    let s1 := setSeat s seat.val { x with fetches := x.fetches ++ [ft] }
    .next ((List.range n).foldl (fun t j => tagGranules t (granule (prefetchAddr seat.val (start + j))) 1 x.suit) s1)
  else .next s

/-- A RANDOM descriptor's own rules (R241, R242). -/
def randomFails (d : Desc) : List Fail :=
  if d.op = 0x60 then
    need (d.mode == 0 && d.ctrl == 0 && d.trunc == 0 && d.auxLen == 0 && allZero d.inl && d.key0 == 0 && d.key1 == 0
        && d.keySlots == 0 && !d.srcFrag && !d.srcKitty && decide (1 ≤ d.l) && decide (d.l ≤ 1024)) .paramInvalid
      ++ need (decide (d.l ≤ d.cap)) .bounds
  else []

/-- A descriptor that enters flight. -/
def newFlight (s : State) (sq : Nat) (d : Desc) : Flight where
  seq := s.dealer.seq
  sq := sq
  desc := d
  fetched := s.round
  checked := true
  decided := none
  srcList := none
  dstList := none
  listsAsked := false
  listPool := []
  locked := false
  lockFrom := s.round + 1
  nextSeg := 0
  running := false
  dealFrom := s.round
  resvIn := []
  resvOut := []
  reserved := false
  input := none
  expected := none
  heldFrom := none
  heldRec := false
  expired := none
  waitFrom := none
  granted := none
  blocks := []
  role := none
  record := none
  outPos := 0
  denied := false
  begun := none
  undo := none
  dmaErr := none
  reads := []

/-- The reads of a ceremony's source, which house firmware stages without a reservation (R85, R223). -/
def ceremonyReads (s : State) (i : Nat) (g : Flight) : List ReadReq :=
  if isCeremony g.desc.op then spanReqs s (getSeat s i).bind .payload (srcSpans g) else []

/-- A descriptor's flight behind the seat's others, its entry past SQ_HEAD and its bytes in its prefetch place (R95,
R300). -/
def placeDesc (s : State) (i sq : Nat) (g : Flight) (b : Bytes) : State :=
  let x := getSeat s i
  store { setSeat s i { x with flights := x.flights ++ [g], sqHead := (sq + 1) % sqSize x } with
    dealer := { s.dealer with seq := s.dealer.seq + 1 } } (prefetchAddr i sq) (padTo 64 b)

/-- The ring engine's read of a prefetch place under the seat's suit (R303). -/
def prefetchSuit (s : State) (i sq : Nat) : List Fail :=
  need (suitOk s (prefetchAddr i sq) 64 (getSeat s i).suit false false) .suitFault 0x0C04

/-- The ring engine's checks of a descriptor (R95). A NOP waits for its own command. -/
def descFails (s : State) (i sq : Nat) (d : Desc) : List Fail :=
  prefetchSuit s i sq ++ formatFails s ((getSeat s i).suit == 0) d ++ randomFails d

/-- What those checks make of a descriptor in flight (R95, R303). -/
def judgeDesc (s : State) (i sq : Nat) (g : Flight) (suit : List Fail) (reads : List ReadReq) : Option Fail → State
  | some f => decide_ (countSuit s suit (granules (prefetchAddr i sq) 64)) i g.seq f.1 f.2 s.round false
  | none => if listsIn g then modFlight s i g.seq fun x => { x with reads := reads } else s

/-- One descriptor taken into flight, held in its prefetch place, with the ring engine's checks made (R95). -/
def takeDesc (s : State) (i sq : Nat) (b : Bytes) : State :=
  let g := newFlight s sq (parseDesc b)
  judgeDesc (placeDesc s i sq g b) i sq g (prefetchSuit s i sq) (ceremonyReads s i g) (worst (descFails s i sq g.desc))

/-- An index shadow (R105). -/
def shadowWrite (s : State) (i : Nat) : State :=
  let x := getSeat s i
  if x.shadowEn then
    pushWrite s { func := x.bind, addr := x.shadow
                  data := natLe 2 x.sqHead ++ natLe 2 x.cqTail ++ natLe 4 s.round
                  kind := .shadow, issued := s.round }
  else s

/-- DETAIL of a read that failed (R106). -/
def readDetail (poisoned : Nat) : HostData → Option (BitVec 16)
  | .data _ => none
  | .poisoned => some (BitVec.ofNat 16 poisoned)
  | .refused => some 4
  | .timeout => some 5

/-- A fetch that returned data. -/
def takeFetch (s : State) (i : Nat) (ft : Fetch) (b : Bytes) : State :=
  shadowWrite ((List.range ft.count).foldl (fun t j => takeDesc t i (ft.start + j) (padTo 64 (slice b (64 * j) 64))) s) i

/-- A fetch whose read failed brings in its first entry as the cause of a halt (R104, R111). -/
def badFetch (s : State) (i : Nat) (ft : Fetch) (d : BitVec 16) : State :=
  let g := newFlight s ft.start (parseDesc [])
  let x := getSeat s i
  let s1 := setSeat s i { x with flights := x.flights ++ [g], sqHead := (ft.start + 1) % sqSize x }
  shadowWrite (dmaHalt { s1 with dealer := { s1.dealer with seq := s1.dealer.seq + 1 } } i g d) i

/-- A fetch that returns now is taken: the seat is in RUN or DRAINING, or halted in this round (R91, R104). -/
def takesFetch (s : State) (i : Nat) : Bool :=
  let x := getSeat s i
  let st := seatState s x
  decide (st = .run) || decide (st = .draining) || (decide (st = .halted) && decide (x.haltAt = s.round))

/-- FETCH_RETURN (R95, R104): the oldest fetch of a seat returns. One that a halt has made void is discarded. -/
def execFetchReturn (seat : Fin 8192) (d : HostData) (s : State) : Out :=
  let x := getSeat s seat.val
  match x.fetches with
  | [] => .next s
  | ft :: rest =>
    if !running s then .next s
    else
      let s1 := setSeat s seat.val { x with fetches := rest }
      if ft.stale || !takesFetch s seat.val || ft.start != x.sqHead then .next s1
      else match d with
        | .data b => .next (takeFetch s1 seat.val ft b)
        | .poisoned | .refused | .timeout => .next (badFetch s1 seat.val ft ((readDetail 1 d).getD 0))

/-! ## What waits for the staging pool (R56, R98, R109, R171, R183) -/

/-- Tricks of the pool that a descriptor's lists take. -/
def listTricks (d : Desc) : Nat :=
  (if d.srcFrag then ceilDiv d.srcFrags.toNat 4 else 0) + (if d.dstFrag then ceilDiv d.dstFrags.toNat 4 else 0)

/-- A seat whose work goes on: RUN or DRAINING (R91). -/
def seatLive (s : State) (i : Nat) : Bool :=
  let st := seatState s (getSeat s i)
  decide (st = .run) || decide (st = .draining)

/-- The pieces of segment j's input: whole for engine descriptors (R183). -/
def segSpans (g : Flight) (j : Nat) : List Span :=
  if opClass g.desc.op = .engine then srcSpans g
  else if g.desc.op = 0x54 ∨ g.desc.op = 0x58 then []
  else cutSpans (srcSpans g) (if (opClass g.desc.op).msg then 4096 * j else 0) (segBytes g.desc j)

def spanBytes (l : List Span) : Nat := (l.map (·.len)).sum

/-- Host bytes among pieces. -/
def hostBytes (l : List Span) : Nat := spanBytes (l.filter fun p => !p.kitty)

/-- Host bytes of the expected value of a compare (R171). -/
def expectBytes (g : Flight) : Nat :=
  if g.desc.result = 2 then hostBytes (cutSpans (dstSpans g) 0 (resultLen g.desc)) else 0

/-- Input tricks that segment j reserves: none where its input lies in the kitty; one more for an expected value in
host memory (R109, R171). -/
def needIn (g : Flight) (j : Nat) : Nat :=
  let sp := segSpans g j
  (if sp.all (·.kitty) then 0 else ceilDiv (spanBytes sp) 64)
    + (if decide (j + 1 = segCount g.desc) && decide (0 < expectBytes g) then 1 else 0)

/-- Output tricks that segment j reserves: one for each trick it carries, and as many as its output takes where a tag makes
it longer; none where the destination lies in the kitty or the descriptor has none (R109, R171). A key wrap and an engine
reserve what their output takes (R109's bound of 129 tricks, R183; DEDUCED, log entry 74). -/
def needOut (g : Flight) (j : Nat) : Nat :=
  let n := ceilDiv (segOut g.desc ((g.role).getD (msgRole g.desc.msg)) j) 64
  if g.desc.result = 2 ∨ (dstSpans g).all (·.kitty) = true then 0
  else match opClass g.desc.op with
    | .keyWrap | .engine => n
    | _ => max (segTricks g.desc j) n

/-- A class whose segments reserve staging. -/
def stages (d : Desc) : Bool := (opClass d.op).lane

/-- Every remaining segment of a descriptor has reserved, or reserves nothing. -/
def allReserved (g : Flight) : Bool :=
  !stages g.desc || decide (segCount g.desc ≤ g.nextSeg) || (g.reserved && decide (segCount g.desc ≤ g.nextSeg + 1))
    || ((List.range (segCount g.desc)).all fun j => decide (j < g.nextSeg) || (needIn g j == 0 && needOut g j == 0))

/-- An earlier descriptor of the seat does not keep g from reserving: it is decided or about to be, all of it has
reserved, or it is held for a hand that g does not name (R57, R109). -/
def lets (g o : Flight) : Bool :=
  o.decided.isSome || o.expired.isSome || allReserved o
    || (o.heldFrom.isSome && !(handsNamed o.desc).any (handsNamed g.desc).contains)

/-- The order and the limit of its seat let a descriptor reserve n more tricks (R57, R109). -/
def seatLets (s : State) (i : Nat) (g : Flight) (n : Nat) : Bool :=
  let lim := (getSeat s i).stageLim
  ((getSeat s i).flights.all fun o => decide (g.seq ≤ o.seq) || lets g o)
    && (decide (seatTricks s i + n ≤ lim) || (decide (lim < n) && seatTricks s i == 0))

/-- A descriptor waits to have its lists fetched (R97). -/
def wantsLists (g : Flight) : Bool := g.decided.isNone && !g.listsAsked && (g.desc.srcFrag || g.desc.dstFrag)

/-- A descriptor's next segment waits to reserve (R109). -/
def wantsPlaces (g : Flight) : Bool :=
  g.decided.isNone && stages g.desc && listsIn g && !g.reserved && decide (g.nextSeg < segCount g.desc)

/-- Tricks of the pool that a flight waits for (R98, R109). -/
def poolNeed (s : State) (i : Nat) (g : Flight) : Option Nat :=
  if wantsLists g then some (listTricks g.desc)
  else if wantsPlaces g then
    let n := needIn g g.nextSeg + needOut g g.nextSeg
    if decide (0 < n) && seatLets s i g n then some n else none
  else none

/-- The pool's turn is seat i's for n tricks: what a seat ahead of it in the rotation of R56 waits for, if the pool can hold
it, still fits after it. A seat ahead may be served more than once in a round (DESIGN CHOICE, log entry 18). -/
def poolTurn (s : State) (i n : Nat) : Bool :=
  ((rotSeats s).takeWhile fun j => decide (j ≠ i)).all fun j =>
    !seatLive s j || match (getSeat s j).flights.findSome? (poolNeed s j) with
      | some m => decide (poolFree s < m) || decide (m + n ≤ poolFree s)
      | none => true

/-- The next segment of a descriptor may reserve now (R56, R57, R98, R109). -/
def mayReserve (s : State) (i : Nat) (g : Flight) (n : Nat) : Bool :=
  n == 0 || (seatLets s i g n && decide (n ≤ poolFree s) && poolTurn s i n)

/-! ## Places of the staging pool (R43, R300) -/

/-- Places of the pool tagged with a suit (R300). -/
def tagPlaces (s : State) (ps : List Nat) (suit : BitVec 16) : State :=
  ps.foldl (fun t p => tagGranules t (granule (stageAddr p)) 1 suit) s

/-- Bytes put into places of the pool, 64 to a place. -/
def stagePut (s : State) (ps : List Nat) (b : Bytes) : State :=
  (ps.zipIdx).foldl (fun t p => store t (stageAddr p.1) (padTo 64 (slice b (64 * p.2) 64))) s

/-- Error keys of the words of places of the pool. -/
def placeWords (ps : List Nat) : List Nat := ps.flatMap fun p => wkeys (stageAddr p) 64

/-! ## Fragment lists (R96-R98) -/

/-- The read requests of a descriptor's lists (R85, R97). -/
def listReqs (s : State) (f : Func) (d : Desc) : List ReadReq :=
  (if d.srcFrag then readReqs s f .srcList d.src (16 * d.srcFrags.toNat) else [])
    ++ (if d.dstFrag then readReqs s f .dstList d.dst (16 * d.dstFrags.toNat) else [])

/-- FRAGMENT_LIST_FETCH (R85, R97, R98): both lists of a descriptor are asked for once the pool can hold them and it is the
seat's turn. -/
def execFragmentListFetch (seat : Fin 8192) (sq : Nat) (s : State) : Out :=
  match flightBySq s seat.val sq wantsLists with
  | some g =>
    let n := listTricks g.desc
    if running s && seatLive s seat.val && decide (n ≤ poolFree s) && poolTurn s seat.val n then
      .next (modFlight (tagPlaces s (poolTake s n) (getSeat s seat.val).suit) seat.val g.seq fun x =>
        { x with
          listsAsked := true, listPool := poolTake s n
          reads := x.reads ++ listReqs s (getSeat s seat.val).bind g.desc })
    else .next s
  | none => .next s

/-- A list entry that breaks R96 or R121. -/
def fragBad (f : Frag) : Bool :=
  decide (f.len = 0) || decide (fld f.flags 31 1 ≠ 0) || (bit f.flags 0 && kittyBad f.addr)

/-- Index of the first entry whose lengths up to it exceed n. -/
def crossIndex : List Frag → Nat → Nat → Option Nat
  | [], _, _ => none
  | f :: t, i, n => if n < f.len then some i else crossIndex t (i + 1) (n - f.len)

def fragSum (l : List Frag) : Nat := (l.map (·.len)).sum

/-- What the checks on returned lists find (R97, R121). -/
def listFails (d : Desc) (src dst : Option (List Frag)) : List Fail :=
  (match src with
    | some l =>
      (match crossIndex l 0 d.l with
        | some i => [(.bounds, BitVec.ofNat 16 i)]
        | none => need (decide (fragSum l = d.l)) .bounds 0xFFFF)
        ++ need (!l.any fun f => bit f.flags 0 && kittyPast f.addr f.len) .bounds 0x2000
        ++ need (!l.any fragBad) .paramInvalid
    | none => [])
  ++ (match dst with
    | some l =>
      need (decide (d.cap ≤ fragSum l)) .bounds 0xFFFD
        ++ need (!l.any fun f => bit f.flags 0 && kittyPast f.addr f.len) .bounds 0x2000
        ++ need (!l.any fragBad) .paramInvalid
    | none => [])

/-- A list that has returned, and the checks once every list of the descriptor is there. A seat that halted before this
round decides nothing here: its descriptors are decided in round e (R112). -/
def takeList (s : State) (i : Nat) (g : Flight) (dst : Bool) (b : Bytes) : State :=
  let n := if dst then g.desc.dstFrags.toNat else g.desc.srcFrags.toNat
  let l := parseFrags (padTo (16 * n) b)
  let g1 := if dst then { g with dstList := some l } else { g with srcList := some l }
  let k := if g.desc.srcFrag then ceilDiv g.desc.srcFrags.toNat 4 else 0
  let s1 := modFlight (stagePut s (if dst then g.listPool.drop k else g.listPool.take k) (padTo (16 * n) b)) i g.seq fun x =>
    { x with
      srcList := g1.srcList, dstList := g1.dstList, lockFrom := s.round + 1, dealFrom := s.round
      reads := readsLeft g (if dst then .dstList else .srcList) ++ (if listsIn g1 then ceremonyReads s i g1 else []) }
  if listsIn g1 && !haltPast s i then
    match worst (listFails g.desc g1.srcList g1.dstList) with
    | some f => decide_ s1 i g.seq f.1 f.2 s.round false
    | none => s1
  else s1

/-- FRAGMENT_LIST_RETURN (R97, R111): a list asked for returns; an error on its read halts the seat. -/
def execFragmentListReturn (seat : Fin 8192) (sq : Nat) (dst : Bool) (d : HostData) (s : State) : Out :=
  match flightBySq s seat.val sq fun g =>
      g.decided.isNone && g.listsAsked
        && (if dst then g.desc.dstFrag && g.dstList.isNone else g.desc.srcFrag && g.srcList.isNone) with
  | some g =>
    if !running s then .next s
    else match d with
      | .data b => .next (takeList s seat.val g dst b)
      | .poisoned | .refused | .timeout =>
        let s1 := modFlight s seat.val g.seq fun x => { x with reads := readsLeft g (if dst then .dstList else .srcList) }
        .next (dmaHalt s1 seat.val g ((readDetail 2 d).getD 0))
  | none => .next s

/-! ## Staging (R43, R109, R171, R183) -/

/-- The read requests that stage segment j: its host input, and the host bytes of the expected value with the last segment
of a compare (R85, R109, R171). -/
def stageReqs (s : State) (f : Func) (g : Flight) (j : Nat) : List ReadReq :=
  spanReqs s f .payload (segSpans g j)
    ++ (if decide (j + 1 = segCount g.desc) && decide (0 < expectBytes g) then
        spanReqs s f .expected (cutSpans (dstSpans g) 0 (resultLen g.desc)) else [])

/-- A segment's places reserved, and its input asked for. -/
def reserveSeg (s : State) (i : Nat) (g : Flight) (a b : Nat) : State :=
  let ps := poolTake s (a + b)
  modFlight (tagPlaces s ps (getSeat s i).suit) i g.seq fun x =>
    { x with
      resvIn := ps.take a, resvOut := ps.drop a, reserved := true
      reads := x.reads ++ stageReqs s (getSeat s i).bind g g.nextSeg }

/-- STAGING_RESERVATION (R109, R183): the next segment of a descriptor reserves its tricks when the pool and the seat's
limit allow; an engine reservation above the limit completes with BOUNDS. -/
def execStagingReservation (seat : Fin 8192) (sq : Nat) (s : State) : Out :=
  match flightBySq s seat.val sq wantsPlaces with
  | some g =>
    let a := needIn g g.nextSeg
    let b := needOut g g.nextSeg
    if !(running s && seatLive s seat.val) then .next s
    else if opClass g.desc.op = .engine ∧ (getSeat s seat.val).stageLim < a + b then
      .next (decide_ s seat.val g.seq .bounds 0xFFFE s.round false)
    else if mayReserve s seat.val g (a + b) then .next (reserveSeg s seat.val g a b)
    else .next s
  | none => .next s

/-- The segment that closes a compare also stages the expected value. -/
def wantsExpected (g : Flight) : Bool :=
  g.desc.result == 2 && decide (g.nextSeg + 1 = segCount g.desc) && decide (0 < expectBytes g)

/-- PAYLOAD_READ_RETURN (R43, R111, R171): a segment's host input is staged, or the expected value in its own trick, the last
of the reservation; an error halts the seat. -/
def execPayloadReadReturn (seat : Fin 8192) (sq : Nat) (expected : Bool) (d : HostData) (s : State) : Out :=
  match flightBySq s seat.val sq fun g =>
      g.decided.isNone && (g.reserved || isCeremony g.desc.op)
        && (if expected then wantsExpected g && g.expected.isNone
            else decide (0 < hostBytes (segSpans g g.nextSeg)) && g.input.isNone) with
  | some g =>
    if !running s then .next s
    else match d with
      | .data b =>
        if expected then
          let v := padTo (expectBytes g) b
          .next (modFlight (stagePut s (g.resvIn.drop (g.resvIn.length - 1)) v) seat.val g.seq
            fun x => { x with expected := some v, dealFrom := s.round, reads := readsLeft g .expected })
        else
          let v := padTo (hostBytes (segSpans g g.nextSeg)) b
          .next (modFlight (stagePut s g.resvIn v) seat.val g.seq fun x =>
            { x with input := some v, dealFrom := s.round, reads := readsLeft g .payload })
      | .poisoned | .refused | .timeout =>
        let s1 := modFlight s seat.val g.seq fun x => { x with reads := readsLeft g (if expected then .expected else .payload) }
        .next (dmaHalt s1 seat.val g ((readDetail 3 d).getD 0))
  | none => .next s

/-! ## Completions (R105-R107, R110) -/

/-- The decided descriptor whose entry is next: earliest decided, then earliest fetched. -/
def nextDone : List Flight → Option Flight
  | [] => none
  | g :: t =>
    match g.decided, nextDone t with
    | none, o => o
    | some _, none => some g
    | some d, some h =>
      match h.decided with
      | some e => if d.round < e.round ∨ (d.round = e.round ∧ g.seq < h.seq) then some g else some h
      | none => some g

/-- The completion ring has room, counting a doorbell from the round after it. -/
def cqRoom (x : Seat) : Bool := decide ((x.cqTail + 1) % cqSize x ≠ x.cqSeen)

/-- The 16 bytes of a completion entry (R106). -/
def entryBytes (x : Seat) (g : Flight) (d : Decided) : Bytes :=
  natLe 2 g.sq ++ natLe 2 x.sqHead ++ natLe 1 d.status.code ++ natLe 1 (b2n x.phase + 2 * b2n d.house)
    ++ natLe 2 d.detail.toNat ++ natLe 8 d.round

/-- Counters of completions (DEAL_HAND_BUSY_CNT, RNG_UNAVAIL_CNT). -/
def countDone (s : State) (st : Status) : State :=
  if st = .handBusy then { s with dealer := { s.dealer with busyCnt := satAdd s.dealer.busyCnt 1 } }
  else if st = .rngUnavailable then { s with rng := { s.rng with unavail := satAdd s.rng.unavail 1 } }
  else s

/-- A seat's message is due by its count, by IRQ_NOW, or by its timer (R110). -/
def countDue (s : State) (x : Seat) : Bool :=
  decide (0 < x.unsig) && decide ((x.irqCount.at_ s.round).toNat ≤ x.unsig)

def timerDue (s : State) (x : Seat) : Bool :=
  match x.oldest with
  | some o => decide (0 < x.coalTime.at_ s.round) && decide (o + x.coalTime.at_ s.round ≤ s.round)
  | none => false

/-- One completion entry written, with its shadow and its message. The unsignalled count and the timer stand while EN is 0
and over disarm and ARM (DESIGN CHOICE, log entry 137). -/
def writeEntry (s : State) (i : Nat) (g : Flight) (d : Decided) : State :=
  let x := getSeat s i
  let t := (x.cqTail + 1) % cqSize x
  let en := x.irqEn.at_ s.round
  let x1 := { x with
    flights := x.flights.filter (fun h => h.seq != g.seq)
    cqTail := t, phase := if t = 0 then !x.phase else x.phase
    unsig := if en then x.unsig + 1 else x.unsig
    oldest := if en && x.oldest.isNone then some s.round else x.oldest }
  let s1 := pushWrite (setSeat (countDone s d.status) i x1)
    { func := x.bind, addr := x.cqBase + BitVec.ofNat 64 (16 * x.cqTail), data := entryBytes x g d
      kind := .completion, issued := s.round }
  let s2 := shadowWrite s1 i
  if en && (countDue s x1 || g.desc.irqNow) then seatMsi s2 i else s2

/-- Output of a descriptor that a lane has produced and not yet drained (R86). -/
def undrained (s : State) (i seq : Nat) : Bool :=
  s.lanes.any fun e => e.2.binds.any fun b => decide (b.seat = i) && b.seq == seq && decide (b.drained < b.out.length)

/-- Round of a status that is settled and whose command has not yet come: a hold past its limit, or a segment that ends its
descriptor in its final round (R63, R107). -/
def settledAt (s : State) (i : Nat) (g : Flight) : Option Round :=
  g.expired.orElse fun _ =>
    ((s.lanes.flatMap (·.2.binds)).find? fun b =>
      decide (b.seat = i) && b.seq == g.seq && !b.posted && !b.handOff
        && (b.refused.isSome || decide (b.seg + 1 = segCount b.desc)) && decide (b.final < s.round)).map (·.final)

/-- Entry of g, decided in round r, does not overtake that of another descriptor of its seat (R107). -/
def inTurn (s : State) (i : Nat) (g : Flight) (r : Round) : Bool :=
  (getSeat s i).flights.all fun h =>
    h.decided.isSome || match settledAt s i h with
      | some q => decide (r < q) || (decide (r = q) && decide (g.seq < h.seq))
      | none => true

/-- COMPLETION_WRITE (R86, R107): the next entry of a seat, in a round after its status was decided, once its slots are
released, its output is issued and the completion ring has room. -/
def execCompletionWrite (seat : Fin 8192) (s : State) : Out :=
  let x := getSeat s seat.val
  match nextDone x.flights with
  | some g =>
    match g.decided with
    | some d =>
      if running s && decide (d.round < s.round) && released s g && cqRoom x && !undrained s seat.val g.seq
          && inTurn s seat.val g d.round then .next (writeEntry s seat.val g d)
      else .next s
    | none => .next s
  | none => .next s

/-- COAL_TIMER_EXPIRY (R110): COAL_TIME rounds after the oldest unsignalled entry the message is sent. The count holds while a
STANDBY request is pending (R377). -/
def execCoalTimerExpiry (seat : Fin 8192) (s : State) : Out :=
  let x := getSeat s seat.val
  if running s && !standbyHold s && x.irqEn.at_ s.round && timerDue s x then .next (seatMsi s seat.val) else .next s

/-- A write that lowered COUNT to or below the pending count (R110). -/
def seatIrqRound (s : State) (i : Nat) : State :=
  let x := getSeat s i
  if x.irqEn.at_ s.round && countDue s x then seatMsi s i else s

/-! ## The host link (R81-R86, R110) -/

/-- GT/s of a rate. -/
def rateGt : LinkRate → Nat
  | .gt64 => 64 | .gt32 => 32 | .gt16 => 16 | .gt8 => 8

/-- Lanes of a port's links: one x16, or two x8 (R81). -/
def linkLanes (s : State) (p : Nat) : Nat := if bifurcated s p then 8 else 16

/-- Bytes one link carries in a round (R32, R82): free where it has trained below its full rate or width. -/
def linkRoom (s : State) (p k : Nat) : Nat :=
  let full := if bifurcated s p then Config.linkBytes else Config.portBytes
  match sget none s.link.mode (2 * p + k) with
  | some m => if m.rate = .gt64 ∧ m.lanes = linkLanes s p then full else Config.slowLink (rateGt m.rate) m.flit m.lanes
  | none => full

/-- Bytes of a write on the link. -/
def writeSize (w : LinkWrite) : Nat := w.data.length

/-- LINK_WRITE_DEPART (R86): the oldest write of a port and link leaves it when the link has room in this round. -/
def execLinkWriteDepart (port link : Fin 2) (s : State) : Out :=
  let k := 2 * port.val + link.val
  match sget [] s.link.queue k with
  | w :: rest =>
    let u := sget 0 s.link.used k
    if decide (u + writeSize w ≤ linkRoom s port.val link.val) then
      .next { s with link := { s.link with
        queue := sput [] s.link.queue k rest
        used := sput 0 s.link.used k (u + writeSize w)
        left := sput none s.link.left k (some w) } }
    else .next s
  | [] => .next s

/-- VECTOR_UNMASK (R19, R110): the host fills in an entry of a function's MSI-X table and unmasks it, and a message that the
entry holds pending is sent. -/
def execVectorUnmask (f : Func) (entry : VectorEntry) (s : State) : Out :=
  let k := 2048 * fkey f + entry.vector.toNat
  if hostOk s f && decide (entry.vector.toNat < msixSize s f) then
    let s1 := { s with link := { s.link with
      unmasked := sput false s.link.unmasked k true
      msix := sput { addr := 0, data := 0 } s.link.msix k { addr := entry.addr, data := entry.data } } }
    if sget false s1.link.msiPend k then
      .next (sendMsi { s1 with link := { s1.link with msiPend := sput false s1.link.msiPend k false } } f entry.vector)
    else .next s1
  else .next s

/-- What a function's configuration space says (R81, R82, R384). -/
def configSpace (s : State) (f : Func) : ConfigSpace where
  maxPayload := 512
  msix := true
  msixSize := msixSize s f
  sriov := isPf f
  vfs := if isPf f then (dcrByte s (12 + plKey f)).toNat else 0
  ats := false
  pasid := false
  peer := false
  ide := false
  rest := Config.configRest (fkey f)

/-- CONFIGURATION_REQUEST (R81-R83): a retry until the device is ready; after that what the function's configuration space
says. -/
def execConfigurationRequest (f : Func) (s : State) : Out :=
  let up := decide (8 ≤ s.power.phase) && (decide (s.power.st = .run) || decide (s.power.st = .standby))
  .next { s with answer := if up then .config (configSpace s f) else .retry }

/-- LINK_EVENT (R81, R113): a speed, width or retrain event on a port and link, which then runs as it has trained. -/
def execLinkEvent (port : Fin 2) (up : LinkUp) (s : State) : Out :=
  let f : Func := { port := port, link := up.link, vf := 0 }
  .next (if hostOk s f then
      raiseIrq { s with link := { s.link with mode := sput none s.link.mode (plKey f) (some up.mode) } } (plKey f) 20 false
    else s)

/-- A block of bytes of a descriptor's output written at its destination from byte off on: host pieces as payload
writes, kitty pieces into the slot. The words a kitty piece covers only in part must be sound (R318); true with the
state when one was not. -/
def putOut (s : State) (i : Nat) (g : Flight) (off : Nat) (b : Bytes) : State × Bool :=
  let x := getSeat s i
  let r := (cutSpans (dstSpans g) off b.length).foldl (fun (acc : State × Nat × Bool) p =>
    let t := acc.1
    let piece := slice b acc.2.1 p.len
    if p.kitty then
      let st := kittyStart p.addr
      let ws := (List.range ((st + p.len + 7) / 8 - st / 8)).map fun j => st / 8 + j
      ws.foldl (fun (a : State × Nat × Bool) w =>
        let lo := max st (8 * w)
        let hi := min (st + p.len) (8 * w + 8)
        let ks := wkeys (kittyAddr (8 * w)) 8
        if decide (hi - lo < 8) && anyBad a.1 ks then (touchWords a.1 ks, a.2.1, true)
        else (store a.1 (kittyAddr lo) (slice piece (lo - st) (hi - lo)), a.2.1, a.2.2)) (t, acc.2.1 + p.len, acc.2.2)
    else (pushWrite t { func := x.bind, addr := p.addr, data := piece, kind := .payload, issued := t.round },
          acc.2.1 + p.len, acc.2.2)) (s, 0, false)
  (r.1, r.2.2)

/-- Output in pieces of one trick, as the device drains it. -/
def putTricks (s : State) (i : Nat) (g : Flight) (off : Nat) (b : Bytes) : State × Bool :=
  ((chunks 64 b).zipIdx).foldl (fun acc p =>
    let r := putOut acc.1 i g (off + 64 * p.2) p.1
    (r.1, acc.2 || r.2)) (s, false)

end Sys2Proof.Machine
end

