-- ==== Sys2Proof/Machine/Checks.lean ====
section
/-!
DEFINITION. The checks on a descriptor in the round of its key load (R143): the parameter rules of the cipher opcodes
(R145-R149), the digest opcodes (R158-R162, R169-R171), the key-wrap services (R216, R219) and the engine opcodes
(R182-R186, R188), the fit of its keys (R146, R161, R212), and the spans a segment touches (R303, R310, R318).
-/
namespace Sys2Proof.Machine

/-! ## Fields -/

/-- Every byte of INLINE from k on is zero. -/
def inlClear (d : Desc) (k : Nat) : Bool := allZero (d.inl.drop k)

/-- INLINE holds a length in byte 0, up to 15, that many bytes, and zeros. -/
def inlString (d : Desc) : Bool := decide ((byteAt d.inl 0).toNat ≤ 15) && inlClear d (1 + (byteAt d.inl 0).toNat)

/-- The string of an INLINE of that form. -/
def inlText (d : Desc) : Bytes := slice d.inl 1 (byteAt d.inl 0).toNat

/-- MSG is ONE or START. -/
def msgOpens (d : Desc) : Bool := d.msg == 0 || d.msg == 1
/-- MSG is ONE or FINISH. -/
def msgCloses (d : Desc) : Bool := d.msg == 0 || d.msg == 3

/-- The DST fields and the DST bits of XFER are zero. -/
def dstZero (d : Desc) : Bool := d.dst == 0 && d.dstCap == 0 && d.dstFrags == 0 && !d.dstFrag && !d.dstKitty

/-- The rules on a result's destination (R162, R169-R171). -/
def resultParam (d : Desc) : Bool :=
  d.key1Used == (d.result == 1) &&
  (if !msgCloses d then d.result == 0 && dstZero d
   else if d.result = 1 then dstZero d
   else if d.result = 2 then !d.dstFrag && decide (d.cap = resultLen d)
   else true)

/-! ## Cipher opcodes (R145-R149) -/

/-- ALG is listed for the opcode (R145, R146). -/
def algOk (d : Desc) : Bool :=
  if d.op = 0x01 ∨ d.op = 0x02 ∨ d.op = 0x08 then decide (d.alg ≤ 2) || d.alg == 4
  else if d.op = 0x04 then d.alg == 0 || d.alg == 2
  else decide (d.alg ≤ 2)

/-- MODE of a cipher opcode (R145). -/
def cipherMode (d : Desc) : Bool :=
  algOk d && decide (fld d.mode 5 3 = 0) && (if d.op = 0x03 then decide (fld d.mode 7 6 ≠ 3) else decide (fld d.mode 7 6 = 0))

/-- Block size of ALG. -/
def descBlk (d : Desc) : Nat := if d.alg = 4 then 8 else 16

/-- Nonce length of CCM. -/
def ccmN (d : Desc) : Nat := (byteAt d.inl 0).toNat

/-- Bytes after the associated data, and whether they hold the tag of a decryption (R147). -/
def aeadFits (d : Desc) : Bool :=
  let a := 64 * ceilDiv d.aux 64
  decide (a ≤ d.l) && (!(d.decrypt && msgCloses d) || decide (resultLen d ≤ d.l - a))

/-- The LEN rule of an opcode (R146, R147, R149). -/
def cipherLen (d : Desc) : Bool :=
  (msgCloses d || decide (d.l % 64 = 0)) &&
  (if d.op = 0x01 ∨ d.op = 0x02 then decide (d.l % descBlk d = 0)
   else if d.op = 0x04 then decide (16 ≤ d.l ∧ d.l ≤ 16777216)
   else if d.op = 0x0C then aeadFits d
   else if d.op = 0x0D then aeadFits d && decide (aeadPayload d < 256 ^ (15 - ccmN d))
   else if d.op = 0x10 then
     if d.decrypt then decide (16 ≤ d.l ∧ d.l ≤ 4104 ∧ d.l % 8 = 0) else decide (1 ≤ d.l ∧ d.l ≤ 4096)
   else true)

/-- The AUX_LEN rule. -/
def cipherAux (d : Desc) : Bool :=
  if d.op = 0x0D then true else if d.op = 0x0C then msgOpens d || d.aux == 0 else d.aux == 0

/-- The INLINE rule. -/
def cipherInline (d : Desc) : Bool :=
  if d.op = 0x02 then inlClear d (if msgOpens d then descBlk d else 0)
  else if d.op = 0x03 then msgOpens d || inlClear d 0
  else if d.op = 0x04 then true
  else if d.op = 0x09 ∨ d.op = 0x0C then inlClear d (if msgOpens d then 12 else 0)
  else if d.op = 0x0D then decide (7 ≤ ccmN d ∧ ccmN d ≤ 13) && inlClear d (1 + ccmN d)
  else inlClear d 0

/-- The TRUNC rule. -/
def cipherTrunc (d : Desc) : Bool :=
  let t := d.trunc.toNat
  d.trunc == 0 || (msgCloses d &&
    (if d.op = 0x08 then decide (4 ≤ t) && decide (t ≤ descBlk d)
     else if d.op = 0x09 ∨ d.op = 0x0C then t == 4 || t == 8 || (decide (12 ≤ t) && decide (t ≤ 16))
     else if d.op = 0x0D then decide (4 ≤ t) && decide (t ≤ 16) && decide (t % 2 = 0)
     else false))

/-- The rules on KEY1 and RESULT. -/
def cipherKeys (d : Desc) : Bool :=
  if d.op = 0x04 then d.key1Used && (d.key0 != d.key1 || d.slot0 != d.slot1)
  else if d.op = 0x08 ∨ d.op = 0x09 then !d.decrypt && resultParam d
  else !d.key1Used

/-- A cipher descriptor within its parameter rules; m0 the payload bytes of earlier descriptors of its message. -/
def cipherParam (d : Desc) (m0 : Nat) : Bool :=
  cipherMode d && cipherLen d && cipherAux d && cipherInline d && cipherTrunc d && cipherKeys d
    && (d.op != 0x0C || (decide (m0 + aeadPayload d ≤ 2 ^ 36 - 32) && decide (d.aux ≤ 2 ^ 61 - 1)))
    && (d.op != 0x09 || decide (m0 + d.l ≤ 2 ^ 61 - 1))

/-! ## Digest opcodes (R158-R164) -/

/-- HALG is allowed for the opcode (R158). -/
def halgOk (d : Desc) : Bool :=
  let h := d.modeLo
  if d.op = 0x20 then decide (h ≤ 4) || (decide (8 ≤ h) && decide (h ≤ 13))
  else if d.op = 0x21 then decide (h ≤ 4) || (decide (8 ≤ h) && decide (h ≤ 11))
  else h == 12 || h == 13

/-- TRUNC of a digest opcode (R159). -/
def digestTrunc (d : Desc) : Bool :=
  let t := d.trunc.toNat
  d.trunc == 0 || (msgCloses d && decide (4 ≤ t) && decide (t ≤ if 12 ≤ d.modeLo then 64 else halgF d.modeLo))

/-- A digest descriptor within its parameter rules; m0 the bytes absorbed by earlier descriptors of its message. -/
def digestParam (d : Desc) (m0 : Nat) : Bool :=
  decide (d.modeHi = 0) && halgOk d && !d.decrypt && digestTrunc d && d.aux == 0
    && (msgCloses d || decide (d.l % 64 = 0))
    && (if d.op = 0x22 ∧ msgOpens d = true then inlString d else inlClear d 0)
    && (d.op != 0x20 || d.slot0 == 0)
    && resultParam d && decide (m0 + d.l ≤ 2 ^ 61 - 1)

/-! ## Key-wrap services (R216, R219) -/

/-- A key-wrap service within its parameter rules. -/
def wrapParam (d : Desc) : Bool :=
  d.trunc == 0 && d.aux == 0 && d.mode == 0 && inlClear d 0 && !d.decrypt && d.key1Used == (d.op != 0x58) &&
  (if d.op = 0x54 ∨ d.op = 0x58 then
     d.src == 0 && d.srcFrags == 0 && !d.srcFrag && !d.srcKitty && decide (9 ≤ d.l) && decide (d.l ≤ 4096)
   else
     dstZero d && decide ((if d.op = 0x55 then 24 else 32) ≤ d.l) && decide (d.l ≤ 4104) && decide (d.l % 8 = 0))

/-! ## Engine opcodes (R182-R186) -/

/-- MODE of an engine opcode (R184). -/
def engineMode (d : Desc) : Bool :=
  let hi := d.modeHi
  let lo := d.modeLo
  if d.op ≤ 0x37 then
    decide (1 ≤ hi) && decide (hi ≤ 5) && (if d.op ≤ 0x31 then lo == 0 else decide (1 ≤ lo) && decide (lo ≤ 3))
      && (!(decide (0x32 ≤ d.op) && decide (d.op ≤ 0x35)) || decide (2 * hashBytes d + 2 ≤ rsaBytes d))
  else if d.op ≤ 0x39 then hi == 0 && decide (1 ≤ lo) && decide (lo ≤ 4)
  else if d.op = 0x3A then
    (hi == 0 && decide (1 ≤ lo) && decide (lo ≤ 5)) || (hi == 1 && (lo == 4 || lo == 5))
  else if d.op ≤ 0x3C then hi == 0 && decide (1 ≤ lo) && decide (lo ≤ 3)
  else if d.op = 0x3D then hi == 0 && decide (1 ≤ lo) && decide (lo ≤ 5)
  else if d.op ≤ 0x3F then hi == 0 && (lo == 4 || lo == 5)
  else (hi == 0 || (d.op == 0x44 && hi == 1)) && decide (1 ≤ lo) && decide (lo ≤ 3)

/-- RESULT of an engine opcode (R186). -/
def engineResult (d : Desc) : Bool :=
  if d.op = 0x33 then d.result == 0 || d.result == 1
  else if [0x38, 0x39, 0x3A, 0x3D, 0x40, 0x41, 0x42, 0x43].contains d.op then d.result == 1
  else d.result == 0

/-- The field marked v, with its range (R186). -/
def engineVar (d : Desc) : Bool :=
  if d.op = 0x32 then decide (d.aux ≤ rsaBytes d - 2 * hashBytes d - 2)
  else if d.op = 0x3B ∨ d.op = 0x3C then decide (28 ≤ d.aux) && decide (d.aux ≤ 64)
  else if d.op = 0x3E ∨ d.op = 0x3F ∨ d.op = 0x44 ∨ d.op = 0x45 then decide (d.aux ≤ 8192)
  else d.aux == 0

/-- The sum of the lengths of the SRC fields (R186). -/
def engineLen (d : Desc) : Nat :=
  let k := rsaBytes d
  let h := hashBytes d
  let m := d.modeLo
  if d.op = 0x30 then 2 * k + 4
  else if d.op = 0x31 ∨ d.op = 0x33 then k
  else if d.op = 0x32 then k + 4 + d.aux
  else if d.op = 0x34 ∨ d.op = 0x36 then h
  else if d.op = 0x35 ∨ d.op = 0x37 then 2 * k + 4 + h
  else if d.op = 0x39 then groupBytes m
  else if d.op = 0x3B ∨ d.op = 0x3E ∨ d.op = 0x44 then d.aux
  else if d.op = 0x3C then 1 + 4 * fieldBytes m + d.aux
  else if d.op = 0x3D then curvePub m false
  else if d.op = 0x3F then (if m = 4 then 96 else 171) + d.aux
  else if d.op = 0x41 then kemEk m
  else if d.op = 0x42 then kemCt m
  else if d.op = 0x45 then dsaPk m + dsaSig m + d.aux
  else 0

/-- An engine opcode whose INLINE may hold a context string. -/
def engineCtx (d : Desc) : Bool :=
  ((d.op == 0x3E || d.op == 0x3F) && d.modeLo == 5) || d.op == 0x44 || d.op == 0x45

/-- An engine descriptor within its parameter rules. -/
def engineParam (d : Desc) : Bool :=
  d.trunc == 0 && !d.decrypt && engineResult d && d.key1Used == (d.result == 1) && decide (d.l ≤ 16384)
    && engineMode d && engineVar d && decide (d.l = engineLen d)
    && (if engineCtx d then inlString d else inlClear d 0)
    && (!(d.result == 1 && decide (engineOut d = 0)) || dstZero d)

/-! ## Keys (R146, R161, R188, R212) -/

/-- The usage bit for a direction. -/
def useDir (d : Desc) : Nat := if d.decrypt then uDecrypt else uEncrypt
/-- The usage bit for a MAC. -/
def useMac (d : Desc) : Nat := if d.result = 2 then uMacVerify else uMacGen

/-- The key fits a symmetric ALG; a reserved ALG is a parameter fault alone (DEDUCED, log entry 19). -/
def fitsAlg (d : Desc) (k : KeyObj) : Bool := !algOk d || algFits d.alg k

/-- The private key an engine opcode and MODE require, and its usage (R188, R208, R212). -/
def fitsEngine (d : Desc) (k : KeyObj) : Bool :=
  let p := fld k.param 3 0 == d.modeLo
  if !engineMode d then true
  else if d.op = 0x31 then k.type == 6 && fld k.param 7 4 == d.modeHi && bit k.usage uRaw
  else if d.op = 0x33 then
    k.type == 6 && fld k.param 7 4 == d.modeHi && bit k.usage (if d.result = 1 then uUnwrap else uDecrypt)
  else if d.op = 0x34 ∨ d.op = 0x36 then k.type == 6 && fld k.param 7 4 == d.modeHi && bit k.usage uSign
  else if d.op = 0x39 then k.type == 7 && p && bit k.usage uAgree
  else if d.op = 0x3B then k.type == 8 && p && bit k.usage uSign
  else if d.op = 0x3D then k.type == 8 && p && bit k.usage uAgree
  else if d.op = 0x3E then k.type == 9 && p && bit k.usage uSign
  else if d.op = 0x42 then k.type == 10 && p && bit k.usage uAgree
  else if d.op = 0x44 then k.type == 11 && p && bit k.usage uSign
  else true

/-- The key of KEY0 fits the descriptor. -/
def fits0 (d : Desc) (k : KeyObj) : Bool :=
  match opClass d.op with
  | .cipher => fitsAlg d k && bit k.usage (useDir d)
  | .aead => fitsAlg d k && bit k.usage (useDir d)
  | .cipherMac => fitsAlg d k && bit k.usage (useMac d)
  | .keyedDigest =>
    (if d.op = 0x21 then k.type == 3 && (!halgOk d || decide (16 ≤ k.mat.length ∧ k.mat.length ≤ halgB d.modeLo))
     else k.type == 4 && decide (16 ≤ k.mat.length ∧ k.mat.length ≤ 64)) && bit k.usage (useMac d)
  | .keyWrap =>
    if d.op = 0x10 then fitsAlg d k && bit k.usage (if d.decrypt then uUnwrap else uWrap)
    else if d.op = 0x54 then k.type == 1 && bit k.usage uWrap
    else if d.op = 0x55 then k.type == 1 && bit k.usage uUnwrap
    else bit k.usage uArchive
  | .engine => fitsEngine d k
  | .applet | .digest | .nop | .service | .random | .ceremony | .reserved => true

/-- The key of KEY1 fits the descriptor: the tweak key of XTS, the source of KEY_WRAP. -/
def fits1 (d : Desc) (k : KeyObj) : Bool :=
  if d.op = 0x04 then fitsAlg d k && bit k.usage (useDir d)
  else if d.op = 0x54 then bit k.usage uExport
  else true

/-- The checks of R210 on the keys a descriptor loads and on a HASH anchor (R162). -/
def keyFails (s : State) (seat : Nat) (d : Desc) : List Fail :=
  let own := policyDetail d 0x0806
  (if loadsKey0 d then
     handFails s seat d.key0 0x0C01 own ++ slotFails s d.key0 d.slot0 (fits0 d) (policyDetail d 0x0804) (policyDetail d 0x0805)
   else if d.op = 0x20 ∧ d.msg ≠ 0 then handFails s seat d.key0 0x0C01 0
   else [])
  ++ (if loadsKey1 d then
     handFails s seat d.key1 0x0C01 own ++ slotFails s d.key1 d.slot1 (fits1 d) (policyDetail d 0x0804) (policyDetail d 0x0805)
   else [])

/-- LEN of KEY_WRAP and SLOT_SAVE equals the declared plaintext length (R216, R219). -/
def wrapLenOk (s : State) (d : Desc) : Bool :=
  if d.op = 0x54 then
    match slotObj (getHand s (handleHand d.key1)) d.slot1 with
    | some k => decide (d.l = 8 + k.mat.length)
    | none => true
  else if d.op = 0x58 then
    match slotObj (getHand s (handleHand d.key0)) d.slot0 with
    | some k => decide (d.l = 16 + k.mat.length)
    | none => true
  else true

/-- The parameter rules of a lane or engine descriptor. -/
def paramOk (s : State) (d : Desc) (m0 : Nat) : Bool :=
  match opClass d.op with
  | .cipher | .cipherMac | .aead => cipherParam d m0
  | .digest | .keyedDigest => digestParam d m0
  | .keyWrap => if d.op = 0x10 then cipherParam d m0 else wrapParam d && wrapLenOk s d
  | .engine => engineParam d
  | .applet | .nop | .service | .random | .ceremony | .reserved => true

/-- The descriptor's output has a stated length: a reserved ALG, HALG, SIZE or CURVE gives none (DEDUCED, log
entry 19). -/
def outStated (d : Desc) : Bool :=
  match opClass d.op with
  | .digest | .keyedDigest => d.trunc != 0 || halgOk d
  | .cipherMac => d.trunc != 0 || algOk d
  | .engine => engineMode d
  | _ => true

/-- The BOUNDS rules (R148, R155, R169, R186, R216). -/
def boundsOk (s : State) (d : Desc) (r : Role) : Bool :=
  match opClass d.op with
  | .applet => decide (d.l ≤ 64 * appletMax (appletEntry s (d.op - 0x80)))
  | .engine => !outStated d || decide (engineOut d ≤ d.cap)
  | _ => !outStated d || decide (laneOut d r ≤ d.cap)

/-! ## Spans (R301, R303, R310, R318) -/

/-- Pieces of a segment's output in the destination. -/
def outSpans (g : Flight) (off n : Nat) : List Span := cutSpans (dstSpans g) off n

/-- Kitty pieces as addresses and lengths, one for each granule they touch. -/
def kittyCells (l : List Span) : List (Nat × Nat) :=
  (l.filter (·.kitty)).flatMap fun p =>
    if p.len = 0 then [] else
    let st := kittyStart p.addr
    (List.range ((st + p.len - 1) / 64 + 1 - st / 64)).map fun j =>
      let lo := max st (64 * (st / 64 + j))
      let hi := min (st + p.len) (64 * (st / 64 + j) + 64)
      (kittyAddr lo, hi - lo)

/-- Suit refusals among the kitty granules and staging places of a segment. -/
def spanFails (s : State) (suit : BitVec 16) (inp out : List Span) (places : List Nat) : List Fail :=
  need ((kittyCells inp).all fun c => suitOk s c.1 c.2 suit false false) .suitFault 0x0C03
    ++ need ((kittyCells out).all fun c => suitOk s c.1 c.2 suit true false) .suitFault 0x0C03
    ++ need (places.all fun p => suitOk s (stageAddr p) 64 suit false false) .suitFault 0x0C04

/-- The suit check on a migration record. -/
def recFails (s : State) (suit : BitVec 16) (r : Option Nat) : List Fail :=
  match r with
  | some i => need (suitOk s (recAddr i) 512 suit false false) .suitFault 0x0C02
  | none => []

/-- Error keys of the words a load reads: staged input, kitty input, the record of a continuing segment. -/
def readKeys (inp : List Span) (places : List Nat) (r : Option Nat) : List Nat :=
  (kittyCells inp).flatMap (fun c => wkeys c.1 c.2)
    ++ placeWords places
    ++ (match r with | some i => wkeys (recAddr i) 512 | none => [])

/-- Granules of the key store a descriptor's key loads read. -/
def keyGrans (s : State) (d : Desc) (target : Bool) : List Nat :=
  let h0 := handleHand d.key0
  let h1 := handleHand d.key1
  (if loadsKey0 d then loadGranules s h0 [d.slot0] else if d.op = 0x20 ∧ d.msg ≠ 0 then [h0] else [])
    ++ (if loadsKey1 d then loadGranules s h1 [d.slot1] else [])
    ++ (if target && hasTarget d then [h1] else [])

/-- Error keys of the key store words a descriptor's key loads read. -/
def keyWords (s : State) (d : Desc) (target : Bool) : List Nat := (keyGrans s d target).flatMap storeWords

/-- Granules of the kitty pieces and staging places a transfer touches. -/
def placeGrans (l : List Span) (places : List Nat) : List Nat :=
  (kittyCells l).map (fun c => granule c.1) ++ places.map fun p => granule (stageAddr p)

/-- Granules of the span a segment is checked over (R310). -/
def spanGrans (s : State) (d : Desc) (inp out : List Span) (places : List Nat) (r : Option Nat) (target : Bool) : List Nat :=
  ((keyGrans s d target).map storeTag ++ placeGrans (inp ++ out) places
    ++ (match r with | some i => granules (recAddr i) 512 | none => [])).eraseDups

/-- The check on the second KEYREF as the target of a HAND result or an unwrap: every such value is a derived one
(R170, R188, R206). -/
def targetCheck (s : State) (seat seq : Nat) (d : Desc) : List Fail :=
  if hasTarget d then targetFails s seat d.key1 d.slot1 true (policyDetail d 0x0806) (some seq) else []

end Sys2Proof.Machine
end

