-- ==== Sys2Proof/Machine/Des.lean ====
section
/-!
DEFINITION. TDES (SP 800-67): the block cipher of the TDES core (R126, R146, R208). The manual names the
algorithm; its tables are the standard's (PRESUMED, log entry 14).
-/
namespace Sys2Proof.Machine

/-- Bits of a permutation table, counted from 1 at the top of w bits, gathered from the top. -/
def desPerm (w : Nat) (t : List Nat) (v : Nat) : Nat :=
  t.foldl (fun acc i => 2 * acc + v / 2 ^ (w - i) % 2) 0

/-- IP: rows of the standard run down by eights from these columns. -/
def desIp : List Nat := [58, 60, 62, 64, 57, 59, 61, 63].flatMap fun c => (List.range 8).map fun i => c - 8 * i

/-- The inverse of IP. -/
def desFp : List Nat := (List.range 64).map fun i => desIp.idxOf (i + 1) + 1

/-- E: six bits around each nibble. -/
def desE : List Nat := (List.range 8).flatMap fun r => (List.range 6).map fun c => (4 * r + c + 31) % 32 + 1

def desP : List Nat :=
  [16, 7, 20, 21, 29, 12, 28, 17, 1, 15, 23, 26, 5, 18, 31, 10]
    ++ [2, 8, 24, 14, 32, 27, 3, 9, 19, 13, 30, 6, 22, 11, 4, 25]

/-- PC-1: the two halves of the key without parity bits. -/
def desPc1 : List Nat :=
  [57, 49, 41, 33, 25, 17, 9, 1, 58, 50, 42, 34, 26, 18, 10, 2, 59, 51, 43, 35, 27, 19, 11, 3, 60, 52, 44, 36]
    ++ [63, 55, 47, 39, 31, 23, 15, 7, 62, 54, 46, 38, 30, 22, 14, 6, 61, 53, 45, 37, 29, 21, 13, 5, 28, 20, 12, 4]

def desPc2 : List Nat :=
  [14, 17, 11, 24, 1, 5, 3, 28, 15, 6, 21, 10, 23, 19, 12, 4, 26, 8, 16, 7, 27, 20, 13, 2]
    ++ [41, 52, 31, 37, 47, 55, 30, 40, 51, 45, 33, 48, 44, 49, 39, 56, 34, 53, 46, 42, 50, 36, 29, 32]

/-- The S-boxes, 64 hexadecimal digits each, row by row. -/
def desS : List Nat :=
  [0xE4D12FB83A6C59070F74E2D1A6CB953841E8D62BFC973A50FC8249175B3EA06D,
   0xF18E6B34972DC05A3D47F28EC01A69B50E7BA4D158C6932FD8A13F42B67C05E9,
   0xA09E63F51DC7B428D709346A285ECBF1D6498F30B12C5AE71AD069874FE3B52C,
   0x7DE3069A1285BC4FD8B56F03472C1AE9A690CB7DF13E52843F06A1D8945BC72E,
   0x2C417AB6853FD0E9EB2C47D150FA3986421BAD78F9C5630EB8C71E2D6F09A453,
   0xC1AF92680D34E75BAF427C9561DE0B389EF528C3704A1DB6432C95FABE17608D,
   0x4B2EF08D3C975A61D0B7491AE35C2F8614BDC37EAF6805926BD814A7950FE23C,
   0xD2846FB1A93E50C71FD8A374C56B0E927B419CE206ADF35821E74A8DFC90356B]

/-- S-box n of six bits: the outer two name the row. -/
def desSbox (n v : Nat) : Nat :=
  let i := 16 * (2 * (v / 32) + v % 2) + v / 2 % 16
  desS.getD n 0 / 16 ^ (63 - i) % 16

/-- The round function. -/
def desF (r k : Nat) : Nat :=
  let x := Nat.xor (desPerm 32 desE r) k
  desPerm 32 desP ((List.range 8).foldl (fun acc i => 16 * acc + desSbox i (x / 64 ^ (7 - i) % 64)) 0)

/-- A half key rotated left. -/
def rot28 (n v : Nat) : Nat := (v * 2 ^ n + v / 2 ^ (28 - n)) % 2 ^ 28

/-- Total rotation of the half keys in each of the 16 rounds. -/
def desShifts : List Nat := [1, 2, 4, 6, 8, 10, 12, 14, 15, 17, 19, 21, 23, 25, 27, 28]

/-- The 16 round keys. -/
def desKeys (key : Nat) : List Nat :=
  let cd := desPerm 64 desPc1 key
  desShifts.map fun n =>
    let n := n % 28
    desPerm 56 desPc2 (2 ^ 28 * rot28 n (cd / 2 ^ 28) + rot28 n (cd % 2 ^ 28))

/-- DES under round keys in the order given. -/
def desBlock (ks : List Nat) (b : Nat) : Nat :=
  let v := desPerm 64 desIp b
  let lr := ks.foldl (fun (p : Nat × Nat) k => (p.2, Nat.xor p.1 (desF p.2 k))) (v / 2 ^ 32, v % 2 ^ 32)
  desPerm 64 desFp (2 ^ 32 * lr.2 + lr.1)

/-- TDES key parts of 16 or 24 bytes: K3 = K1 for 16 (R208). -/
def tdesParts (key : Bytes) : Nat × Nat × Nat :=
  let a := beNat (slice key 0 8)
  let b := beNat (slice key 8 8)
  (a, b, if key.length = 16 then a else beNat (slice key 16 8))

/-- TDES encryption of one block of 8 bytes. -/
def tdesEnc (key b : Bytes) : Bytes :=
  let p := tdesParts key
  natBe 8 (desBlock (desKeys p.2.2) (desBlock (desKeys p.2.1).reverse (desBlock (desKeys p.1) (beNat b))))

/-- TDES decryption of one block of 8 bytes. -/
def tdesDec (key b : Bytes) : Bytes :=
  let p := tdesParts key
  natBe 8 (desBlock (desKeys p.1).reverse (desBlock (desKeys p.2.1) (desBlock (desKeys p.2.2).reverse (beNat b))))

/-- Single-key TDES: K1 = K2 or K2 = K3 (R208). -/
def tdesSingle (key : Bytes) : Bool :=
  let p := tdesParts key
  p.1 == p.2.1 || p.2.1 == p.2.2

end Sys2Proof.Machine
end

