-- ==== Sys2Proof/Machine/Modes.lean ====
section
/-!
DEFINITION. The modes of operation of R146 to R149 over byte strings: ECB, CBC, CTR (SP 800-38A), XTS (SP 800-38E),
CMAC (SP 800-38B), GCM and GMAC (SP 800-38D), CCM (SP 800-38C) and the padded key wrap (SP 800-38F). Each works
on a piece of a message and hands its chain on. The modes are the standards' (PRESUMED, log entry 14).
-/
namespace Sys2Proof.Machine

/-- Block size of an ALG: 4 names TDES (R145). -/
def blkSize (alg : Nat) : Nat := if alg = 4 then 8 else 16

/-- One block encrypted under an ALG. -/
def encB (alg : Nat) (key b : Bytes) : Bytes := if alg = 4 then tdesEnc key b else aesEnc key b

/-- One block decrypted under an ALG. -/
def decB (alg : Nat) (key b : Bytes) : Bytes := if alg = 4 then tdesDec key b else aesDec key b

/-- ECB over whole blocks. -/
def ecbCrypt (alg : Nat) (dec : Bool) (key data : Bytes) : Bytes :=
  (chunks (blkSize alg) data).flatMap fun b => if dec then decB alg key b else encB alg key b

/-- CBC encryption of blocks; answers output and chain. -/
def cbcEnc (alg : Nat) (key : Bytes) : List Bytes → Bytes → Bytes × Bytes
  | [], c => ([], c)
  | b :: t, c =>
    let o := encB alg key (xorBytes b c)
    let r := cbcEnc alg key t o
    (o ++ r.1, r.2)

/-- CBC decryption of blocks; answers output and chain. -/
def cbcDec (alg : Nat) (key : Bytes) : List Bytes → Bytes → Bytes × Bytes
  | [], c => ([], c)
  | b :: t, c =>
    let r := cbcDec alg key t b
    (xorBytes (decB alg key b) c ++ r.1, r.2)

/-- A counter block advanced in its low w bits, taken big-endian (R145). -/
def ctrNext (w : Nat) (c : Bytes) : Bytes :=
  let v := beNat c
  natBe 16 (v / 2 ^ w * 2 ^ w + (v + 1) % 2 ^ w)

/-- Counter mode over blocks, the last perhaps short; answers output and the next counter. -/
def ctrBlocks (w : Nat) (key : Bytes) : List Bytes → Bytes → Bytes × Bytes
  | [], c => ([], c)
  | b :: t, c =>
    let r := ctrBlocks w key t (ctrNext w c)
    (xorBytes b (aesEnc key c) ++ r.1, r.2)

def ctrCrypt (w : Nat) (key c data : Bytes) : Bytes × Bytes := ctrBlocks w key (chunks 16 data) c

/-- One XTS block under a tweak value. -/
def xtsBlock (dec : Bool) (key tw b : Bytes) : Bytes :=
  xorBytes (if dec then aesDec key (xorBytes b tw) else aesEnc key (xorBytes b tw)) tw

/-- XTS over blocks; a short block steals from the one before it, which the list then holds last but one. -/
def xtsBlocks (dec : Bool) (key : Bytes) : List Bytes → Bytes → Bytes × Bytes
  | [], tw => ([], tw)
  | [b], tw => (xtsBlock dec key tw b, doubleLe tw)
  | b :: b2 :: t, tw =>
    if b2.length < 16 then
      let t2 := doubleLe tw
      let c := xtsBlock dec key (if dec then t2 else tw) b
      let last := xtsBlock dec key (if dec then tw else t2) (b2 ++ c.drop b2.length)
      (last ++ c.take b2.length, doubleLe t2)
    else
      let r := xtsBlocks dec key (b2 :: t) (doubleLe tw)
      (xtsBlock dec key tw b ++ r.1, r.2)

/-- The CBC-MAC chain over whole blocks. -/
def macBlocks (alg : Nat) (key : Bytes) (c : Bytes) (bs : List Bytes) : Bytes :=
  bs.foldl (fun x b => encB alg key (xorBytes b x)) c

/-- CMAC absorbs data and keeps the last block, whole or not, pending; answers chain and pending bytes. -/
def cmacAbsorb (alg : Nat) (key c pend data : Bytes) : Bytes × Bytes :=
  let n := blkSize alg
  let all := pend ++ data
  let keep := if all.length = 0 then 0 else (all.length - 1) % n + 1
  let k := all.length - keep
  (macBlocks alg key c (chunks n (all.take k)), all.drop k)

/-- The CMAC of the chain and the pending last block. -/
def cmacFinal (alg : Nat) (key c pend : Bytes) : Bytes :=
  let n := blkSize alg
  let k1 := doubleBe (encB alg key (List.replicate n 0))
  let last := if pend.length = n then xorBytes pend k1
    else xorBytes (padTo n (pend ++ [0x80])) (doubleBe k1)
  encB alg key (xorBytes last c)

/-- The GCM counter before the payload: J0 for a 96-bit IV (R149). -/
def gcmJ0 (iv : Bytes) : Bytes := padTo 12 iv ++ [0, 0, 0, 1]

/-- The GCM tag over an accumulator and the lengths in bytes of the associated data and the payload. -/
def gcmTag (key h acc j0 : Bytes) (a p : Nat) : Bytes :=
  xorBytes (ghash h acc (natBe 8 (8 * a) ++ natBe 8 (8 * p))) (aesEnc key j0)

/-- B0 of CCM: A associated bytes, P payload bytes, a T-byte tag, and the nonce (R149). -/
def ccmB0 (a p t : Nat) (nonce : Bytes) : Bytes :=
  let q := 15 - nonce.length
  BitVec.ofNat 8 ((if a = 0 then 0 else 64) + 8 * ((t - 2) / 2) + (q - 1)) :: (nonce ++ natBe q p)

/-- Counter block i of CCM. -/
def ccmCtr (nonce : Bytes) (i : Nat) : Bytes :=
  let q := 15 - nonce.length
  BitVec.ofNat 8 (q - 1) :: (nonce ++ natBe q i)

/-- The CBC-MAC chain over data whose last block is filled with zeros. -/
def ccmMac (key c data : Bytes) : Bytes := macBlocks 1 key c ((chunks 16 data).map (padTo 16))

/-- One pass of the wrapping function W: A and the semiblocks R, t the step number before it. -/
def wrapPass (key : Bytes) : Nat → Bytes → List Bytes → Bytes × List Bytes
  | _, a, [] => (a, [])
  | t, a, r :: rs =>
    let b := aesEnc key (a ++ r)
    let a' := natBe 8 (Nat.xor (beNat (b.take 8)) (t + 1))
    let rest := wrapPass key (t + 1) a' rs
    (rest.1, b.drop 8 :: rest.2)

/-- n passes of W. -/
def wrapPasses (key : Bytes) : Nat → Nat → Bytes → List Bytes → Bytes × List Bytes
  | 0, _, a, rs => (a, rs)
  | n + 1, t, a, rs =>
    let p := wrapPass key t a rs
    wrapPasses key n (t + rs.length) p.1 p.2

/-- One pass of the inverse of W over the semiblocks in reverse order, t the number of its first step. -/
def unwrapPass (key : Bytes) : Nat → Bytes → List Bytes → Bytes × List Bytes
  | _, a, [] => (a, [])
  | t, a, r :: rs =>
    let b := aesDec key (natBe 8 (Nat.xor (beNat a) t) ++ r)
    let rest := unwrapPass key (t - 1) (b.take 8) rs
    (rest.1, b.drop 8 :: rest.2)

/-- n passes of the inverse of W over reversed semiblocks. -/
def unwrapPasses (key : Bytes) : Nat → Nat → Bytes → List Bytes → Bytes × List Bytes
  | 0, _, a, rs => (a, rs)
  | n + 1, t, a, rs =>
    let p := unwrapPass key t a rs
    unwrapPasses key n (t - rs.length) p.1 p.2

/-- The integrity semiblock of KWP for n bytes of key data. -/
def kwpIcv (n : Nat) : Bytes := [0xA6, 0x59, 0x59, 0xA6] ++ natBe 4 n

/-- KWP wrap (R149): 8⌈n ÷ 8⌉ + 8 bytes. -/
def kwpWrap (key data : Bytes) : Bytes :=
  let p := padTo (8 * ceilDiv data.length 8) data
  if p.length = 8 then aesEnc key (kwpIcv data.length ++ p)
  else
    let r := wrapPasses key 6 0 (kwpIcv data.length) (chunks 8 p)
    r.1 ++ r.2.flatten

/-- KWP unwrap: the 8s bytes recovered, and the key-data length when the integrity and padding checks pass. -/
def kwpUnwrap (key data : Bytes) : Bytes × Option Nat :=
  let s := data.length / 8 - 1
  let r : Bytes × Bytes :=
    if s = 1 then
      let b := aesDec key data
      (b.take 8, b.drop 8)
    else
      let x := unwrapPasses key 6 (6 * s) (data.take 8) (chunks 8 (data.drop 8)).reverse
      (x.1, x.2.reverse.flatten)
  let n := beNat (r.1.drop 4)
  let ok := r.1.take 4 == [0xA6, 0x59, 0x59, 0xA6] && decide (8 * (s - 1) < n ∧ n ≤ 8 * s)
    && allZero (r.2.drop n)
  (r.2, if ok then some n else none)

end Sys2Proof.Machine
end

