-- ==== Sys2Proof/Machine/Cipher.lean ====
section
/-!
DEFINITION. What one segment of each lane opcode computes (R145-R149, R158-R162, R169-R174, R219, R220): from the
state a message carries, the keys and the segment's input, to the state it leaves, its output and its outcome.
-/
namespace Sys2Proof.Machine

/-- What a segment works on. -/
structure SegCtx where
  d     : Desc
  seg   : Nat
  /-- the first segment of a descriptor that opens its message -/
  opens : Bool
  /-- the last segment of a descriptor that closes its message -/
  closes : Bool
  key0  : Bytes
  key1  : Bytes
  st    : CipherSt
  /-- associated data of the message, and payload before this descriptor (R152) -/
  aad   : Nat
  msg0  : Nat
  input : Bytes
  expected : Bytes

/-- What a segment leaves. -/
structure SegOut where
  st     : CipherSt
  out    : Bytes
  /-- a compare, tag check or unwrap check came out unequal -/
  differ : Bool
  /-- the result under HAND -/
  value  : Bytes
  detail : BitVec 16

/-- Output alone. -/
def segPlain (st : CipherSt) (out : Bytes) : SegOut := { st := st, out := out, differ := false, value := [], detail := 0 }

/-- A result of T bytes to where RESULT sends it: output, hand or compare (R169-R172). -/
def segResult (c : SegCtx) (st : CipherSt) (t : Bytes) : SegOut :=
  if c.d.result = 1 then { st := st, out := [], differ := false, value := t, detail := 0 }
  else if c.d.result = 2 then { st := st, out := [], differ := decide (t ≠ c.expected), value := [], detail := 0 }
  else segPlain st t

/-! ## Cipher modes -/

/-- ECB (R146). -/
def segEcb (c : SegCtx) : SegOut := segPlain c.st (ecbCrypt c.d.alg c.d.decrypt c.key0 c.input)

/-- CBC, chained through the chain register. -/
def segCbc (c : SegCtx) : SegOut :=
  let iv := if c.opens then c.d.inl.take (blkSize c.d.alg) else c.st.chain
  let bs := chunks (blkSize c.d.alg) c.input
  let r := if c.d.decrypt then cbcDec c.d.alg c.key0 bs iv else cbcEnc c.d.alg c.key0 bs iv
  let last := if c.d.decrypt then bs.getLast?.getD iv else r.2
  segPlain { c.st with chain := last } r.1

/-- Width of the counter of CTR (R145). -/
def ctrWidth (d : Desc) : Nat := if fld d.mode 7 6 = 1 then 64 else if fld d.mode 7 6 = 2 then 32 else 128

/-- CTR. -/
def segCtr (c : SegCtx) : SegOut :=
  let r := ctrCrypt (ctrWidth c.d) c.key0 (if c.opens then c.d.inl else c.st.chain) c.input
  segPlain { c.st with chain := r.2 } r.1

/-- Whether the last segment of an XTS unit is shorter than a block, so that the block before it waits for it
(DEDUCED, log entry 20). -/
def xtsHolds (d : Desc) (seg : Nat) : Bool :=
  decide (seg + 2 = segCount d) && decide (d.l % 4096 ≠ 0) && decide (d.l % 4096 < 16)

/-- XTS with ciphertext stealing in the final pair of blocks. -/
def segXts (c : SegCtx) : SegOut :=
  let tw := if c.opens then aesEnc c.key1 c.d.inl else c.st.chain
  let all := c.st.pend ++ c.input
  let n := if xtsHolds c.d c.seg then all.length - 16 else all.length
  let r := xtsBlocks c.d.decrypt c.key0 (chunks 16 (all.take n)) tw
  segPlain { c.st with chain := r.2, pend := all.drop n } r.1

/-- CMAC. -/
def segCmac (c : SegCtx) : SegOut :=
  let ch := if c.opens then zeros (blkSize c.d.alg) else c.st.chain
  let r := cmacAbsorb c.d.alg c.key0 ch (if c.opens then [] else c.st.pend) c.input
  let st := { c.st with chain := r.1, pend := r.2 }
  if c.closes then segResult c st ((cmacFinal c.d.alg c.key0 r.1 r.2).take (resultLen c.d)) else segPlain st []

/-- The GCM registers at the start of a message: H, J0, an empty accumulator, the counter J0 + 1. -/
def gcmOpen (c : SegCtx) : CipherSt :=
  let j0 := gcmJ0 c.d.inl
  { c.st with hkey := aesEnc c.key0 (zeros 16), j0 := j0, ghash := zeros 16, chain := ctrNext 32 j0, pend := [] }

/-- GMAC. -/
def segGmac (c : SegCtx) : SegOut :=
  let s0 := if c.opens then gcmOpen c else c.st
  let st := { s0 with ghash := ghash s0.hkey s0.ghash c.input }
  if c.closes then
    segResult c st ((gcmTag c.key0 st.hkey st.ghash st.j0 (c.msg0 + c.d.l) 0).take (resultLen c.d))
  else segPlain st []

/-- Part of a segment's input that lies in bytes lo to hi of the source. -/
def segPart (c : SegCtx) (lo hi : Nat) : Bytes :=
  let off := 4096 * c.seg
  slice c.input (lo - off) (min (hi - off) c.input.length - (lo - off))

/-- GCM. -/
def segGcm (c : SegCtx) : SegOut :=
  let s0 := if c.opens then gcmOpen c else c.st
  let acc := ghash s0.hkey s0.ghash (segPart c 0 c.d.aux)
  let x := segPart c (aadPad c.d) (payEnd c.d)
  let r := ctrCrypt 32 c.key0 s0.chain x
  let got := s0.pend ++ segPart c (payEnd c.d) c.d.l
  let st := { s0 with chain := r.2, ghash := ghash s0.hkey acc (if c.d.decrypt then x else r.1), pend := got }
  if c.closes then
    let tag := (gcmTag c.key0 st.hkey st.ghash st.j0 c.aad (c.msg0 + aeadPayload c.d)).take (resultLen c.d)
    if c.d.decrypt then { segPlain st r.1 with differ := decide (tag ≠ got) } else segPlain st (r.1 ++ tag)
  else segPlain st r.1

/-- The nonce of CCM. -/
def ccmNonce (d : Desc) : Bytes := slice d.inl 1 (ccmN d)

/-- CCM: the CBC-MAC in the chain register, the counter block in J0. -/
def segCcm (c : SegCtx) : SegOut :=
  let nonce := ccmNonce c.d
  let s0 := if c.opens then
      { c.st with chain := aesEnc c.key0 (ccmB0 c.d.aux (aeadPayload c.d) (resultLen c.d) nonce)
                  j0 := ccmCtr nonce 1, pend := [] }
    else c.st
  let m1 := ccmMac c.key0 s0.chain (segPart c 0 c.d.aux)
  let x := segPart c (aadPad c.d) (payEnd c.d)
  let r := ctrCrypt (8 * (15 - nonce.length)) c.key0 s0.j0 x
  let got := s0.pend ++ segPart c (payEnd c.d) c.d.l
  let st := { s0 with chain := ccmMac c.key0 m1 (if c.d.decrypt then r.1 else x), j0 := r.2, pend := got }
  if c.closes then
    let tag := (xorBytes st.chain (aesEnc c.key0 (ccmCtr nonce 0))).take (resultLen c.d)
    if c.d.decrypt then { segPlain st r.1 with differ := decide (tag ≠ got) } else segPlain st (r.1 ++ tag)
  else segPlain st r.1

/-! ## Key wrap -/

/-- The outcome of an unwrap to the destination: zeros on a failed check, the recovered length in DETAIL (R149). -/
def unwrapOut (c : SegCtx) (r : Bytes × Option Nat) : SegOut :=
  match r.2 with
  | some n => { segPlain c.st r.1 with detail := BitVec.ofNat 16 n }
  | none => { segPlain c.st (zeros r.1.length) with differ := true }

/-- KWP (R149). -/
def segKwp (c : SegCtx) : SegOut :=
  if c.d.decrypt then unwrapOut c (kwpUnwrap c.key0 c.input) else segPlain c.st (kwpWrap c.key0 c.input)

/-- KEY_WRAP and SLOT_SAVE (R219): their plaintext enters at the key load, in place of an input. -/
def segWrapKey (c : SegCtx) : SegOut := segPlain c.st (kwpWrap c.key0 c.input)

/-- The plaintext header of a wrapped key (R219). -/
def wrapHeader (k : KeyObj) : Bytes :=
  [BitVec.ofNat 8 k.type.toNat, k.param] ++ natLe 2 k.usage.toNat ++ natLe 2 k.mat.length ++ [1, 0]

/-- The plaintext of KEY_WRAP. -/
def wrapPlain (k : KeyObj) : Bytes := wrapHeader k ++ k.mat

/-- The archive header of SLOT_SAVE. -/
def archiveHeader (suit : BitVec 16) : Bytes := natLe 2 suit.toNat ++ zeros 6

/-- The key object a recovered plaintext holds: VERSION, TYPE and KLEN must hold; archive: the suit its header
must carry (R220). -/
def parseWrapped (b : Bytes) (archive : Option (BitVec 16)) (defUse : BitVec 16) : Option KeyObj :=
  let h := match archive with | some _ => b.drop 8 | none => b
  let suitOk := match archive with
    | some s => decide (8 ≤ b.length) && decide (leField b 0 2 = s.toNat)
    | none => true
  let type := fld (byteAt h 0) 3 0
  let mat := h.drop 8
  if suitOk && decide (8 ≤ h.length) && byteAt h 6 == 1 && decide (fld (byteAt h 0) 7 4 = 0) && decide (1 ≤ type)
      && decide (leField h 4 2 = mat.length) && objLegal type (byteAt h 1) mat.length then
    some { type := BitVec.ofNat 4 type, param := byteAt h 1
           usage := BitVec.ofNat 16 (leField h 2 2) &&& 0x0FFF &&& defUse, mat := mat, gran := [] }
  else none

/-! ## Digests (R158-R174) -/

/-- HASH. -/
def segHash (c : SegCtx) : SegOut :=
  let h := c.d.modeLo
  let g := digAbsorb h (if c.opens then digInit h else c.st.digest) c.input
  let st := { c.st with digest := g }
  if c.closes then segResult c st (digFinal h (halgSuffix h) g (resultLen c.d)) else segPlain st []

/-- HMAC. -/
def segHmac (c : SegCtx) : SegOut :=
  let h := c.d.modeLo
  let g := digAbsorb h (if c.opens then hmacInit h c.key0 else c.st.digest) c.input
  let st := { c.st with digest := g }
  if c.closes then segResult c st ((hmacFinal h g).take (resultLen c.d)) else segPlain st []

/-- KMAC. -/
def segKmac (c : SegCtx) : SegOut :=
  let h := c.d.modeLo
  let g := digAbsorb h (if c.opens then kmacInit h c.key0 (inlText c.d) else c.st.digest) c.input
  let st := { c.st with digest := g }
  if c.closes then segResult c st (kmacFinal h g (resultLen c.d)) else segPlain st []

end Sys2Proof.Machine
end

