-- ==== Sys2Proof/Machine/Micro.lean ====
section
/-!
DEFINITION. Play tables: the microword (R131, R132, R173), the walk that accepts or refuses a play (R133, R134), and
the round of a play on the lane datapath (R128, R129, R136, R142).
-/
namespace Sys2Proof.Machine

/-! ## The microword (R131) -/

/-- A microword by its fields. -/
structure Micro where
  seq  : Nat
  csrc : Bool
  lcnt : Nat
  ciph : Nat
  kb   : Nat
  gh   : Nat
  dg   : Nat
  din  : Nat
  inp  : Nat
  out  : Nat
  st   : Nat
  fin  : Nat
  resv : Nat
  imm  : Nat
  deriving DecidableEq, Repr

/-- The fields of a 64-bit microword. -/
def microOf (w : BitVec 64) : Micro where
  seq := fld w 63 61
  csrc := bit w 60
  lcnt := fld w 59 52
  ciph := fld w 51 47
  kb := fld w 46 45
  gh := fld w 44 42
  dg := fld w 41 38
  din := fld w 37 35
  inp := fld w 34 32
  out := fld w 31 29
  st := fld w 28 26
  fin := fld w 25 23
  resv := fld w 22 16
  imm := fld w 15 0

/-- Every field holds a listed value (R132, R173). -/
def Micro.legal (m : Micro) : Bool :=
  decide (m.seq ≤ 4) && decide (m.ciph ≤ 0x15) && decide (m.gh ≤ 5) && decide (m.dg ≤ 7) && decide (m.din ≤ 3)
    && decide (m.inp ≤ 4) && decide (m.out ≤ 5) && decide (m.st ≤ 3) && decide (m.fin ≤ 1) && m.resv == 0

/-- Address of microword i of lane l in the house physical space (R389). -/
def microAddr (l i : Nat) : Nat := laneBase l + 0xA000 + 8 * i

/-- Microword i of lane l. -/
def microAt (s : State) (l i : Nat) : Micro := microOf (BitVec.ofNat 64 (leNat (rdN s (microAddr l i) 8)))

/-- Iterations of a loop (R133). -/
def Micro.count (m : Micro) (tricks : Nat) : Nat := if m.csrc then tricks else m.lcnt + 1

/-! ## The walk (R134) -/

/-- The duration of the play from word i on, none where it is refused. open: the open loops, each with its count
and the duration of its body so far; total: the duration outside loops. -/
def playWalk (s : State) (l tricks : Nat) : Nat → Nat → List (Nat × Nat) → Nat → Option Nat
  | 0, _, _, _ => none
  | fuel + 1, i, open_, total =>
    if 256 ≤ i then none
    else
      let m := microAt s l i
      if !m.legal then none
      else if m.seq = 0 then
        match open_ with
        | [] => playWalk s l tricks fuel (i + 1) [] (total + 1)
        | (c, b) :: t => playWalk s l tricks fuel (i + 1) ((c, b + 1) :: t) total
      else if m.seq = 1 then
        if 2 ≤ open_.length then none
        else playWalk s l tricks fuel (i + 1) ((m.count tricks, 1) :: open_) total
      else if m.seq = 2 then
        match open_ with
        | [] => none
        | [(c, b)] => playWalk s l tricks fuel (i + 1) [] (total + c * (b + 1))
        | (c, b) :: (c', b') :: t => playWalk s l tricks fuel (i + 1) ((c', b' + c * (b + 1)) :: t) total
      else if m.seq = 3 then
        match open_ with
        | [] => playWalk s l tricks fuel (i + 1) [] (total + m.count tricks)
        | _ :: _ => none
      else
        match open_ with
        | [] => some (total + 1)
        | _ :: _ => none

/-- Duration of the play at an entry, none where its form is refused. -/
def playLength (s : State) (l tricks entry : Nat) : Option Nat := playWalk s l tricks 256 entry [] 0

/-! ## Sequencing -/

/-- The word after the BACK that closes a loop opened at word i. -/
def afterBack (s : State) (l : Nat) : Nat → Nat → Nat → Nat
  | 0, i, _ => i
  | fuel + 1, i, depth =>
    let m := microAt s l i
    if m.seq = 1 then afterBack s l fuel (i + 1) (depth + 1)
    else if m.seq = 2 then (if depth = 1 then i + 1 else afterBack s l fuel (i + 1) (depth - 1))
    else afterBack s l fuel (i + 1) depth

/-- The sequencer at the word it runs in this round: bodies and repeats of count 0 are skipped (R133). -/
def seqEnter (s : State) (l tricks : Nat) : Nat → Sequencer → Sequencer
  | 0, q => q
  | fuel + 1, q =>
    let m := microAt s l q.upc
    if m.seq = 1 ∧ (q.loops.head?.map (·.1)) ≠ some q.upc then
      if m.count tricks = 0 then seqEnter s l tricks fuel { q with upc := afterBack s l 256 q.upc 0 }
      else { q with loops := (q.upc, m.count tricks) :: q.loops }
    else if m.seq = 3 ∧ q.rep = none then
      if m.count tricks = 0 then seqEnter s l tricks fuel { q with upc := q.upc + 1 }
      else { q with rep := some (m.count tricks) }
    else q

/-- The sequencer after the word it ran. -/
def seqLeave (m : Micro) (q : Sequencer) : Sequencer :=
  if m.seq = 2 then
    match q.loops with
    | (i, n) :: t => if 1 < n then { q with upc := i, loops := (i, n - 1) :: t } else { q with upc := q.upc + 1, loops := t }
    | [] => { q with upc := q.upc + 1 }
  else if m.seq = 3 then
    match q.rep with
    | some n => if 1 < n then { q with rep := some (n - 1) } else { q with upc := q.upc + 1, rep := none }
    | none => { q with upc := q.upc + 1 }
  else if m.seq = 4 then { q with run := false, loops := [], rep := none }
  else { q with upc := q.upc + 1 }

/-! ## One round of the datapath -/

/-- The key a bank holds: the XOR of its shares (R138). -/
def BankKey.key (k : BankKey) : Bytes := (xorBytes k.a k.b).take k.size

/-- A mask of 256 bits of a lane's mask generator (R138). -/
def maskOf (s : State) (ln : Lane) (bank : Nat) : Bytes := padTo 32 (Config.maskOut ln.banks.mask s.round bank)

/-- A key put into a bank as two shares. -/
def bankPut (m : Bytes) (tdes : Bool) (key : Bytes) (suit : BitVec 16) (core : Bool) : BankKey :=
  { tdes := tdes, size := key.length, a := xorBytes (padTo 32 key) m, b := m, suit := suit, core := core }

/-- A bank's shares re-randomised. -/
def BankKey.remask (m : Bytes) (k : BankKey) : BankKey := { k with a := xorBytes k.a m, b := xorBytes k.b m }

/-- Both shares of every bank are re-randomised at a round boundary (R138). -/
def maskTurn (s : State) (l : Nat) : State :=
  modLane s l fun ln =>
    let m := maskOf s ln
    { ln with banks := { ln.banks with
        k0a := ln.banks.k0a.map (BankKey.remask (m 0)), k0i := ln.banks.k0i.map (BankKey.remask (m 1))
        k1a := ln.banks.k1a.map (BankKey.remask (m 2)), k1i := ln.banks.k1i.map (BankKey.remask (m 3))
        dummy := ln.banks.dummy.map (BankKey.remask (m 4)) } }

/-- ALG of a key in a bank: TDES, or the AES size its length names. -/
def bankAlg (k : BankKey) : Nat := if k.tdes then 4 else (k.size - 16) / 8

/-- A cleared bank holds zeros. -/
def BankKey.cleared : BankKey := { tdes := false, size := 32, a := zeros 32, b := zeros 32, suit := 0, core := false }

/-- The bank a microword names. -/
def bankKey (ln : Lane) (kb : Nat) : BankKey :=
  if kb = 0 then ln.banks.k0a.getD .cleared
  else if kb = 1 then ln.banks.k1a.getD .cleared
  else if kb = 2 then ln.banks.dummy.getD .cleared
  else .cleared

/-- Bytes of an input trick that XTS takes at once, the last pair of blocks being kept for XTS_CS where ciphertext is to be
stolen (R132, R149). len: the input's length; at_: the trick's place in it. -/
def xtsNow (len at_ : Nat) : Nat := if len % 16 = 0 then 64 else min 64 (len - len % 16 - 16 - at_)

/-- What the cipher unit makes of an input trick (x the padded trick, got its valid bytes, now what XTS takes of it): the
datapath and its result. A CBC-MAC stands in the chain register and in the accumulator, so that TAG takes it there
(R132). -/
def microCipher (d : Desc) (m : Micro) (k : BankKey) (dp : Datapath) (x got : Bytes) (now : Nat) : Datapath × Bytes :=
  let alg := bankAlg k
  let n := blkSize alg
  let key := k.key
  if m.ciph = 0x02 then ({ dp with chain := d.inl, counter := d.inl }, x)
  else if m.ciph = 0x03 then (dp, ecbCrypt alg false key x)
  else if m.ciph = 0x04 then (dp, ecbCrypt alg true key x)
  else if m.ciph = 0x05 then
    let r := cbcEnc alg key (chunks n x) (dp.chain.take n)
    ({ dp with chain := padTo 16 r.2 }, r.1)
  else if m.ciph = 0x06 then
    let r := cbcDec alg key (chunks n x) (dp.chain.take n)
    ({ dp with chain := padTo 16 ((chunks n x).getLast?.getD []) }, r.1)
  else if m.ciph = 0x07 then
    let r := ctrCrypt (ctrWidth d) key dp.counter x
    ({ dp with counter := r.2 }, r.1)
  else if m.ciph = 0x08 then ({ dp with tweak := aesEnc key d.inl }, x)
  else if m.ciph = 0x09 ∨ m.ciph = 0x0A then
    let r := xtsBlocks (m.ciph == 0x0A) key (chunks 16 (x.take now)) dp.tweak
    ({ dp with tweak := r.2, held := dp.held ++ got.drop now }, r.1)
  else if m.ciph = 0x0B then
    let r := xtsBlocks d.decrypt key (chunks 16 (dp.held ++ got)) dp.tweak
    ({ dp with tweak := r.2, held := [] }, r.1)
  else if m.ciph = 0x0C then
    let c := padTo 16 (macBlocks alg key (dp.chain.take n) (chunks n x))
    ({ dp with chain := c, acc := c }, x)
  else if m.ciph = 0x0D then
    let r := cmacAbsorb alg key (dp.chain.take n) [] got
    ({ dp with tag := padTo 64 (cmacFinal alg key r.1 r.2) }, x)
  else if m.ciph = 0x0E then
    let j0 := gcmJ0 d.inl
    ({ dp with hkey := aesEnc key (zeros 16), j0 := j0, counter := ctrNext 32 j0 }, x)
  else if m.ciph = 0x0F then
    let r := ctrCrypt 32 key dp.counter x
    ({ dp with counter := r.2 }, r.1)
  else if m.ciph = 0x10 then ({ dp with tag := padTo 64 (xorBytes (aesEnc key dp.j0) dp.acc) }, x)
  else if m.ciph = 0x11 then
    let nonce := ccmNonce d
    let c := aesEnc key (ccmB0 d.aux (d.l - aadPad d) (if d.trunc = 0 then 16 else d.trunc.toNat) nonce)
    ({ dp with chain := c, acc := c, counter := ccmCtr nonce 1, j0 := ccmCtr nonce 0 }, x)
  else if m.ciph = 0x12 ∨ m.ciph = 0x13 then
    let r := ctrCrypt (8 * (15 - ccmN d)) key dp.counter x
    let c := ccmMac key dp.chain (if m.ciph = 0x13 then r.1 else x)
    ({ dp with counter := r.2, chain := c, acc := c }, r.1)
  else (dp, x)

/-- Semiblock i of the wrap buffer. -/
def semi (b : Bytes) (i : Nat) : Bytes := slice b (8 * i) 8

/-- One step of the wrapping function over the wrap buffer; step number t counts from 1, over n semiblocks. -/
def kwStep (key : Bytes) (dec : Bool) (n : Nat) (b : Bytes) (done : Nat) : Bytes :=
  if dec then
    let t := 6 * n - done
    let i := (t - 1) % n + 1
    let r := aesDec key (natBe 8 (Nat.xor (beNat (semi b 0)) t) ++ semi b i)
    patch (patch b 0 (r.take 8)) (8 * i) (r.drop 8)
  else
    let t := done + 1
    let i := done % n + 1
    let r := aesEnc key (semi b 0 ++ semi b i)
    patch (patch b 0 (natBe 8 (Nat.xor (beNat (r.take 8)) t))) (8 * i) (r.drop 8)

/-- Four wrap or unwrap steps over the wrap buffer, up to 6 for each semiblock. -/
def microWrap (dec : Bool) (key : Bytes) (dp : Datapath) : Datapath :=
  let n := dp.wrap.length / 8 - 1
  (List.range 4).foldl (fun (x : Datapath) _ =>
    if x.steps < 6 * n then { x with wrap := kwStep key dec n x.wrap x.steps, steps := x.steps + 1 } else x) dp

/-- Suffix byte of a digest's padding, and what precedes it: right_encode(8T) for KMAC (R173). -/
def padSuffix (d : Desc) (keyed : Bool) : Byte := if keyed && decide (12 ≤ d.modeLo) then 0x04 else halgSuffix d.modeLo

/-- The padding of the operation absorbed once (DG = PAD). keyed: HMAC or KMAC. -/
def padDigest (d : Desc) (dp : Datapath) : Datapath :=
  let h := d.modeLo
  let keyed := !dp.digest.outer.isEmpty
  let t := if resultLen d = 0 then halgF h else resultLen d
  let g := if keyed && decide (12 ≤ h) then digAbsorb h dp.digest (rightEncode (8 * t)) else dp.digest
  if dp.padded then dp else { dp with digest := digPad h (padSuffix d keyed) g, padded := true }

/-- The digest step (R173): HALG is MODE[3:0]. KSTORE is the slot's (microRound). -/
def microDigest (d : Desc) (m : Micro) (key : Bytes) (dp : Datapath) (x : Bytes) : Datapath :=
  let h := d.modeLo
  let g := dp.digest
  if m.dg = 1 then { dp with digest := digInit h, padded := false }
  else if m.dg = 2 then
    if 12 ≤ h then
      let b := if m.imm = 0 then bytepad (halgB h) (encodeString kmacName ++ encodeString (inlText d))
        else bytepad (halgB h) (encodeString key)
      { dp with digest := { digAbsorb h g b with outer := [0] } }
    else
      let pad (v : Byte) : DigestSt := digAbsorb h (digInit h) ((padTo (halgB h) key).map fun b => b ^^^ v)
      if m.imm = 0 then { dp with digest := { pad 0x36 with outer := g.outer } }
      else { dp with digest := { g with outer := (pad 0x5C).words } }
  else if m.dg = 3 then { dp with digest := digAbsorb h g x }
  else if m.dg = 4 then padDigest d dp
  else if m.dg = 5 then
    let t := resultLen d
    let n := if t = 0 then halgF h else t
    let p := padDigest d dp
    let o := digOut h p.digest (if h < 12 then halgF h else n)
    let v := if g.outer.isEmpty || decide (12 ≤ h) then o else hmacOuter h p.digest o
    { p with tag := padTo 64 (v.take n) }
  else if m.dg = 7 then { dp with digest := .reset, padded := false }
  else dp

/-- Bytes of a tag that TAGOUT appends and TAGCMP compares: IMM, or TRUNC (R131, R144). -/
def tagBytes (d : Desc) (m : Micro) : Nat := if d.trunc ≠ 0 then d.trunc.toNat else m.imm

/-- ST = RESTORE: the registers take the state of the message's record (R132, R153). -/
def restoreDp (dp : Datapath) (st : CipherSt) : Datapath :=
  { dp with
    chain := padTo 16 st.chain, counter := padTo 16 st.chain, tweak := padTo 16 st.chain
    acc := padTo 16 st.ghash, j0 := padTo 16 st.j0, hkey := padTo 16 st.hkey, digest := st.digest, padded := false }

/-- What ST = SAVE writes of the registers: the CHAIN field holds the counter of a counter mode (R152, R153). -/
def saveDp (d : Desc) (dp : Datapath) : CipherSt :=
  { chain := if d.op = 0x03 ∨ d.op = 0x0C then dp.counter else dp.chain
    ghash := dp.acc, j0 := dp.j0, hkey := dp.hkey, pend := [], digest := dp.digest }

/-- The datapath after one microword of a play, and the trick its cipher unit made (R131, R132). input: the bytes of the
segment; rec: the state of its message. The fabric puts trick k + 1 into the idle input half while trick k is taken, and the
halves exchange (R128); so do those of the output (R129). -/
def microEval (ln : Lane) (d : Desc) (input : Bytes) (rec_ : Option CipherSt) (m : Micro) : Datapath × Bytes :=
  let dp := match m.st, rec_ with
    | 1, some st => restoreDp ln.dp st
    | _, _ => ln.dp
  let k := bankKey ln m.kb
  let take := m.inp == 1 || m.inp == 3
  -- input: the valid bytes, then the trick they fill
  let got : Bytes :=
    if take then slice input dp.taken 64
    else if m.inp = 2 then dp.cwb
    else if m.inp = 4 then ln.banks.chain
    else []
  let x := padTo 64 got
  let dp1 := { dp with
    taken := if take then dp.taken + got.length else dp.taken
    inA := if take then padTo 64 (slice input (dp.taken + 64) 64) else dp.inA
    inB := if take then x else dp.inB
    wrap := if m.inp = 3 then dp.wrap ++ got else dp.wrap }
  let c := microCipher d m k dp1 x got (xtsNow input.length dp.taken)
  let dp2 := if m.ciph = 0x14 then microWrap false k.key c.1 else if m.ciph = 0x15 then microWrap true k.key c.1 else c.1
  let res := c.2
  -- GHASH
  let seen := dp.taken
  let dp3 :=
    if m.gh = 1 then { dp2 with acc := ghash dp2.hkey dp2.acc (got.take (d.aux - seen)) }
    else if m.gh = 2 then { dp2 with acc := ghash dp2.hkey dp2.acc (res.take got.length) }
    else if m.gh = 3 then { dp2 with acc := ghash dp2.hkey dp2.acc got }
    else if m.gh = 4 then { dp2 with acc := ghash dp2.hkey dp2.acc (natBe 8 (8 * d.aux) ++ natBe 8 (8 * (d.l - aadPad d))) }
    else if m.gh = 5 then { dp2 with acc := zeros 16 }
    else dp2
  let din := if m.din = 1 then got else if m.din = 2 then res.take got.length else if m.din = 3 then dp.cwb else []
  let dp4 := microDigest d m k.key dp3 din
  -- output
  let z (b : Bytes) : Bytes := if ln.outz then zeros b.length else b
  let n := tagBytes d m
  let dp5 :=
    if m.out = 1 then { dp4 with outA := dp4.outB, outB := padTo 64 (z res), emitted := dp4.emitted ++ z res }
    else if m.out = 2 then { dp4 with cwaNext := some (padTo 64 res) }
    else if m.out = 3 then { dp4 with emitted := dp4.emitted ++ z (dp4.tag.take n) }
    else if m.out = 4 then { dp4 with differ := decide (dp4.tag.take n ≠ x.take n) }
    else if m.out = 5 then { dp4 with emitted := dp4.emitted ++ z dp4.wrap }
    else dp4
  (if m.st = 3 then
    { dp5 with chain := zeros 16, counter := zeros 16, tweak := zeros 16, tag := zeros 64, acc := zeros 16 }
  else dp5, res)

/-- The datapath after one microword of a play. -/
def microStep (ln : Lane) (d : Desc) (input : Bytes) (rec_ : Option CipherSt) (m : Micro) : Datapath :=
  (microEval ln d input rec_ m).1

/-! ## What a microword does beside the datapath (R140, R144, R170) -/

/-- The status and DETAIL that RESULT held at the start of the round (R142). -/
def resultStatus (ln : Lane) : Fail := (Status.ofCode (fld ln.resultAt 31 24), BitVec.ofNat 16 (fld ln.resultAt 15 0))

/-- The value a HAND result places: type SECRET, the hand's DEFAULT_USAGE (R170, R213). -/
def handValue (s : State) (d : Desc) (v : Bytes) : Option KeyObj :=
  if d.result = 1 then
    some { type := 5, param := 0, usage := (getHand s (handleHand d.key1)).defUse, mat := v, gran := [] }
  else none

/-- The segment after a microword of its play: its output so far; FIN posts RESULT, SAVE leaves the message's state, KSTORE
a value for the reserved slot, and the use of a KEYIN key makes it secret-keyed. -/
def microBind (s : State) (ln : Lane) (m : Micro) (dp : Datapath) (b : Binding) : Binding :=
  let k := bankKey ln m.kb
  { b with
    out := dp.emitted.take b.desc.cap
    after := if m.st = 2 then some (saveDp b.desc dp) else b.after
    outcome := if m.fin = 1 ∧ b.outcome = none then some (resultStatus ln) else b.outcome
    toHand := if m.dg = 6 then handValue s b.desc (dp.tag.take (resultLen b.desc)) else b.toHand
    secret := b.secret || (k.core && (m.ciph != 0 || m.dg == 2)) }

/-- CWA takes the value a microword of the last round wrote (R142). -/
def cwaTurn (dp : Datapath) : Datapath := { dp with cwa := dp.cwaNext.getD dp.cwa, cwaNext := none }

/-- The sequencer stopped. -/
def seqStop (q : Sequencer) : Sequencer := { q with run := false, loops := [], rep := none }

/-- The sequencer at the start of a round: past the word of the last round, unless the play begins in this one. -/
def seqTurn (s : State) (l : Nat) (q : Sequencer) : Sequencer :=
  if q.run && decide (q.from_ < s.round) then seqLeave (microAt s l q.upc) q else q

/-- A round of a lane's play: its microword drives the datapath, and the output written so far is the segment's
(R136). An uncorrectable word of play RAM ends the play (R318); the flag says so. -/
def microRound (s : State) (l : Nat) : State × Bool :=
  let s1 := modLane s l fun x => { x with dp := cwaTurn x.dp, seqr := seqTurn s l x.seqr }
  let ln := getLane s1 l
  if ln.seqr.run && decide (ln.seqr.from_ ≤ s1.round) then
    match curBind ln s1.round with
    | some b =>
      let q := seqEnter s1 l b.tricks 256 ln.seqr
      let key := wkeys (microAddr l q.upc) 8
      if anyBad s1 key then (modLane (touchWords s1 key) l fun x => { x with seqr := seqStop q }, true)
      else
        let m := microAt s1 l q.upc
        let dp := microStep ln b.desc b.input ((b.record.bind (getRec s1)).map (·.st)) m
        let ln1 := { ln with
          seqr := q
          dp := dp
          binds := ln.binds.map fun c => if c.seq == b.seq && c.seg == b.seg then microBind s1 ln m dp c else c }
        (setLane (touchWords s1 key) l ln1, false)
    | none => (modLane s1 l fun x => { x with seqr := seqStop x.seqr }, false)
  else (s1, false)

end Sys2Proof.Machine
end

