-- ==== Sys2Proof/Machine/Lanes.lean ====
section
/-!
DEFINITION. The life of a segment on a lane: key load and checks (R45, R143, R210), first round and engine issue
(R139, R197), output (R129, R149), final round and its status (R45, R144, R153, R156, R203), the clear after it (R130,
R139), and the commands of the lane opcodes.
-/
namespace Sys2Proof.Machine

/-! ## Bits of IRQ_PEND (R286) -/

def pendFinal : Nat := 0
def pendBound : Nat := 1
def pendHouse : Nat := 2

/-- An interrupt of a lane core becomes pending. -/
def lanePend (s : State) (l b : Nat) : State :=
  modLane s l fun x => { x with core := { x.core with irqPend := setBit x.core.irqPend b true } }

/-- A segment bound but not begun, or running: not yet posted. -/
def liveBinds (ln : Lane) : List Binding := ln.binds.filter fun b => !b.posted

/-- CORE_SUIT (R301): the suit of the bound segment's seat, COMMON when none is bound. -/
def coreSuit (s : State) (l : Nat) : BitVec 16 :=
  let bs := (getLane s l).binds
  let run := bs.find? fun b => decide (b.first ≤ s.round) && decide (s.round ≤ b.final) && !b.cleared
  let next := bs.find? fun b => decide (b.bound < s.round) && decide (s.round < b.first)
  let tail := bs.find? fun b => decide (b.first ≤ s.round)
  match run, next, tail with
  | some b, _, _ => (getSeat s b.seat).suit
  | none, some b, _ => (getSeat s b.seat).suit
  | none, none, some b => (getSeat s b.seat).suit
  | none, none, none => 0xFFFF

/-! ## Input -/

/-- Bytes of a source: host pieces from the staged bytes, kitty pieces from their slots. -/
def assemble (s : State) : List Span → Bytes → Bytes
  | [], _ => []
  | p :: t, h =>
    if p.kitty then kittyRead s (kittyStart p.addr) p.len ++ assemble s t h
    else padTo p.len h ++ assemble s t (h.drop p.len)

/-- Payload bytes of the segments before j. -/
def payBefore (d : Desc) (j : Nat) : Nat := ((List.range j).map (payBytes d)).sum

/-- Payload bytes of the message before this descriptor. -/
def msgBefore (s : State) (b : Binding) : Nat :=
  match b.record.bind (getRec s) with
  | some m => m.msgBytes - payBefore b.desc b.seg
  | none => 0

/-- The expected value of a compare (R171). -/
def expectedOf (s : State) (g : Flight) (b : Binding) : Bytes :=
  if b.desc.dstKitty then kittyRead s (kittyStart b.desc.dst) (resultLen b.desc)
  else padTo (resultLen b.desc) ((b.expected.orElse fun _ => g.expected).getD [])

/-! ## Key load and checks (R45, R143) -/

/-- A descriptor and its record's header agree (R154, R163). -/
def headerOk (m : MigRec) (d : Desc) : Bool :=
  if opClass d.op = .digest ∨ opClass d.op = .keyedDigest then
    m.opcode == d.opcode && m.mode == d.mode && m.key0 == d.key0 && decide (fld m.keySlots 3 0 = d.slot0)
  else
    m.opcode == d.opcode && m.mode == d.mode && m.decrypt == d.decrypt && m.key1Used == d.key1Used
      && m.key0 == d.key0 && m.key1 == d.key1 && m.keySlots == d.keySlots

/-- The check of a continuing descriptor against its hand's open message. -/
def roleFails (s : State) (b : Binding) : List Fail :=
  if b.seg = 0 ∧ b.role.opens = false then
    match b.record.bind (getRec s) with
    | some m => need (headerOk m b.desc) .paramInvalid
    | none => [(.paramInvalid, 0)]
  else []

/-- The last segment of its descriptor. -/
def Binding.lastOf (b : Binding) : Bool := decide (b.seg + 1 = segCount b.desc)

/-- Pieces a segment reads and writes. -/
def bindIn (g : Flight) (b : Binding) : List Span :=
  segSpans g b.seg ++ (if b.desc.result = 2 ∧ b.lastOf = true then cutSpans (dstSpans g) 0 (resultLen b.desc) else [])
def bindOut (g : Flight) (b : Binding) : List Span :=
  if b.desc.result = 2 then [] else outSpans g b.outBase (segOut b.desc b.role b.seg)

/-- Every failed check of a segment's load. -/
def loadFails (s : State) (g : Flight) (b : Binding) : List Fail :=
  let suit := (getSeat s b.seat).suit
  need (paramOk s b.desc (msgBefore s b)) .paramInvalid
    ++ need (boundsOk s b.desc b.role) .bounds
    ++ keyFails s b.seat b.desc
    ++ (if b.lastOf then targetCheck s b.seat b.seq b.desc else [])
    ++ roleFails s b
    ++ recFails s suit b.record
    ++ spanFails s suit (bindIn g b) (bindOut g b) (b.resvIn ++ b.resvOut)

/-- A bank's contents for a key object: only symmetric material fits one. -/
def bankOf (m : Bytes) (suit : BitVec 16) (k : KeyObj) : Option BankKey :=
  if decide (1 ≤ k.type.toNat) && decide (k.type.toNat ≤ 5) then some (bankPut m (k.type == 2) k.mat suit false) else none

/-- The key object a KEYREF names, when it is loaded. -/
def refKey (s : State) (hd : BitVec 32) (slot : Nat) (used : Bool) : Option KeyObj :=
  if used then slotObj (getHand s (handleHand hd)) slot else none

/-- HANDINFO (R141). -/
def handInfo (s : State) (d : Desc) (k0 k1 : Option KeyObj) : BitVec 64 :=
  let suit := if k0.isSome then (getHand s (handleHand d.key0)).suit.toNat else 0
  let u (k : Option KeyObj) : Nat := match k with | some x => x.usage.toNat | none => 0
  let t (k : Option KeyObj) : Nat := match k with | some x => x.type.toNat | none => 0
  BitVec.ofNat 64 (2 ^ 48 * suit + 2 ^ 32 * u k0 + 2 ^ 16 * u k1 + 2 ^ 12 * t k1 + 2 ^ 8 * t k0)

/-- A segment whose checks pass: keys into the idle banks, its first trick into the idle input half, its target reserved
(R45, R139, R170, R219). -/
def loadPass (s : State) (l : Nat) (g : Flight) (b : Binding) : State :=
  let d := b.desc
  let k0 := refKey s d.key0 d.slot0 (loadsKey0 d)
  let k1 := refKey s d.key1 d.slot1 (loadsKey1 d)
  let arch := d.op = 0x58 ∨ d.op = 0x59
  let plain : Option Bytes :=
    if d.op = 0x54 then k1.map wrapPlain
    else if d.op = 0x58 then k0.map fun k => archiveHeader (getHand s (handleHand d.key0)).suit ++ wrapPlain k
    else none
  let s1 := modBind s l b fun c =>
    { c with
      loaded := true, info := handInfo s d k0 k1, suit := (getSeat s b.seat).suit
      key0 := if arch then some (archiveKey s) else k0.map (·.mat)
      key1 := k1.map (·.mat)
      input := plain.getD c.input }
  let s2 := modLane s1 l fun ln =>
    let hs (hd : BitVec 32) : BitVec 16 := (getHand s (handleHand hd)).suit
    { ln with
      banks := { ln.banks with
        k0i := k0.bind (bankOf (maskOf s ln 1) (hs d.key0)), k1i := k1.bind (bankOf (maskOf s ln 3) (hs d.key1)) }
      dp := { ln.dp with inB := padTo 64 (plain.getD (assemble s (segSpans g b.seg) b.input)) } }
  if hasTarget d && b.lastOf then reserveSlot s2 d.key1 d.slot1 b.seq else s2

/-- A segment refused: it ends in its first round (R54, R143). -/
def loadRefuse (s : State) (l : Nat) (b : Binding) (f : Fail) : State :=
  modBind s l b fun c => { c with loaded := true, refused := some f, final := c.first, input := [], out := [] }

/-- The key load of a segment in round n + 1, and SEG_BOUND (R45, R143, R210, R281). -/
def loadSeg (s : State) (l : Nat) (b : Binding) : State :=
  match b.refused, flightBySeq s b.seat b.seq with
  | some _, _ => lanePend (modBind s l b fun c => { c with loaded := true, final := c.first }) l pendBound
  | none, none => s
  | none, some g =>
    let fs := loadFails s g b
    let places := b.resvIn ++ b.resvOut
    let s1 := countSuit (countDeny s b.seat b.seq fs) fs
      (spanGrans s b.desc (bindIn g b) (bindOut g b) places b.record b.lastOf)
    let s2 := lanePend s1 l pendBound
    let ks := if fs.any fun f => decide (f.1 = .suitFault) then []
      else readKeys (bindIn g b) b.resvIn (if b.seg = 0 ∧ b.role.opens = true then none else b.record)
        ++ keyWords s b.desc b.lastOf
    let bad := anyBad s ks
    let s3 := touchWords s2 ks
    let s4 := if bad then dmaHalt s3 b.seat g 6 else s3
    match worst (fs ++ need (!bad) .eccUncorrectable 6) with
    | some f => loadRefuse s4 l b f
    | none => loadPass s4 l g b

/-! ## The first round (R45, R139, R197) -/

/-- A request in its place among those of an engine: by issue round, then by rotated index (R72). -/
def insTicket (t : Ticket) : List Ticket → List Ticket
  | [] => [t]
  | u :: r => if t.q < u.q ∨ (t.q = u.q ∧ t.rot < u.rot) then t :: u :: r else u :: insTicket t r

/-- A lane places a request in its deck's engine (R197). -/
def issueTicket (s : State) (l : Nat) (b : Binding) (raw : Option Pkr) (input : Bytes) : State :=
  let t : Ticket :=
    { lane := l, seat := b.seat, seq := b.seq, desc := b.desc, q := s.round
      rot := (l % 8 + 8 - s.dealer.lanePtr) % 8, raw := raw, input := input
      resvIn := b.resvIn, resvOut := b.resvOut, suit := b.suit, waitFrom := none }
  let s1 := modEngine s (l / 8) fun e => { e with queue := insTicket t e.queue, tickets := e.tickets + 1 }
  modBind s1 l b fun c => { c with resvIn := [], resvOut := [] }

/-- The idle banks become the active ones (R139). -/
def turnBanks (b : Banks) : Banks := { b with k0a := b.k0i, k0i := none, k1a := b.k1i, k1i := none, core := false }

/-- A segment's first round. -/
def beginSeg (s : State) (l : Nat) (b : Binding) : State :=
  match b.refused, flightBySeq s b.seat b.seq with
  | none, some g =>
    if !b.loaded then s
    else
      let wrap := b.desc.op = 0x54 ∨ b.desc.op = 0x58
      let input := if wrap then b.input else assemble s (segSpans g b.seg) b.input
      let s1 := modLane s l fun ln =>
        { ln with
          banks := turnBanks ln.banks, dp := { ln.dp with inA := padTo 64 input, inB := zeros 64 }
          pkr := if b.applet && ln.pkr.go then { ln.pkr with stat := 1 } else ln.pkr }
      let s2 := modBind s1 l b fun c => { c with input := input, expected := some (expectedOf s g b) }
      if b.handOff then issueTicket s2 l b none input else s2
  | _, _ => s

/-! ## Output (R129, R149) -/

/-- A segment whose output drains at the end, first trick last (R149). -/
def wrapsLast (d : Desc) : Bool := d.op == 0x54 || d.op == 0x58 || (d.op == 0x10 && !d.decrypt)

/-- The status of a descriptor whose output met a bad word: ECC_UNCORRECTABLE, its round kept (R318). -/
def spoil (s : State) (l : Nat) (b : Binding) : State :=
  let s1 := modBind s l b fun c => { c with outcome := some (.eccUncorrectable, 6), toHand := none }
  modFlight s1 b.seat b.seq fun g =>
    { g with decided := g.decided.map fun d => { d with status := .eccUncorrectable, detail := 6 } }

/-- The output of one segment that is ready and not yet drained. -/
def drainBind (s : State) (l : Nat) (b : Binding) : State :=
  let n := outReady b s.round
  match flightBySeq s b.seat b.seq with
  | none => s
  | some g =>
    if n ≤ b.drained then s
    else
      let piece := slice b.out b.drained (n - b.drained)
      let r := if wrapsLast b.desc then
          let x := putTricks s b.seat g (b.outBase + 64) (piece.drop 64)
          let y := putOut x.1 b.seat g b.outBase (piece.take 64)
          (y.1, x.2 || y.2)
        else putTricks s b.seat g (b.outBase + b.drained) piece
      let gone := n / 64 - b.drained / 64
      let s1 := modBind r.1 l b fun c =>
        { c with drained := n, resvOut := c.resvOut.drop (if b.final < s.round then c.resvOut.length else gone) }
      let s2 := freshWords s1 (placeWords (b.resvOut.take gone))
      if r.2 then spoil (dmaHalt s2 b.seat g 6) l b else s2

/-- The segment holds a staged expected value to the end of its final epilogue (R171, R172). -/
def Binding.holdsExpected (b : Binding) (r : Round) : Bool :=
  decide (b.desc.result = 2) && b.lastOf && !b.desc.dstKitty && decide (r ≤ b.final)

/-- Input tricks the lane has consumed leave the pool (R109). -/
def consumeIn (s : State) (l : Nat) (b : Binding) : State :=
  if b.first < s.round ∧ b.handOff = false then
    let used := s.round - b.first - b.prologue
    let held := b.tricks - used + b2n (b.holdsExpected s.round)
    modBind s l b fun c => { c with resvIn := c.resvIn.drop (c.resvIn.length - held) }
  else s

/-- The lane's output and consumed input at the start of a round. -/
def drainLane (s : State) (l : Nat) : State :=
  (getLane s l).binds.foldl (fun t b => consumeIn (drainBind t l b) l b) s

/-! ## The clear after a segment (R130, R139, R202) -/

/-- The datapath cleared after a segment: trick buffers, core windows, wrap buffer, and what counts within a segment
(R130), the computed value and the tag register (R172); the other registers a play clears by ST = CLEAR stand (R132). -/
def dpClear (dp : Datapath) : Datapath :=
  { Datapath.reset with
    chain := dp.chain, counter := dp.counter, tweak := dp.tweak, acc := dp.acc, hkey := dp.hkey, j0 := dp.j0 }

/-- The KEY banks in the round after a segment's final round: cleared, but for idle banks that the next segment's key load
has just written (R139). -/
def clearBanks (b : Banks) (next : Bool) : Banks :=
  { b with k0a := none, k1a := none, core := false, k0i := if next then b.k0i else none, k1i := if next then b.k1i else none }

/-- Two rounds after its final round a segment is gone from the lane; in the round after it the lane clears what the
segment used. -/
def clearLane (s : State) (l : Nat) : State :=
  let ln := getLane s l
  let now := ln.binds.any fun b => b.posted && !b.cleared && decide (b.final < s.round)
  let binds := (ln.binds.filter fun b => !b.cleared).map fun b =>
    if b.posted && decide (b.final < s.round) then { b with cleared := true, resvIn := [], resvOut := [] } else b
  if now then
    setLane s l { ln with
      binds := binds, dp := dpClear ln.dp, pkr := .reset
      seqr := seqStop ln.seqr
      banks := clearBanks ln.banks (ln.binds.any fun b => b.loaded && b.refused.isNone && decide (b.first = s.round))
      core := { ln.core with irqPend := setBit ln.core.irqPend pendFinal false } }
  else setLane s l { ln with binds := binds }

/-- The key of an accepted KEYIN_CTRL reaches its bank at a round boundary, and KEYIN clears; it carries the suit of KEY0's
hand (R140). -/
def keyinTurn (s : State) (l : Nat) : State :=
  modLane s l fun ln =>
    match ln.banks.keyin with
    | some (one, n) =>
      let suit := match ln.binds.find? fun b => decide (b.first < s.round) && decide (s.round ≤ b.final + 1) with
        | some b => (getHand s (handleHand b.desc.key0)).suit
        | none => 0
      let k : Option BankKey := some (bankPut (maskOf s ln (if one then 2 else 0)) false (ln.keyin.take n) suit true)
      let bs := ln.banks
      { ln with
        banks := if one then { bs with k1a := k, core := true, keyin := none }
          else { bs with k0a := k, core := true, keyin := none }
        keyin := zeros 32 }
    | none => ln

/-! ## The final round (R45, R144, R153, R156, R163, R203) -/

/-- The core of a lane is at APPLET. -/
def atApplet (ln : Lane) : Bool := decide (fld ln.core.f 7 6 = 0)

/-- The applet of a segment still runs: its final status is ABORTED (R156). -/
def lateApplet (s : State) (l : Nat) (b : Binding) : State :=
  modBind s l b fun c => { c with outcome := some (.aborted, 0x0A01), played := true }

/-- The final round of an applet's segment begins: SEG_FINAL becomes pending, and a segment whose core is at APPLET will post
ABORTED (R156, R281). In a gate service the applet is found running when SEG_FINAL is taken after RETX (R298). -/
def segFinal (s : State) (l : Nat) : State :=
  match (getLane s l).binds.find? fun b => !b.posted && b.applet && b.refused.isNone && decide (b.final = s.round) with
  | some b => lanePend (if atApplet (getLane s l) then lateApplet s l b else s) l pendFinal
  | none => s

/-- The message state after a segment: saved, occupied to the end of the save (R62, R153). -/
def saveRec (s : State) (b : Binding) (last : Bool) : State :=
  match b.record, b.after with
  | some i, some st =>
    match getRec s i with
    | some m => setRec (freshWords s (wkeys (recAddr i) 512)) i (some { m with
        st := st, msgBytes := m.msgBytes + payBytes b.desc b.seg
        aadBytes := if b.role.opens && decide (b.seg = 0) && decide (opClass b.desc.op = .aead) then m.aadBytes + b.desc.aux
          else m.aadBytes
        saves := m.saves + 1, occEnd := if last then some (b.final + 1) else m.occEnd })
    | none => s
  | _, _ => s

/-- The record of a refused segment: a message this descriptor opened closes with it (R61), one it was to continue or finish
stays open, whatever segment is refused (R154, R163, R164). -/
def refuseRec (s : State) (b : Binding) : State :=
  match b.record with
  | some i =>
    if b.role.opens = false then
      match getRec s i with
      | some m => setRec s i (some { m with occEnd := some b.final })
      | none => s
    else freeRec s i
  | none => s

/-- A segment posts the status of its descriptor. A value for a slot whose reservation is lost is not placed (R225). -/
def postStatus (s : State) (l : Nat) (b : Binding) (f : Fail) : State :=
  let held := sget none (getHand s (handleHand b.desc.key1)).resv b.desc.slot1 == some b.seq
  let r := placeKey s b.desc (if held then b.toHand else none) f
  decide_ (modBind r.1 l b fun c => { c with posted := true }) b.seat b.seq r.2.1 r.2.2 b.final false

/-- A segment that is not the last of its descriptor ends: its state is saved, the next may be dealt (R153). -/
def endPart (s : State) (l : Nat) (b : Binding) : State :=
  let s1 := saveRec (modBind s l b fun c => { c with posted := true }) b false
  modFlight s1 b.seat b.seq fun g =>
    { g with running := false, dealFrom := b.final + 2, outPos := b.outBase + b.out.length }

/-- The last segment of a descriptor ends. -/
def endLast (s : State) (l : Nat) (b : Binding) : State :=
  let f := b.outcome.getD (.done, 0)
  if b.role.closes then closeRec (postStatus s l b f) b.record
  else postStatus (saveRec s b true) l b f

/-- A raw request in the window is refused in its issue round (R202, R203). -/
def rawFails (s : State) (b : Binding) (p : Pkr) : List Fail :=
  let w := p.words.toNat
  let key := slotObj (getHand s (handleHand b.desc.key0)) b.desc.slot0
  let sized := key.all fun k => k.type != 6 || decide (rsaSize k.param = 64 * w)
  need (decide (1 ≤ p.op.toNat ∧ p.op.toNat ≤ 6) && decide (4 ≤ w ∧ w ≤ 32) && (p.op != 6 || sized)) .paramInvalid
    ++ need (decide (8 * w ≤ b.desc.cap)) .bounds
    ++ (if p.op = 6 then
        handFails s b.seat b.desc.key0 0x0C01 0
          ++ slotFails s b.desc.key0 b.desc.slot0 (fun k => k.type == 6 && bit k.usage uRaw) 0 0
      else [])
where
  /-- SIZE of an RSA key in bits. -/
  rsaSize (p : Byte) : Nat :=
    let hi := fld p 7 4
    if hi = 1 then 1024 else if hi = 2 then 2048 else if hi = 3 then 3072 else if hi = 4 then 4096 else 8192

/-- The final round of an applet's segment (R156, R203): with GO at 1 and RESULT.STATUS DONE as the round began, the request
in the window as it stood then is issued in place of a status. -/
def endApplet (s : State) (l : Nat) (b : Binding) : State :=
  let ln := getLane s l
  let f := b.outcome.getD (resultStatus ln)
  if ln.pkrAt.go = true ∧ f.1 = .done then
    let fs := rawFails s b ln.pkrAt
    match worst fs with
    | some f => postStatus (countDeny s b.seat b.seq fs) l b f
    | none => modBind (issueTicket s l b (some ln.pkrAt) []) l b fun c => { c with posted := true }
  else postStatus s l b f

/-- A segment's final round. -/
def finalSeg (s : State) (l : Nat) (b : Binding) : State :=
  match b.refused with
  | some f => refuseRec (postStatus s l b f) b
  | none =>
    if b.handOff then modBind s l b fun c => { c with posted := true }
    else if b.applet then endApplet s l b
    else if b.lastOf then endLast s l b
    else endPart s l b

/-- SEGMENT_FINAL_ROUND (R45): the oldest segment of a lane that has reached its final round ends. The row of its opcode
has worked out its effect before. -/
def execSegmentFinalRound (lane : Fin 128) (s : State) : Out :=
  let l := lane.val
  match (getLane s l).binds.find? fun b => !b.posted && decide (b.final ≤ s.round) with
  | some b => if b.played || b.refused.isSome || b.handOff || b.applet then .next (finalSeg s l b) else .next s
  | none => .next s

/-! ## The commands of the lane opcodes -/

/-- The segment of an opcode that a lane runs and whose effect is not yet worked out. -/
def playable (s : State) (l op : Nat) : Option Binding :=
  (getLane s l).binds.find? fun b =>
    !b.posted && !b.played && b.loaded && b.refused.isNone && !b.handOff && !b.applet
      && decide (b.first ≤ s.round) && decide (b.desc.op = op)

/-- What the segment works on. -/
def segCtx (s : State) (b : Binding) : SegCtx :=
  let m := b.record.bind (getRec s)
  let opens := b.role.opens && decide (b.seg = 0)
  { d := b.desc, seg := b.seg, opens := opens, closes := b.role.closes && b.lastOf
    key0 := b.key0.getD [], key1 := b.key1.getD []
    st := match m with | some r => if opens then .reset else r.st | none => .reset
    aad := match m with | some r => if b.role.opens then b.desc.aux else r.aadBytes | none => b.desc.aux
    msg0 := msgBefore s b, input := b.input, expected := (b.expected).getD [] }

/-- The datapath registers after a segment (R132). -/
def dpAfter (dp : Datapath) (o : SegOut) : Datapath :=
  { dp with
    chain := padTo 16 o.st.chain, acc := padTo 16 o.st.ghash, j0 := padTo 16 o.st.j0, hkey := padTo 16 o.st.hkey
    digest := o.st.digest, differ := o.differ }

/-- The effect of a lane opcode's segment, worked out by a function of what it works on. An uncorrectable play RAM
word at its entry leaves every unit driven with NONE (R318). -/
def playSeg (s : State) (l op : Nat) (f : SegCtx → SegOut) : State :=
  match playable s l op with
  | some b =>
    let o := f (segCtx s b)
    let s1 := modBind s l b fun c =>
      { c with
        played := true, out := o.out, after := some o.st
        outcome := if c.outcome.isSome then c.outcome else some (if o.differ then .mismatch else .done, o.detail)
        toHand := if b.role.closes && b.lastOf && !o.differ then handValue s b.desc o.value else none }
    modLane s1 l fun ln => { ln with dp := dpAfter ln.dp o }
  | none => s

/-- KEY_UNWRAP and SLOT_RESTORE (R220): the recovered key goes to the target slot, or the check fails. -/
def playUnwrap (s : State) (l op : Nat) (archive : Bool) : State :=
  match playable s l op with
  | some b =>
    let h := getHand s (handleHand b.desc.key1)
    let r := kwpUnwrap (b.key0.getD []) b.input
    let k := r.2.bind fun n => parseWrapped (r.1.take n) (if archive then some h.suit else none) h.defUse
    modBind s l b fun c =>
      { c with played := true, toHand := k, outcome := some (if k.isSome then .done else .mismatch, 0) }
  | none => s

/-- ECB. -/
def execEcb (lane : Fin 128) (s : State) : Out := .next (playSeg s lane.val 0x01 segEcb)
/-- CBC. -/
def execCbc (lane : Fin 128) (s : State) : Out := .next (playSeg s lane.val 0x02 segCbc)
/-- CTR. -/
def execCtr (lane : Fin 128) (s : State) : Out := .next (playSeg s lane.val 0x03 segCtr)
/-- XTS. -/
def execXts (lane : Fin 128) (s : State) : Out := .next (playSeg s lane.val 0x04 segXts)
/-- CMAC. -/
def execCmac (lane : Fin 128) (s : State) : Out := .next (playSeg s lane.val 0x08 segCmac)
/-- GMAC. -/
def execGmac (lane : Fin 128) (s : State) : Out := .next (playSeg s lane.val 0x09 segGmac)
/-- GCM. -/
def execGcm (lane : Fin 128) (s : State) : Out := .next (playSeg s lane.val 0x0C segGcm)
/-- CCM. -/
def execCcm (lane : Fin 128) (s : State) : Out := .next (playSeg s lane.val 0x0D segCcm)
/-- KWP. -/
def execKwp (lane : Fin 128) (s : State) : Out := .next (playSeg s lane.val 0x10 segKwp)
/-- HASH. -/
def execHash (lane : Fin 128) (s : State) : Out := .next (playSeg s lane.val 0x20 segHash)
/-- HMAC. -/
def execHmac (lane : Fin 128) (s : State) : Out := .next (playSeg s lane.val 0x21 segHmac)
/-- KMAC. -/
def execKmac (lane : Fin 128) (s : State) : Out := .next (playSeg s lane.val 0x22 segKmac)
/-- KEY_WRAP (R219). -/
def execKeyWrap (lane : Fin 128) (s : State) : Out := .next (playSeg s lane.val 0x54 segWrapKey)
/-- KEY_UNWRAP (R220). -/
def execKeyUnwrap (lane : Fin 128) (s : State) : Out := .next (playUnwrap s lane.val 0x55 false)
/-- SLOT_SAVE (R219). -/
def execSlotSave (lane : Fin 128) (s : State) : Out := .next (playSeg s lane.val 0x58 segWrapKey)
/-- SLOT_RESTORE (R220). -/
def execSlotRestore (lane : Fin 128) (s : State) : Out := .next (playUnwrap s lane.val 0x59 true)

end Sys2Proof.Machine
end

