-- ==== Sys2Proof/Machine/Lattice.lean ====
section
/-!
DEFINITION. ML-KEM (FIPS 203) and ML-DSA (FIPS 204) on lists of 256 coefficients (R175, R179, R184, R185, R187,
R193, R194, R196). The manual names the standards; the algorithms are theirs (PRESUMED, log entry 14). The
allotments of hash output for rejection sampling are this model's (DESIGN CHOICE, log entry 16).
-/
namespace Sys2Proof.Machine

/-- A polynomial: 256 coefficients, reduced. -/
abbrev Poly := List Nat

/-! ## Transforms -/

/-- The low n bits of k reversed. -/
def bitRev : Nat → Nat → Nat
  | 0, _ => 0
  | n + 1, k => k % 2 * 2 ^ n + bitRev n (k / 2)

/-- The number-theoretic transform, node k of a tree of the given depth; zs lists the powers by node. -/
def nttRec (q : Nat) (zs : List Nat) : Nat → Nat → Poly → Poly
  | 0, _, f => f
  | d + 1, k, f =>
    let h := f.length / 2
    let z := zs.getD k 1
    let lo := f.take h
    let hi := (f.drop h).map fun x => x * z % q
    nttRec q zs d (2 * k) (List.zipWith (fun a b => (a + b) % q) lo hi)
      ++ nttRec q zs d (2 * k + 1) (List.zipWith (fun a b => (a + q - b) % q) lo hi)

/-- The inverse of the tree, without the final scaling; zs lists the inverse powers by node. -/
def inttRec (q : Nat) (zs : List Nat) : Nat → Nat → Poly → Poly
  | 0, _, f => f
  | d + 1, k, f =>
    let h := f.length / 2
    let l := inttRec q zs d (2 * k) (f.take h)
    let r := inttRec q zs d (2 * k + 1) (f.drop h)
    let z := zs.getD k 1
    List.zipWith (fun a b => (a + b) % q) l r ++ List.zipWith (fun a b => (a + q - b) * z % q) l r

def polyAdd (q : Nat) (a b : Poly) : Poly := List.zipWith (fun x y => (x + y) % q) a b
def polySub (q : Nat) (a b : Poly) : Poly := List.zipWith (fun x y => (x + q - y) % q) a b

/-- Coefficients of d bits packed little-endian. -/
def packBits (d : Nat) (f : Poly) : Bytes := natLe (f.length * d / 8) (f.foldr (fun c acc => c + 2 ^ d * acc) 0)

/-- n coefficients of d bits from a number. -/
def unpackNat (d : Nat) : Nat → Nat → Poly
  | 0, _ => []
  | n + 1, v => v % 2 ^ d :: unpackNat d n (v / 2 ^ d)

def unpackBits (d : Nat) (b : Bytes) : Poly := unpackNat d 256 (leNat b)

/-! ## ML-KEM -/

def kq : Nat := 3329
def kemZ : List Nat := (List.range 128).map fun i => modPow 17 (bitRev 7 i) kq
def kemZi : List Nat := kemZ.map fun z => modInv z kq

def kemNtt (f : Poly) : Poly := nttRec kq kemZ 7 1 f
def kemIntt (f : Poly) : Poly := (inttRec kq kemZi 7 1 f).map fun x => x * 3303 % kq

/-- Products of pairs modulo X^2 - 17^(2 BitRev7(i) + 1), pair number i first. -/
def kemPairs : Nat → Poly → Poly → Poly
  | i, a0 :: a1 :: at_, b0 :: b1 :: bt =>
    let g := modPow 17 (2 * bitRev 7 i + 1) kq
    (a0 * b0 + a1 * b1 % kq * g) % kq :: (a0 * b1 + a1 * b0) % kq :: kemPairs (i + 1) at_ bt
  | _, _, _ => []

def kemMul (a b : Poly) : Poly := kemPairs 0 a b

/-- Coefficients accepted from a hash stream. -/
def kemTake : Bytes → Poly
  | b0 :: b1 :: b2 :: t =>
    let d1 := b0.toNat + 256 * (b1.toNat % 16)
    let d2 := b1.toNat / 16 + 16 * b2.toNat
    (if d1 < kq then [d1] else []) ++ (if d2 < kq then [d2] else []) ++ kemTake t
  | _ => []

/-- SampleNTT; nothing when the allotment runs short. -/
def kemSample (seed : Bytes) : Option Poly :=
  let f := (kemTake (shake 12 840 seed)).take 256
  if f.length = 256 then some f else none

/-- Ones among n bits of v from bit i. -/
def ones (v i : Nat) : Nat → Nat
  | 0 => 0
  | n + 1 => v / 2 ^ (i + n) % 2 + ones v i n

/-- SamplePolyCBD. -/
def kemCbd (eta : Nat) (b : Bytes) : Poly :=
  let v := leNat b
  (List.range 256).map fun i => (ones v (2 * i * eta) eta + kq - ones v (2 * i * eta + eta) eta) % kq

def kemCompress (d x : Nat) : Nat := (2 ^ (d + 1) * x + kq) / (2 * kq) % 2 ^ d
def kemDecompress (d y : Nat) : Nat := (kq * y + 2 ^ (d - 1)) / 2 ^ d

/-- Parameters of a set code 1-3 (R184). -/
structure KemP where
  k : Nat
  eta1 : Nat
  du : Nat
  dv : Nat
  deriving DecidableEq, Repr

def kemP (c : Nat) : KemP :=
  if c = 1 then { k := 2, eta1 := 3, du := 10, dv := 4 }
  else if c = 2 then { k := 3, eta1 := 2, du := 10, dv := 4 }
  else { k := 4, eta1 := 2, du := 11, dv := 5 }

/-- The matrix, row by row; transposed swaps the indices. -/
def kemMatrix (p : KemP) (rho : Bytes) (tr : Bool) : Option (List (List Poly)) :=
  (List.range p.k).mapM fun i => (List.range p.k).mapM fun j =>
    kemSample (rho ++ (if tr then [BitVec.ofNat 8 i, BitVec.ofNat 8 j] else [BitVec.ofNat 8 j, BitVec.ofNat 8 i]))

/-- Noise polynomial number n of a seed. -/
def kemNoise (eta : Nat) (seed : Bytes) (n : Nat) : Poly := kemCbd eta (shake 13 (64 * eta) (seed ++ [BitVec.ofNat 8 n]))

/-- Sum of products of two vectors in the transformed domain. -/
def kemDot (a b : List Poly) : Poly :=
  (List.zipWith kemMul a b).foldl (polyAdd kq) (List.replicate 256 0)

/-- K-PKE key generation: encryption key and decryption key. -/
def kemKeygen (p : KemP) (d : Bytes) : Option (Bytes × Bytes) :=
  let g := hashOf 11 (d ++ [BitVec.ofNat 8 p.k])
  let rho := g.take 32
  let sigma := g.drop 32
  (kemMatrix p rho false).map fun a =>
    let s := (List.range p.k).map fun i => kemNtt (kemNoise p.eta1 sigma i)
    let e := (List.range p.k).map fun i => kemNtt (kemNoise p.eta1 sigma (p.k + i))
    let t := List.zipWith (polyAdd kq) (a.map fun row => kemDot row s) e
    (t.flatMap (packBits 12) ++ rho, s.flatMap (packBits 12))

/-- The vector of t of an encryption key. -/
def kemT (p : KemP) (ek : Bytes) : List Poly := (List.range p.k).map fun i => unpackBits 12 (slice ek (384 * i) 384)

/-- The modulus check on an encryption key. -/
def kemEkOk (p : KemP) (ek : Bytes) : Bool := (kemT p ek).all fun f => f.all fun c => decide (c < kq)

/-- K-PKE encryption of a 32-byte message under 32 bytes of randomness. -/
def kemEncrypt (p : KemP) (ek m r : Bytes) : Option Bytes :=
  (kemMatrix p (slice ek (384 * p.k) 32) true).map fun at_ =>
    let t := (kemT p ek).map fun f => f.map (· % kq)
    let y := (List.range p.k).map fun i => kemNtt (kemNoise p.eta1 r i)
    let u := (List.range p.k).map fun i =>
      polyAdd kq (kemIntt (kemDot (at_.getD i []) y)) (kemNoise 2 r (p.k + i))
    let mu := (unpackBits 1 m).map (kemDecompress 1)
    let v := polyAdd kq (polyAdd kq (kemIntt (kemDot t y)) (kemNoise 2 r (2 * p.k))) mu
    u.flatMap (fun f => packBits p.du (f.map (kemCompress p.du))) ++ packBits p.dv (v.map (kemCompress p.dv))

/-- K-PKE decryption. -/
def kemDecrypt (p : KemP) (dk c : Bytes) : Bytes :=
  let u := (List.range p.k).map fun i =>
    (unpackBits p.du (slice c (32 * p.du * i) (32 * p.du))).map (kemDecompress p.du)
  let v := (unpackBits p.dv (c.drop (32 * p.du * p.k))).map (kemDecompress p.dv)
  let s := (List.range p.k).map fun i => unpackBits 12 (slice dk (384 * i) 384)
  let w := polySub kq v (kemIntt (kemDot s (u.map kemNtt)))
  packBits 1 (w.map (kemCompress 1))

/-- Encapsulation: ciphertext and shared secret. -/
def kemEncaps (p : KemP) (ek m : Bytes) : Option (Bytes × Bytes) :=
  let g := hashOf 11 (m ++ hashOf 9 ek)
  (kemEncrypt p ek m (g.drop 32)).map fun c => (c, g.take 32)

/-- Decapsulation with implicit rejection. -/
def kemDecaps (p : KemP) (d z ek c : Bytes) : Option Bytes :=
  (kemKeygen p d).bind fun k =>
    let m := kemDecrypt p k.2 c
    let g := hashOf 11 (m ++ hashOf 9 ek)
    (kemEncrypt p ek m (g.drop 32)).map fun c2 => if c2 == c then g.take 32 else shake 13 32 (z ++ c)

/-! ## ML-DSA -/

def dq : Nat := 8380417
def dsaZ : List Nat := (List.range 256).map fun i => modPow 1753 (bitRev 8 i) dq
def dsaZi : List Nat := dsaZ.map fun z => modInv z dq

def dsaNtt (f : Poly) : Poly := nttRec dq dsaZ 8 1 f
def dsaIntt (f : Poly) : Poly := (inttRec dq dsaZi 8 1 f).map fun x => x * 8347681 % dq
def dsaMul (a b : Poly) : Poly := List.zipWith (fun x y => x * y % dq) a b

/-- Parameters of a set code 1-3 (R184). -/
structure DsaP where
  k : Nat
  l : Nat
  eta : Nat
  tau : Nat
  beta : Nat
  g1 : Nat
  g2 : Nat
  omega : Nat
  cLen : Nat
  deriving DecidableEq, Repr

def dsaP (c : Nat) : DsaP :=
  if c = 1 then
    { k := 4, l := 4, eta := 2, tau := 39, beta := 78, g1 := 2 ^ 17, g2 := 95232, omega := 80, cLen := 32 }
  else if c = 2 then
    { k := 6, l := 5, eta := 4, tau := 49, beta := 196, g1 := 2 ^ 19, g2 := 261888, omega := 55, cLen := 48 }
  else
    { k := 8, l := 7, eta := 2, tau := 60, beta := 120, g1 := 2 ^ 19, g2 := 261888, omega := 75, cLen := 64 }

/-- Coefficients accepted by RejNTTPoly. -/
def dsaTake : Bytes → Poly
  | b0 :: b1 :: b2 :: t =>
    let z := b0.toNat + 256 * b1.toNat + 65536 * (b2.toNat % 128)
    (if z < dq then [z] else []) ++ dsaTake t
  | _ => []

def dsaSample (seed : Bytes) : Option Poly :=
  let f := (dsaTake (shake 12 894 seed)).take 256
  if f.length = 256 then some f else none

/-- Coefficients accepted by RejBoundedPoly. -/
def dsaBounded (eta : Nat) (seed : Bytes) : Option Poly :=
  let one := fun n : Nat =>
    if eta = 2 then (if n < 15 then [(dq + 2 - n % 5) % dq] else [])
    else (if n < 9 then [(dq + 4 - n) % dq] else [])
  let f := ((shake 13 481 seed).flatMap fun b => one (b.toNat % 16) ++ one (b.toNat / 16)).take 256
  if f.length = 256 then some f else none

def dsaMatrix (p : DsaP) (rho : Bytes) : Option (List (List Poly)) :=
  (List.range p.k).mapM fun r => (List.range p.l).mapM fun s =>
    dsaSample (rho ++ [BitVec.ofNat 8 s, BitVec.ofNat 8 r])

def dsaDot (a b : List Poly) : Poly := (List.zipWith dsaMul a b).foldl (polyAdd dq) (List.replicate 256 0)

/-- r mod a, centred: in the range above -a/2 up to a/2. -/
def centred (r a : Nat) : Int := if r % a ≤ a / 2 then (r % a : Int) else (r % a : Int) - a

/-- A centred number as a residue. -/
def resid (x : Int) : Nat := (x % (dq : Int)).toNat

/-- High and low part under Decompose. -/
def dsaDecompose (g2 r : Nat) : Nat × Int :=
  let r0 := centred r (2 * g2)
  if (r : Int) - r0 = (dq : Int) - 1 then (0, r0 - 1) else (((r : Int) - r0).toNat / (2 * g2), r0)

/-- Distance from zero modulo q. -/
def dsaAbs (x : Nat) : Nat := min x (dq - x)

def dsaNorm (v : List Poly) : Nat := v.foldl (fun m f => f.foldl (fun a x => max a (dsaAbs x)) m) 0

/-- What a seed expands to: rho, K, s1 and s2, t1 and t0. -/
structure DsaKey where
  rho : Bytes
  k   : Bytes
  s1  : List Poly
  s2  : List Poly
  t1  : List Poly
  t0  : List Poly
  deriving DecidableEq, Repr

def dsaExpand (p : DsaP) (xi : Bytes) : Option DsaKey :=
  let g := shake 13 128 (xi ++ [BitVec.ofNat 8 p.k, BitVec.ofNat 8 p.l])
  let rho := g.take 32
  let rp := slice g 32 64
  match dsaMatrix p rho, (List.range p.l).mapM (fun i => dsaBounded p.eta (rp ++ natLe 2 i)),
      (List.range p.k).mapM (fun i => dsaBounded p.eta (rp ++ natLe 2 (p.l + i))) with
  | some a, some s1, some s2 =>
    let s1n := s1.map dsaNtt
    let t := List.zipWith (polyAdd dq) (a.map fun row => dsaIntt (dsaDot row s1n)) s2
    let lo := fun x : Nat => centred x 8192
    some { rho := rho, k := g.drop 96, s1 := s1, s2 := s2
           t1 := t.map fun f => f.map fun x => (Int.ofNat x - lo x).toNat / 8192
           t0 := t.map fun f => f.map fun x => resid (lo x) }
  | _, _, _ => none

/-- The public key of a seed. -/
def dsaPublic (k : DsaKey) : Bytes := k.rho ++ k.t1.flatMap (packBits 10)

/-- Fisher-Yates steps of SampleInBall: positions from i on, sign bits, and the stream left. -/
def dsaBallAux : Nat → Nat → Nat → Bytes → Poly → Option Poly
  | 0, _, _, _, c => some c
  | n + 1, i, signs, st, c =>
    match st.dropWhile (fun b => decide (i < b.toNat)) with
    | [] => none
    | b :: rest =>
      let j := b.toNat
      dsaBallAux n (i + 1) (signs / 2) rest ((c.set i (c.getD j 0)).set j (if signs % 2 = 1 then dq - 1 else 1))

def dsaBall (p : DsaP) (seed : Bytes) : Option Poly :=
  let st := shake 13 229 seed
  dsaBallAux p.tau (256 - p.tau) (leNat (st.take 8)) (st.drop 8) (List.replicate 256 0)

/-- Bits of a packed coefficient of z. -/
def dsaZBits (p : DsaP) : Nat := if p.g1 = 2 ^ 17 then 18 else 20

/-- Bits of a packed coefficient of w1. -/
def dsaWBits (p : DsaP) : Nat := if p.g2 = 95232 then 6 else 4

/-- The masking vector of attempt counter kappa. -/
def dsaMask (p : DsaP) (seed : Bytes) (kappa : Nat) : List Poly :=
  (List.range p.l).map fun r =>
    (unpackBits (dsaZBits p) (shake 13 (32 * dsaZBits p) (seed ++ natLe 2 (kappa + r)))).map
      fun x => (p.g1 + dq - x) % dq

/-- Hints packed: positions, then the running counts. -/
def dsaHintPack (p : DsaP) (h : List (List Nat)) : Bytes :=
  padTo p.omega (h.flatten.map (BitVec.ofNat 8 ·))
    ++ (List.range p.k).map fun i => BitVec.ofNat 8 ((h.take (i + 1)).flatten.length)

/-- Positions strictly rising. -/
def rising : List Nat → Bool
  | a :: b :: t => decide (a < b) && rising (b :: t)
  | _ => true

/-- Hints unpacked, or nothing where malformed. -/
def dsaHintUnpack (p : DsaP) (b : Bytes) : Option (List (List Nat)) :=
  let ends := ((b.drop p.omega).take p.k).map (·.toNat)
  let pos := (b.take p.omega).map (·.toNat)
  let starts := 0 :: ends
  let hs := List.zipWith (fun s e => (pos.drop s).take (e - s)) starts ends
  let mono := (List.zipWith (fun s e => decide (s ≤ e)) starts ends).all id
  let last := ends.getLastD 0
  if mono && decide (last ≤ p.omega) && hs.all rising && (pos.drop last).all (· == 0) then some hs else none

/-- One attempt: the signature, when the candidate passes every check (FIPS 204, Sign_internal); nothing where its sampling
runs short (R180). -/
def dsaAttempt (p : DsaP) (a : List (List Poly)) (k : DsaKey) (mu seed : Bytes) (kappa : Nat) : Option (Option Bytes) :=
  let y := dsaMask p seed kappa
  let yn := y.map dsaNtt
  let w := a.map fun row => dsaIntt (dsaDot row yn)
  let w1 := w.map fun f => f.map fun x => (dsaDecompose p.g2 x).1
  let ct := shake 13 p.cLen (mu ++ w1.flatMap (packBits (dsaWBits p)))
  (dsaBall p ct).map fun c =>
    let cn := dsaNtt c
    let tm := fun f => dsaIntt (dsaMul cn (dsaNtt f))
    let z := List.zipWith (polyAdd dq) y (k.s1.map tm)
    let r := List.zipWith (polySub dq) w (k.s2.map tm)
    let c0 := k.t0.map tm
    let low := r.foldl (fun m f => f.foldl (fun b x => max b (dsaDecompose p.g2 x).2.natAbs) m) 0
    let rc := List.zipWith (polyAdd dq) r c0
    let hint := List.zipWith (fun f g =>
      (List.range 256).filter fun i =>
        decide ((dsaDecompose p.g2 (f.getD i 0)).1 ≠ (dsaDecompose p.g2 (g.getD i 0)).1)) r rc
    if dsaNorm z < p.g1 - p.beta ∧ low < p.g2 - p.beta ∧ dsaNorm c0 < p.g2 ∧ hint.flatten.length ≤ p.omega then
      some (ct ++ z.flatMap (fun f => packBits (dsaZBits p) (f.map fun x => (p.g1 + dq - x) % dq)) ++ dsaHintPack p hint)
    else none

/-- Attempts from number r on: the signature and the number that produced it (R196); nothing where sampling runs short or
the attempts are used up. -/
def dsaLoop (p : DsaP) (a : List (List Poly)) (k : DsaKey) (mu seed : Bytes) : Nat → Nat → Option (Bytes × Nat)
  | 0, _ => none
  | n + 1, r =>
    match dsaAttempt p a k mu seed (p.l * (r - 1)) with
    | none => none
    | some (some s) => some (s, r)
    | some none => dsaLoop p a k mu seed n (r + 1)

/-- A message with its context prefix. -/
def dsaMsg (ctx m : Bytes) : Bytes := [0, BitVec.ofNat 8 ctx.length] ++ ctx ++ m

/-- A signature and its attempt count, within 255 attempts (R196). -/
def dsaSign (p : DsaP) (xi ctx m rnd : Bytes) : Option (Bytes × Nat) :=
  (dsaExpand p xi).bind fun k => (dsaMatrix p k.rho).bind fun a =>
    let mu := shake 13 64 (shake 13 64 (dsaPublic k) ++ dsaMsg ctx m)
    dsaLoop p a k mu (shake 13 64 (k.k ++ rnd ++ mu)) 255 1

/-- A coefficient adjusted by its hint. -/
def dsaUse (g2 : Nat) (hint : Bool) (r : Nat) : Nat :=
  let m := (dq - 1) / (2 * g2)
  let d := dsaDecompose g2 r
  if hint then (if 0 < d.2 then (d.1 + 1) % m else (d.1 + m - 1) % m) else d.1

/-- Verification; nothing when sampling runs short. -/
def dsaVerify (p : DsaP) (pk sig ctx m : Bytes) : Option Bool :=
  let rho := pk.take 32
  let t1 := (List.range p.k).map fun i => unpackBits 10 (slice pk (32 + 320 * i) 320)
  let ct := sig.take p.cLen
  let zb := 32 * dsaZBits p
  let z := (List.range p.l).map fun i =>
    (unpackBits (dsaZBits p) (slice sig (p.cLen + zb * i) zb)).map fun x => (p.g1 + dq - x) % dq
  match dsaHintUnpack p (sig.drop (p.cLen + zb * p.l)) with
  | none => some false
  | some h =>
    (dsaMatrix p rho).bind fun a => (dsaBall p ct).map fun c =>
      let mu := shake 13 64 (shake 13 64 pk ++ dsaMsg ctx m)
      let cn := dsaNtt c
      let zn := z.map dsaNtt
      let w := List.zipWith (fun row t =>
        dsaIntt (polySub dq (dsaDot row zn) (dsaMul cn (dsaNtt (t.map fun x => x * 8192 % dq))))) a t1
      let w1 := List.zipWith (fun f hs => f.zipIdx.map fun x => dsaUse p.g2 (hs.contains x.2) x.1) w h
      decide (dsaNorm z < p.g1 - p.beta) && ct == shake 13 p.cLen (mu ++ w1.flatMap (packBits (dsaWBits p)))

end Sys2Proof.Machine
end

