-- ==== Sys2Proof/Machine/Engines.lean ====
section
/-!
DEFINITION. Public-key engines: durations (R189), random blocks (R191), the operations with their checks (R185-R187,
R193, R194, R196), raw modular operations (R202), start, end and collect (R177, R192, R197-R201).
-/
namespace Sys2Proof.Machine

/-! ## Durations (R189, R202) -/

/-- RSA public column by SIZE. -/
def rsaPubE (z : Nat) : Nat := if z = 1 then 260 else if z = 2 then 1000 else if z = 3 then 2260 else if z = 4 then 4000 else 16000

/-- RSA private columns by SIZE. -/
def rsaPrivE (z : Nat) (blind : Bool) : Nat :=
  if blind then (if z = 1 then 1410 else if z = 2 then 11250 else if z = 3 then 37970 else if z = 4 then 90000 else 720000)
  else if z = 1 then 1250 else if z = 2 then 10000 else if z = 3 then 33750 else if z = 4 then 80000 else 640000

/-- Finite-field DH by GROUP. -/
def dhE (g : Nat) (blind : Bool) : Nat :=
  if blind then (if g = 1 then 5630 else if g = 2 then 15300 else if g = 3 then 36000 else 216000)
  else if g = 1 then 5000 else if g = 2 then 13600 else if g = 3 then 32000 else 192000

/-- EC_KEYGEN and ECDH by CURVE; ed: the Edwards form. -/
def ecKeyE (c : Nat) (ed blind : Bool) : Nat :=
  if c = 1 then (if blind then 560 else 448) else if c = 2 then (if blind then 1890 else 1512)
  else if c = 3 then (if blind then 4760 else 3808)
  else if c = 4 then (if ed then (if blind then 420 else 336) else if blind then 400 else 320)
  else if ed then (if blind then 1260 else 1008) else if blind then 1200 else 960

/-- Signatures by CURVE; m tricks of message. -/
def ecSignE (c m : Nat) (blind : Bool) : Nat :=
  if c = 1 then (if blind then 640 else 512) else if c = 2 then (if blind then 2160 else 1728)
  else if c = 3 then (if blind then 5440 else 4352)
  else if c = 4 then (if blind then 480 else 384) + 2 * m else (if blind then 1440 else 1152) + 2 * m

/-- Verifications by CURVE. -/
def ecVerifyE (c m : Nat) : Nat :=
  if c = 1 then 896 else if c = 2 then 3024 else if c = 3 then 7616 else if c = 4 then 672 + m else 2016 + m

/-- ML-KEM by parameter set: key generation, encapsulation, decapsulation. -/
def kemE (p op : Nat) : Nat :=
  if op = 0x40 then (if p = 1 then 96 else if p = 2 then 144 else 208)
  else if op = 0x41 then (if p = 1 then 112 else if p = 2 then 168 else 240)
  else if p = 1 then 136 else if p = 2 then 200 else 280

/-- ML-DSA by parameter set: key generation, signature with a attempts, verification. -/
def dsaE (p op a m : Nat) : Nat :=
  if op = 0x43 then (if p = 1 then 160 else if p = 2 then 256 else 352)
  else if op = 0x44 then (if p = 1 then 96 + 128 * a else if p = 2 then 128 + 192 * a else 160 + 256 * a) + m
  else (if p = 1 then 144 else if p = 2 then 208 else 288) + m

/-- E of an engine descriptor; a the attempts of an ML-DSA signature. -/
def engineE (d : Desc) (blind : Bool) (a : Nat) : Nat :=
  let z := d.modeHi
  let c := d.modeLo
  let m := ceilDiv d.aux 64
  if d.op = 0x30 then rsaPubE z else if d.op = 0x31 then rsaPrivE z blind
  else if d.op = 0x32 ∨ d.op = 0x35 then rsaPubE z + 64
  else if d.op = 0x33 ∨ d.op = 0x34 then rsaPrivE z blind + 64
  else if d.op = 0x36 then rsaPrivE z blind + 16
  else if d.op = 0x37 then rsaPubE z + 16
  else if d.op = 0x38 ∨ d.op = 0x39 then dhE c blind
  else if d.op = 0x3A then ecKeyE c (bit d.mode 4) blind
  else if d.op = 0x3B ∨ d.op = 0x3E then ecSignE c m blind
  else if d.op = 0x3C ∨ d.op = 0x3F then ecVerifyE c m
  else if d.op = 0x3D then ecKeyE c false blind
  else if d.op ≤ 0x42 then kemE c d.op
  else dsaE c d.op a m

/-- E of a raw request (R202). -/
def rawE (p : Pkr) (blind : Bool) : Nat :=
  let small := decide (p.words.toNat ≤ 16)
  if p.op = 1 ∨ p.op = 2 then 8 else if p.op = 3 then (if small then 12 else 24)
  else if p.op = 6 then rsaPrivE (if small then 1 else 2) blind
  else if small then 4600 else 36000

/-- E of a request known when it starts; an ML-DSA signature's is known once its attempts are counted. -/
def ticketE (t : Ticket) (blind : Bool) (a : Nat) : Nat :=
  match t.raw with
  | some p => rawE p blind
  | none => engineE t.desc blind a

/-! ## Random blocks (R191) -/

/-- Blocks a blinded RSA private operation adds. -/
def rsaBlindBlocks (size : Nat) : Nat := ceilDiv (size + 64) 128 + 1

/-- Blocks of an operation's start. -/
def startBlocks (t : Ticket) (blind : Bool) : Nat :=
  let d := t.desc
  let c := d.modeLo
  let z := 8 * rsaBytes d
  match t.raw with
  | some p => 2 + (if p.op = 6 ∧ blind = true then rsaBlindBlocks (64 * p.words.toNat) else 0)
  | none =>
    2 + (if d.op = 0x32 ∨ d.op = 0x34 then ceilDiv (hashBytes d) 16
         else if d.op = 0x38 then (if c = 4 then 4 else 3)
         else if d.op = 0x3B then c + 2
         else if d.op = 0x3A then (if c ≤ 3 then c + 2 else if c = 4 then 2 else 4)
         else if d.op = 0x40 then 4
         else if d.op = 0x41 ∨ d.op = 0x43 then 2
         else if d.op = 0x44 ∧ bit d.mode 4 = true then 2
         else 0)
      + (if !blind then 0
         else if [0x31, 0x33, 0x34, 0x36].contains d.op then rsaBlindBlocks z
         else if [0x38, 0x39, 0x3A, 0x3B, 0x3D, 0x3E].contains d.op then 2 else 0)

/-- The operation's own share of its blocks, as bytes: the first two go to the mask generator. -/
def opBytes (x : Running) : Bytes := blockBytes (x.blocks.drop 2)

/-! ## Results -/

/-- What an operation ends with: its status and DETAIL, its output, and the value for the hand slot. -/
structure PkOut where
  st     : Status
  detail : BitVec 16
  out    : Bytes
  hand   : Option Bytes
  deriving DecidableEq, Repr

def pkDone (out : Bytes) : PkOut := { st := .done, detail := 0, out := out, hand := none }
def pkHand (out v : Bytes) : PkOut := { st := .done, detail := 0, out := out, hand := some v }
def pkEnd (st : Status) : PkOut := { st := st, detail := 0, out := [], hand := none }
/-- An output, or the first of the failed checks by rank (R193). -/
def pkCheck (fs : List Fail) (o : PkOut) : PkOut :=
  match worst fs with
  | some f => pkEnd f.1
  | none => o
/-- A verification's outcome (R194). -/
def pkVerdict (ok : Bool) : PkOut := pkEnd (if ok then .done else .mismatch)

/-! ## RSA (R185-R187, R193, R194) -/

/-- The public key and the rest of a public operation's input: n, e and what follows. -/
def rsaN (d : Desc) (b : Bytes) : Nat := beNat (b.take (rsaBytes d))
def rsaE (d : Desc) (b : Bytes) : Nat := beNat (slice b (rsaBytes d) 4)
def rsaRest (d : Desc) (b : Bytes) : Bytes := b.drop (rsaBytes d + 4)

/-- The checks on a public key. -/
def rsaPubFails (d : Desc) (b : Bytes) : List Fail :=
  let n := rsaN d b
  let e := rsaE d b
  need (decide (n % 2 = 1) && bitLen n (8 * rsaBytes d) && decide (e % 2 = 1) && decide (65537 ≤ e) && decide (e < 2 ^ 32))
    .rangeInvalid

/-- The private operation on a number: CRT, then the check against the public exponent (R181). -/
def rsaPrivate (k : Nat) (mat : Bytes) (x : Nat) : Option Nat :=
  let h := k / 2
  let f (i : Nat) : Nat := beNat (slice mat (k + 4 + h * i) h)
  let y := rsaCrt (f 0) (f 1) (f 2) (f 3) (f 4) x
  let n := beNat (mat.take k)
  if modPow y (beNat (slice mat k 4)) n = x then some y else none

/-- A private operation on bytes, with its range check. -/
def rsaPrivOut (k : Nat) (x : Running) (v : Nat) (f : Nat → PkOut) : PkOut :=
  let mat := x.key.getD []
  pkCheck (need (decide (0 < v) && decide (v < beNat (mat.take k))) .rangeInvalid)
    (match rsaPrivate k mat v with
      | some y => f y
      | none => pkEnd .internal)

/-- RSA_PUBLIC. -/
def opRsaPublic (x : Running) : PkOut :=
  let d := x.ticket.desc
  let b := x.ticket.input
  let n := rsaN d b
  let v := beNat (rsaRest d b)
  pkCheck (rsaPubFails d b ++ need (decide (0 < v) && decide (v < n)) .rangeInvalid)
    (pkDone (natBe (rsaBytes d) (modPow v (rsaE d b) n)))

/-- RSA_PRIVATE. -/
def opRsaPrivate (x : Running) : PkOut :=
  let k := rsaBytes x.ticket.desc
  rsaPrivOut k x (beNat x.ticket.input) fun y => pkDone (natBe k y)

/-- RSA_OAEP_ENCRYPT. -/
def opOaepEncrypt (x : Running) : PkOut :=
  let d := x.ticket.desc
  let b := x.ticket.input
  let em := oaepEncode d.modeLo (rsaBytes d) (rsaRest d b) ((opBytes x).take (hashBytes d))
  pkCheck (rsaPubFails d b) (pkDone (natBe (rsaBytes d) (modPow (beNat em) (rsaE d b) (rsaN d b))))

/-- RSA_OAEP_DECRYPT. -/
def opOaepDecrypt (x : Running) : PkOut :=
  let d := x.ticket.desc
  let k := rsaBytes d
  rsaPrivOut k x (beNat x.ticket.input) fun y =>
    match oaepDecode d.modeLo k (natBe k y) with
    | none => pkEnd .mismatch
    | some m => { st := .done, detail := BitVec.ofNat 16 m.length, out := if d.result = 1 then [] else m
                  hand := if d.result = 1 then some m else none }

/-- RSA_PSS_SIGN. -/
def opPssSign (x : Running) : PkOut :=
  let d := x.ticket.desc
  let k := rsaBytes d
  rsaPrivOut k x (beNat (pssEncode d.modeLo k x.ticket.input ((opBytes x).take (hashBytes d)))) fun y => pkDone (natBe k y)

/-- The encoding a signature opens to, with the checks of its operation. -/
def rsaOpen (x : Running) (ok : Bytes → Bytes → Bool) : PkOut :=
  let d := x.ticket.desc
  let b := x.ticket.input
  let k := rsaBytes d
  let dg := (rsaRest d b).take (hashBytes d)
  let v := beNat ((rsaRest d b).drop (hashBytes d))
  pkCheck (rsaPubFails d b ++ need (decide (0 < v) && decide (v < rsaN d b)) .rangeInvalid)
    (pkVerdict (ok dg (natBe k (modPow v (rsaE d b) (rsaN d b)))))

/-- RSA_PSS_VERIFY. -/
def opPssVerify (x : Running) : PkOut := rsaOpen x (pssCheck x.ticket.desc.modeLo (rsaBytes x.ticket.desc))

/-- RSA_V15_SIGN. -/
def opV15Sign (x : Running) : PkOut :=
  let d := x.ticket.desc
  let k := rsaBytes d
  rsaPrivOut k x (beNat (v15Encode d.modeLo k x.ticket.input)) fun y => pkDone (natBe k y)

/-- RSA_V15_VERIFY. -/
def opV15Verify (x : Running) : PkOut :=
  rsaOpen x fun dg em => em == v15Encode x.ticket.desc.modeLo (rsaBytes x.ticket.desc) dg

/-! ## Finite-field DH -/

/-- DH_KEYGEN: a private exponent of 2s bits with extra random bits (R187). -/
def opDhKeygen (x : Running) : PkOut :=
  let g := x.ticket.desc.modeLo
  let k := groupBytes g
  let n := dhExpBits g
  let e := beNat ((opBytes x).take ((n + 64) / 8)) % (2 ^ n - 1) + 1
  let y := natBe k (modPow 2 e (dhPrime g))
  pkHand y (natBe k e ++ y)

/-- DH_DERIVE. -/
def opDhDerive (x : Running) : PkOut :=
  let g := x.ticket.desc.modeLo
  let k := groupBytes g
  let p := dhPrime g
  let y := beNat x.ticket.input
  pkCheck (need (decide (2 ≤ y) && decide (y ≤ p - 2)) .rangeInvalid)
    (pkHand [] (natBe k (modPow y (beNat ((x.key.getD []).take k)) p)))

/-! ## Elliptic curves -/

/-- The base coordinates of X25519 and X448: 9 and 5. -/
def xPublic (c : Nat) (k : Bytes) : Bytes := if c = 4 then x25519 k (natLe 32 9) else x448 k (natLe 56 5)

/-- A computed point lies on its curve; the point at infinity does (R181). -/
def ptOk (cv : Curve) : Pt → Bool
  | none => true
  | some (x, y) => onCurve cv x y

/-- A result is released only when the check of R181 passes. The ladder of X25519 and X448 computes an abscissa alone, which
is one of the curve or of its twist (DEDUCED, log entry 150). -/
def pkReleased (ok : Bool) (o : PkOut) : PkOut := if ok then o else pkEnd .internal

/-- EC_KEYGEN. -/
def opEcKeygen (x : Running) : PkOut :=
  let d := x.ticket.desc
  let c := d.modeLo
  let r := opBytes x
  if c ≤ 3 then
    let cv := curveOf c
    let k := extraBits cv r
    let z := ptMul cv k (ptBase cv)
    let q := ptBytes cv z
    pkReleased (ptOk cv z) (pkHand q (natBe cv.f k ++ q))
  else if bit d.mode 4 then
    let seed := r.take (if c = 4 then 32 else 57)
    let a := edPublic (c == 5) seed
    pkReleased (edDecode (edCurve (c == 5)) a).isSome (pkHand a (seed ++ a))
  else
    let k := r.take (if c = 4 then 32 else 56)
    let q := xPublic c k
    pkHand q (k ++ q)

/-- The checks on a P-curve public input. -/
def pointFails (cv : Curve) (b : Bytes) : List Fail :=
  let q := ptCoords cv b
  need (byteAt b 0 == 4 && onCurve cv q.1 q.2) .pointInvalid
    ++ need (decide (q.1 < cv.p) && decide (q.2 < cv.p)) .rangeInvalid

/-- ECDSA_SIGN. -/
def opEcdsaSign (x : Running) : PkOut :=
  let cv := curveOf x.ticket.desc.modeLo
  let k := extraBits cv (opBytes x)
  let sg := ecdsaSign cv (beNat ((x.key.getD []).take cv.f)) k x.ticket.input
  pkReleased (ptOk cv (ptMul cv k (ptBase cv)) && decide (sg.1 ≠ 0) && decide (sg.2 ≠ 0))
    (pkDone (natBe cv.f sg.1 ++ natBe cv.f sg.2))

/-- ECDSA_VERIFY. -/
def opEcdsaVerify (x : Running) : PkOut :=
  let cv := curveOf x.ticket.desc.modeLo
  let b := x.ticket.input
  let r := beNat (slice b (1 + 2 * cv.f) cv.f)
  let v := beNat (slice b (1 + 3 * cv.f) cv.f)
  pkCheck (pointFails cv b ++ need (decide (0 < r) && decide (r < cv.n) && decide (0 < v) && decide (v < cv.n)) .rangeInvalid)
    (pkVerdict (ecdsaVerify cv (some (ptCoords cv b)) r v (b.drop (1 + 4 * cv.f))))

/-- ECDH. -/
def opEcdh (x : Running) : PkOut :=
  let c := x.ticket.desc.modeLo
  let b := x.ticket.input
  let mat := x.key.getD []
  if c ≤ 3 then
    let cv := curveOf c
    pkCheck (pointFails cv b)
      (match ptMul cv (beNat (mat.take cv.f)) (some (ptCoords cv b)) with
        | some z => pkReleased (ptOk cv (some z)) (pkHand [] (natBe cv.f z.1))
        | none => pkEnd .pointInvalid)
  else
    let z := if c = 4 then x25519 (mat.take 32) b else x448 (mat.take 56) b
    if allZero z then pkEnd .pointInvalid else pkHand [] z

/-- EDDSA_SIGN. -/
def opEddsaSign (x : Running) : PkOut :=
  let d := x.ticket.desc
  let big := d.modeLo == 5
  let n := if big then 57 else 32
  let mat := x.key.getD []
  let sg := edSign big (mat.take n) (mat.drop n) (if big then inlText d else []) x.ticket.input
  pkReleased (edDecode (edCurve big) (sg.take n)).isSome (pkDone sg)

/-- EDDSA_VERIFY. -/
def opEddsaVerify (x : Running) : PkOut :=
  let d := x.ticket.desc
  let big := d.modeLo == 5
  let n := if big then 57 else 32
  let b := x.ticket.input
  let cv := edCurve big
  let pub := b.take n
  let rb := slice b n n
  let v := leNat (slice b (2 * n) n)
  let a := edDecode cv pub
  let r := edDecode cv rb
  pkCheck (need (a.isSome && r.isSome) .pointInvalid ++ need (decide (v < cv.l)) .rangeInvalid)
    (pkVerdict (edVerify big (a.getD (0, 1)) (r.getD (0, 1)) v pub rb (if big then inlText d else []) (b.drop (3 * n))))

/-! ## ML-KEM and ML-DSA (R180, R193-R196) -/

/-- MLKEM_KEYGEN. -/
def opKemKeygen (x : Running) : PkOut :=
  let r := opBytes x
  match kemKeygen (kemP x.ticket.desc.modeLo) (r.take 32) with
  | some k => pkHand k.1 (r.take 64 ++ k.1)
  | none => pkEnd .internal

/-- MLKEM_ENCAPS. -/
def opKemEncaps (x : Running) : PkOut :=
  let p := kemP x.ticket.desc.modeLo
  let ek := x.ticket.input
  pkCheck (need (kemEkOk p ek) .rangeInvalid)
    (match kemEncaps p ek ((opBytes x).take 32) with
      | some v => pkHand v.1 v.2
      | none => pkEnd .internal)

/-- MLKEM_DECAPS: the hash check compares the stored encapsulation key with the one its seed expands to. -/
def opKemDecaps (x : Running) : PkOut :=
  let p := kemP x.ticket.desc.modeLo
  let mat := x.key.getD []
  match kemKeygen p (mat.take 32), kemDecaps p (mat.take 32) (slice mat 32 32) (mat.drop 64) x.ticket.input with
  | some k, some v => if k.1 == mat.drop 64 then pkHand [] v else pkEnd .rangeInvalid
  | _, _ => pkEnd .internal

/-- MLDSA_KEYGEN. -/
def opDsaKeygen (x : Running) : PkOut :=
  let xi := (opBytes x).take 32
  match dsaExpand (dsaP x.ticket.desc.modeLo) xi with
  | some k => pkHand (dsaPublic k) (xi ++ dsaPublic k)
  | none => pkEnd .internal

/-- MLDSA_SIGN: DETAIL holds the attempt that produced the signature; 255 attempts without one end INTERNAL. -/
def opDsaSign (x : Running) : PkOut :=
  let d := x.ticket.desc
  let rnd := if bit d.mode 4 then (opBytes x).take 32 else zeros 32
  match dsaSign (dsaP d.modeLo) ((x.key.getD []).take 32) (inlText d) x.ticket.input rnd with
  | some v => { pkDone v.1 with detail := BitVec.ofNat 16 v.2 }
  | none => pkEnd .internal

/-- MLDSA_VERIFY. -/
def opDsaVerify (x : Running) : PkOut :=
  let d := x.ticket.desc
  let b := x.ticket.input
  let n := dsaPk d.modeLo
  let z := dsaSig d.modeLo
  match dsaVerify (dsaP d.modeLo) (b.take n) (slice b n z) (inlText d) (b.drop (n + z)) with
  | some ok => pkVerdict ok
  | none => pkEnd .internal

/-! ## Raw modular operations (R202) -/

/-- A raw request. -/
def opRaw (x : Running) (p : Pkr) : PkOut :=
  let n := 8 * p.words.toNat
  let m := beNat (p.m.take n)
  let a := beNat (p.a.take n)
  let b := beNat (p.b.take n)
  if p.op = 6 then rsaPrivOut n x a fun y => pkDone (natBe n y)
  else
    let v := if p.op = 1 then (a + b) % m else if p.op = 2 then modSub a b m else if p.op = 3 then a * b % m
      else if p.op = 4 then modPow a b m else modInv a m
    pkCheck (need (decide (m % 2 = 1) && decide (2 ^ (8 * n - 64) ≤ m) && decide (a < m) && decide (b < m)
      && (p.op != 5 || decide (0 < a))) .rangeInvalid) (pkDone (natBe n v))

/-! ## Start, operation, end and collect -/

/-- ENGINE_START (R177, R191, R197): the start composed for this round begins; the mask generator takes its blocks. -/
def execEngineStart (deck : Fin 16) (s : State) : Out :=
  let k := deck.val
  let e := getEngine s k
  match e.start, e.run with
  | some x, none =>
    if running s && x.loaded && x.refused.isNone && decide (x.s ≤ s.round) then
      let bl := e.blind.at_ x.s
      let r : Running :=
        { ticket := x.ticket, s := x.s, e := ticketE x.ticket bl 0, key := x.key, blocks := x.blocks
          blind := bl, played := false, outcome := none, out := [], sent := 0, toHand := none }
      .next (setEngine s k { e with start := none, run := some r, mask := some (Config.opMask (x.blocks.take 2)), zeroed := false })
    else .next s
  | _, _ => .next s

/-- The result of an operation laid down with it; its duration is then known. -/
def playedRun (e : Engine) (x : Running) (o : PkOut) : Running :=
  let r := if o.st = .internal then 255 else o.detail.toNat
  { x with
    played := true, outcome := some (o.st, o.detail), out := o.out, toHand := o.hand
    e := ticketE x.ticket x.blind (max r (e.dsaPad.at_ x.s).toNat) }

/-- The effect of an engine opcode on the operation its engine runs. -/
def playOp (s : State) (k op : Nat) (f : Running → PkOut) : State :=
  match (getEngine s k).run with
  | some x =>
    if !x.played && x.ticket.raw.isNone && decide (x.ticket.desc.op = op) then
      modEngine s k fun e => { e with run := some (playedRun e x (f x)) }
    else s
  | none => s

/-- Words of an engine's operand memory that are beyond correction. -/
def operandBad (s : State) (k : Nat) : List Nat :=
  (s.prot.bad.filter fun e => decide (e.1 / 0x200000 = 0x110 + k) && e.2 == some true).map (·.1)

/-- Words of an engine's operand memory that hold an error. -/
def operandErrs (s : State) (k : Nat) : List Nat :=
  (s.prot.bad.filter fun e => decide (e.1 / 0x200000 = 0x110 + k)).map (·.1)

/-- Books of an operation that ended (R204). -/
def countEnd (s : State) (t : Ticket) (f : Fail) : State :=
  let s1 := if f.1 = .rangeInvalid ∨ f.1 = .pointInvalid then
      { s with cnt := { s.cnt with pkeInvalid := satAdd s.cnt.pkeInvalid 1 } } else s
  if t.raw = none ∧ t.desc.op = 0x44 ∧ f.1 = .done ∧ s1.cnt.dsaMax.toNat < f.2.toNat then
    { s1 with cnt := { s1.cnt with dsaMax := mkWord f.2.toNat } }
  else s1

/-- Output of an operation that is DONE, from an offset; true when a word it covers in part was beyond correction. -/
def unload (s : State) (t : Ticket) (f : Fail) (off : Nat) (out : Bytes) : State × Bool :=
  match f.1, flightBySeq s t.seat t.seq with
  | .done, some g =>
    let r := putTricks s t.seat g off out
    (freshWords r.1 (placeWords ((t.resvOut.drop (off / 64)).take (ceilDiv out.length 64))), r.2)
  | _, _ => (s, false)

/-- An engine's operand memory written to zero: its errors are gone (R177, R200, R201). -/
def zeroOperand (s : State) (k : Nat) : State :=
  modEngine (freshWords s (operandErrs s k)) k fun e => { e with zeroed := true, cleared := true }

/-- ENGINE_OPERATION_END (R177, R193, R198, R201): an operation has run its E rounds. Its output stands, its operand
memory is clear, and its status waits for the collect; under a freeze it is posted without a lane, decided in the freeze
round (R199). -/
def execEngineOperationEnd (deck : Fin 16) (s : State) : Out :=
  let k := deck.val
  match (getEngine s k).run with
  | some x0 =>
    let x := match x0.ticket.raw with
      | some p => playedRun (getEngine s k) x0 (opRaw x0 p)
      | none => x0
    if running s && x.played && decide (x.s + x.e ≤ s.round) then
      let bad := operandBad s k
      let s1 := touchWords s (operandErrs s k)
      let f0 : Fail := if bad.isEmpty then x.outcome.getD (.done, 0) else (.eccUncorrectable, 6)
      let r := unload s1 x.ticket f0 (64 * x.sent) (x.out.drop (64 * x.sent))
      let f : Fail := if r.2 then (.eccUncorrectable, 6) else f0
      let s2 := zeroOperand r.1 k
      let s3 := if f.1 = .eccUncorrectable then
          match flightBySeq s2 x.ticket.seat x.ticket.seq with
          | some g => dmaHalt s2 x.ticket.seat g 6
          | none => s2
        else s2
      let fin : Finished :=
        { ticket := { x.ticket with resvIn := [], resvOut := [] }, ended := x.s + x.e, status := f.1, detail := f.2
          toHand := if f.1 = .done then x.toHand else none }
      let s4 := modEngine (countEnd s3 x.ticket f) k fun e =>
        { e with run := none, mask := none, ended := e.ended ++ [fin], freeAt := x.s + x.e }
      .next (if s.dealer.frozen then postEnded s4 k s.dealer.frozeAt else s4)
    else .next s
  | none => .next s

/-- ENGINE_COLLECT (R198): the collect bound next, in its round: the status is posted and the ticket returned. -/
def execEngineCollect (deck : Fin 16) (s : State) : Out :=
  let k := deck.val
  let e := getEngine s k
  match e.colls, e.ended with
  | (l, c) :: cs, f :: fs =>
    if running s && decide (c ≤ s.round) then
      let r := placeFinished (setEngine s k { e with colls := cs, ended := fs, made := e.made ++ [(l, c)] }) f
      .next (endTicket r.1 k f.ticket r.2.1 r.2.2 c)
    else .next s
  | _, _ => .next s

/-! ## The commands of the engine opcodes -/

/-- RSA_PUBLIC. -/
def execRsaPublic (deck : Fin 16) (s : State) : Out := .next (playOp s deck.val 0x30 opRsaPublic)
/-- RSA_PRIVATE. -/
def execRsaPrivate (deck : Fin 16) (s : State) : Out := .next (playOp s deck.val 0x31 opRsaPrivate)
/-- RSA_OAEP_ENCRYPT. -/
def execRsaOaepEncrypt (deck : Fin 16) (s : State) : Out := .next (playOp s deck.val 0x32 opOaepEncrypt)
/-- RSA_OAEP_DECRYPT. -/
def execRsaOaepDecrypt (deck : Fin 16) (s : State) : Out := .next (playOp s deck.val 0x33 opOaepDecrypt)
/-- RSA_PSS_SIGN. -/
def execRsaPssSign (deck : Fin 16) (s : State) : Out := .next (playOp s deck.val 0x34 opPssSign)
/-- RSA_PSS_VERIFY. -/
def execRsaPssVerify (deck : Fin 16) (s : State) : Out := .next (playOp s deck.val 0x35 opPssVerify)
/-- RSA_V15_SIGN. -/
def execRsaV15Sign (deck : Fin 16) (s : State) : Out := .next (playOp s deck.val 0x36 opV15Sign)
/-- RSA_V15_VERIFY. -/
def execRsaV15Verify (deck : Fin 16) (s : State) : Out := .next (playOp s deck.val 0x37 opV15Verify)
/-- DH_KEYGEN. -/
def execDhKeygen (deck : Fin 16) (s : State) : Out := .next (playOp s deck.val 0x38 opDhKeygen)
/-- DH_DERIVE. -/
def execDhDerive (deck : Fin 16) (s : State) : Out := .next (playOp s deck.val 0x39 opDhDerive)
/-- EC_KEYGEN. -/
def execEcKeygen (deck : Fin 16) (s : State) : Out := .next (playOp s deck.val 0x3A opEcKeygen)
/-- ECDSA_SIGN. -/
def execEcdsaSign (deck : Fin 16) (s : State) : Out := .next (playOp s deck.val 0x3B opEcdsaSign)
/-- ECDSA_VERIFY. -/
def execEcdsaVerify (deck : Fin 16) (s : State) : Out := .next (playOp s deck.val 0x3C opEcdsaVerify)
/-- ECDH. -/
def execEcdh (deck : Fin 16) (s : State) : Out := .next (playOp s deck.val 0x3D opEcdh)
/-- EDDSA_SIGN. -/
def execEddsaSign (deck : Fin 16) (s : State) : Out := .next (playOp s deck.val 0x3E opEddsaSign)
/-- EDDSA_VERIFY. -/
def execEddsaVerify (deck : Fin 16) (s : State) : Out := .next (playOp s deck.val 0x3F opEddsaVerify)
/-- MLKEM_KEYGEN. -/
def execMlkemKeygen (deck : Fin 16) (s : State) : Out := .next (playOp s deck.val 0x40 opKemKeygen)
/-- MLKEM_ENCAPS. -/
def execMlkemEncaps (deck : Fin 16) (s : State) : Out := .next (playOp s deck.val 0x41 opKemEncaps)
/-- MLKEM_DECAPS. -/
def execMlkemDecaps (deck : Fin 16) (s : State) : Out := .next (playOp s deck.val 0x42 opKemDecaps)
/-- MLDSA_KEYGEN. -/
def execMldsaKeygen (deck : Fin 16) (s : State) : Out := .next (playOp s deck.val 0x43 opDsaKeygen)
/-- MLDSA_SIGN. -/
def execMldsaSign (deck : Fin 16) (s : State) : Out := .next (playOp s deck.val 0x44 opDsaSign)
/-- MLDSA_VERIFY. -/
def execMldsaVerify (deck : Fin 16) (s : State) : Out := .next (playOp s deck.val 0x45 opDsaVerify)

/-! ## An engine at a round boundary (R175, R176, R181, R197) -/

/-- The checks an engine's key load makes again on KEY0, and on the reserved target (R197). -/
def startFails (s : State) (t : Ticket) : List Fail :=
  let d := t.desc
  (match t.raw with
    | some p => if p.op = 6 then
        handFails s t.seat d.key0 0x0C01 0 ++ slotFails s d.key0 d.slot0 (fun k => k.type == 6 && bit k.usage uRaw) 0 0
      else []
    | none => keyFails s t.seat d
        ++ (if d.result = 1 then
          need (sget none (getHand s (handleHand d.key1)).resv d.slot1 == some t.seq) .policy 0x0803 else []))

/-- The key load of a start, in the round before it. -/
def loadStart (s : State) (k : Nat) : State :=
  match (getEngine s k).start with
  | some x =>
    if x.loaded || decide (s.round + 1 < x.s) then s
    else
      let t := x.ticket
      let keyed := match t.raw with | some p => p.op == 6 | none => engineKeyed t.desc.op
      let fs := startFails s t
      let gs := if keyed then loadGranules s (handleHand t.desc.key0) [t.desc.slot0] else []
      let s1 := countSuit (countDeny s t.seat t.seq fs) fs (gs.map storeTag)
      let ks := gs.flatMap storeWords
      let bad := anyBad s ks
      let s2 := touchWords s1 ks
      let s3 := match flightBySeq s2 t.seat t.seq with
        | some g => if bad then dmaHalt s2 t.seat g 6 else s2
        | none => s2
      let key := if keyed then (slotObj (getHand s (handleHand t.desc.key0)) t.desc.slot0).map (·.mat) else none
      modEngine s3 k fun e =>
        { e with start := some { x with
          loaded := true, refused := worst (fs ++ need (!bad) .eccUncorrectable 6), key := key } }
  | none => s

/-- A request refused at its load: its status is decided in its start round, and its blocks are cleared (R197). -/
def refuseStart (s : State) (k : Nat) : State :=
  match (getEngine s k).start with
  | some x =>
    match x.refused with
    | some f =>
      if x.s ≤ s.round then
        endTicket (modEngine s k fun e => { e with start := none, freeAt := x.s + 2 })
          k x.ticket f.1 f.2 x.s
      else s
    | none => s
  | none => s

/-- Input tricks an operation has loaded leave the pool, one a round (R175, R183). -/
def consumeStart (s : State) (k : Nat) : State :=
  match (getEngine s k).run with
  | some x =>
    let held := ceilDiv x.ticket.desc.l 64 - (s.round - x.s)
    let t := x.ticket
    modEngine s k fun e =>
      { e with run := some { x with ticket := { t with resvIn := t.resvIn.drop (t.resvIn.length - held) } } }
  | none => s

/-- The unload phase: one output trick a round, the last one ahead of the two clear rounds (R175, R177; DEDUCED, log entry
149). An error in operand memory stops it (R201). -/
def unloadTurn (s : State) (k : Nat) : State :=
  match (getEngine s k).run with
  | some x =>
    let n := ceilDiv x.out.length 64
    let due := min n (s.round + n + 3 - (x.s + x.e))
    if x.played && decide (x.sent < due) && (operandBad s k).isEmpty then
      let r := unload s x.ticket (x.outcome.getD (.done, 0)) (64 * x.sent) (slice x.out (64 * x.sent) (64 * (due - x.sent)))
      modEngine r.1 k fun e => { e with run := some { x with
        sent := due, outcome := if r.2 then some (.eccUncorrectable, 6) else x.outcome } }
    else s
  | none => s

/-- The two clear rounds of an operation: OP_MASK in the first, every word it used in the second (R177). -/
def clearTurn (s : State) (k : Nat) : State :=
  match (getEngine s k).run with
  | some x =>
    if durationKnown x && decide (x.s + x.e ≤ s.round + 2) then
      modEngine s k fun e => { e with mask := none, zeroed := e.zeroed || decide (x.s + x.e ≤ s.round + 1) }
    else s
  | none => s

/-- The engine held an operation in the round that has ended (R181). -/
def heldOp (s : State) (e : Engine) : Bool := e.run.any fun x => !durationKnown x || decide (s.round ≤ x.s + x.e)

/-- An aborted operation's words are zeroed within two rounds (R200), and an engine fills every round in which it holds no
operation (R181). -/
def idleEngine (s : State) (k : Nat) : State :=
  let e := getEngine s k
  let s1 := if !e.zeroed && e.run.isNone && decide (e.freeAt ≤ s.round) then zeroOperand s k else s
  modEngine s1 k fun e =>
    { e with fills := if !heldOp s e && e.idleFill.at_ (s.round - 1) then e.fills + 1 else e.fills }

end Sys2Proof.Machine
end

