-- ==== Sys2Proof/Machine/Dealer.lean ====
section
/-!
DEFINITION. The dealer (R45-R80): lane states, holds of hands (R61-R64, R151, R218), the choice of segments (R56-R59),
engine starts and collects (R60, R72, R74, R198), the shoe's grants (R242), cover and its refresh (R65-R71), and the
enabling of lanes (R75, R76).
-/
namespace Sys2Proof.Machine

/-! ## Lane states (R50, R75, R77, R78) -/

/-- Lanes are in HALT because of a freeze, or until the first sheet composed after it (R78). -/
def frozenLanes (s : State) : Bool :=
  (s.dealer.frozen && decide (s.dealer.frozeAt < s.round))
    || (decide (s.dealer.thawAt ≠ 0) && decide (s.round < s.dealer.thawAt + 2))

/-- A segment runs on the lane in round r. -/
def playsIn (ln : Lane) (r : Round) : Bool :=
  ln.binds.any fun b => decide (b.first ≤ r) && decide (r ≤ b.final) && (!b.posted || decide (b.final = r))

/-- The sheet of round r. -/
def sheetOf (s : State) (r : Round) : Option Sheet := s.dealer.sheets.find? fun h => h.round == r

/-- The class a lane's dummy mirrors in this round. -/
def dummyOf (s : State) (l : Nat) : Option Nat :=
  ((sheetOf s s.round).bind fun h => h.dummies.find? fun p => p.1 == l).map (·.2)

/-- The lane makes the collect round of an engine hand-off in round r: the epilogue of a segment (R53, R198). -/
def collectIn (s : State) (l : Nat) (r : Round) : Bool :=
  let e := getEngine s (l / 8)
  (e.colls ++ e.made).contains (l, r)

/-- The lane runs a segment in round r: its rounds, or the collect of a hand-off (R50, R53). -/
def busyIn (s : State) (l : Nat) (r : Round) : Bool := playsIn (getLane s l) r || collectIn s l r

/-- State of a lane in this round (R50). -/
def laneState (s : State) (l : Nat) : LaneState :=
  let ln := getLane s l
  if frozenLanes s || ((ln.fault || ln.playFault) && decide (ln.faultAt < s.round)) || ln.halted then .halt
  else if ln.drain then .drain
  else if busyIn s l s.round then .play
  else if (dummyOf s l).isSome then .dummy
  else .idle

/-- STATE of DEAL_LANE_STATE: PLAY and DUMMY read alike. -/
def LaneState.code : LaneState → Nat
  | .idle => 0 | .play => 1 | .dummy => 1 | .drain => 2 | .halt => 3

/-- DEAL_LANE_STATE of deck d. -/
def laneStateWord (s : State) (d : Nat) : Nat :=
  ((List.range 8).map fun j =>
    2 ^ (4 * j) * (8 * b2n (getLane s (8 * d + j)).pend + (laneState s (8 * d + j)).code)).sum

/-- Every segment bound to the lane ends by round r. -/
def doneBy (ln : Lane) (r : Round) : Bool := ln.binds.all fun b => b.posted || decide (b.final ≤ r)

/-- Every segment bound to the lane, and every collect, ends by round r. -/
def laneDone (s : State) (l : Nat) (r : Round) : Bool :=
  doneBy (getLane s l) r && (getEngine s (l / 8)).colls.all fun p => p.1 != l || decide (p.2 ≤ r)

/-- The lane's changes of state at the start of a round (R75, R76). -/
def laneTurn (s : State) (l : Nat) : State :=
  let ln := getLane s l
  let plays := busyIn s l s.round
  let idle := laneDone s l (s.round - 1)
  if !ln.en && !ln.halted then
    if idle && (ln.drain || decide (ln.enAt + 3 ≤ s.round)) then setLane s l { ln with halted := true, drain := false }
    else if plays && !ln.drain then setLane s l { ln with drain := true }
    else s
  else if ln.en && ln.drain && idle then setLane s l { ln with drain := false, pend := false }
  else if ln.en && ln.halted && decide (ln.enAt + 3 ≤ s.round) then setLane s l { ln with halted := false }
  else s

/-- One lane's bit of DEAL_LANE_EN after a write (R75, R76). -/
def enableLane (s : State) (l : Nat) (v : Bool) : State :=
  let ln := getLane s l
  if v = ln.en then s
  else setLane s l { ln with
    en := v, enAt := s.round, pend := v && ln.drain
    drain := ln.drain || (!v && busyIn s l s.round) }

/-- DEAL_LANE_EN of word w written. -/
def laneEnWrite (t : State) (w : Nat) (v : Word) : State :=
  (List.range 32).foldl (fun u i => enableLane u (32 * w + i) (bit v i)) t

/-- DEAL_LANE_EN (R75, R76, R80): word w holds the bits of lanes 32w to 32w + 31. -/
def execDealLaneEn (f : Func) (w : Fin 4) (v : Word) (s : State) : Out :=
  .next (pfWrite s f (0x20080 + 4 * w.val) fun t => laneEnWrite t w.val v)

/-- DEAL_LANE_EN of word w. -/
def laneEnWord (s : State) (w : Nat) : Nat := ((List.range 32).map fun i => 2 ^ i * b2n (getLane s (32 * w + i)).en).sum

/-! ## Messages and hands (R61-R64, R151, R162) -/

/-- The descriptor uses the message state of a hand (R62). -/
def usesState (d : Desc) : Bool := (opClass d.op).msg && (d.msg != 0 || decide (1 < segCount d))

/-- The hand whose message state or anchor a message opcode names: none for a HASH ONE (R162). -/
def stateHand (d : Desc) : Option Nat :=
  if (opClass d.op).msg && !(d.op == 0x20 && d.msg == 0) then some (handleHand d.key0) else none

/-- A hand is occupied: a descriptor that uses its message state is dealt or running (R62). -/
def occupied (s : State) (h : Nat) : Bool :=
  match openRec s h with
  | some m => m.2.occupant.isSome
  | none => false

/-- Some slot of a hand is reserved. -/
def handReserved (s : State) (h : Nat) : Bool := !(getHand s h).resv.isEmpty

/-- The opcodes of the third case of R62. -/
def acceptsStart (op : Nat) : Bool := [0x02, 0x03, 0x08, 0x09, 0x0C, 0x21, 0x22].contains op

/-- The descriptor starts a message, as its MSG is written. -/
def startsMsg (d : Desc) : Bool := d.msg == 1 || (d.msg == 0 && decide (1 < segCount d))

/-- The hold rule of R62 for a descriptor whose first segment is not bound. -/
def handHold (s : State) (d : Desc) : Bool :=
  match stateHand d with
  | none => false
  | some h =>
    let open_ := (openRec s h).isSome
    if usesState d then (if startsMsg d then open_ else occupied s h)
    else acceptsStart d.op && open_

/-- The role a descriptor will play, decided from the hand's state when it is bound (R163). -/
def roleOf (s : State) (d : Desc) : Role :=
  let c := opClass d.op
  let open_ := match stateHand d with | some h => (openRec s h).isSome | none => false
  if (c = .digest ∨ c = .keyedDigest) ∧ open_ = false then
    (if d.msg = 2 then .start else if d.msg = 3 then .one else msgRole d.msg)
  else msgRole d.msg

/-- The descriptor claims a migration record when it is bound (R151). -/
def claims (s : State) (d : Desc) : Bool :=
  (opClass d.op).msg && (match roleOf s d with
    | .start => true
    | .one => decide (1 < segCount d)
    | .cont | .finish => false)

/-- Held for its hand. -/
def heldHand (s : State) (g : Flight) : Bool := g.nextSeg == 0 && handHold s g.desc
/-- Held for want of a record (R151). -/
def heldRecord (s : State) (g : Flight) : Bool := g.nextSeg == 0 && claims s g.desc && recsFree s == 0

/-- A descriptor that used the hand's message state has its status decided in this round: the hand stays occupied
through it (R62). -/
def lastOccupied (s : State) (h : Nat) : Bool :=
  s.seats.any fun e => e.2.flights.any fun g =>
    usesState g.desc && stateHand g.desc == some h && g.role.isSome && g.decided.any fun d => decide (s.round ≤ d.round)

/-- HAND_FREE and SLOT_CLEAR wait for a hand in use (R218). -/
def heldService (s : State) (seat : Nat) (d : Desc) : Bool :=
  let h := handleHand d.key0
  (d.op == 0x51 || d.op == 0x52) && (handFails s seat d.key0 0 0).isEmpty
    && ((openRec s h).isSome || handReserved s h || lastOccupied s h)

/-- CTRL.ORDER of a descriptor and of those around it lets it be dealt (R93). -/
def orderOk (s : State) (i : Nat) (g : Flight) : Bool :=
  (getSeat s i).flights.all fun o =>
    !(decide (o.seq < g.seq) && o.decided.isNone && (g.desc.order || o.desc.order))

/-- A service descriptor is at its turn: no earlier service of the seat waits (R217). -/
def serviceTurn (s : State) (i : Nat) (g : Flight) : Bool :=
  (getSeat s i).flights.all fun o =>
    !(decide (o.seq < g.seq) && o.decided.isNone && (isService o.desc.op || isCeremony o.desc.op))

/-- Every kitty slot a descriptor names is locked. -/
def slotsIn (g : Flight) : Bool := g.locked || (kittyNamed g).isEmpty

/-- The next segment of a descriptor is staged (R43). -/
def staged (s : State) (g : Flight) : Bool :=
  g.checked && listsIn g && slotsIn g && decide (g.dealFrom ≤ s.round)
    && (g.reserved || (needIn g g.nextSeg == 0 && needOut g g.nextSeg == 0))
    && (decide (hostBytes (segSpans g g.nextSeg) = 0) || g.input.isSome)
    && (!wantsExpected g || g.expected.isSome)

/-- A descriptor that the hold rules keep, in this state (DEAL_HELD). R63 counts from the first round in which a descriptor
is held, and the manual does not say what else must hold of it then: it counts as held once its segment is staged and its
order in the seat lets it be dealt, so that the hold alone keeps it (DESIGN CHOICE, log entry 129). -/
def isHeld (s : State) (i : Nat) (g : Flight) : Bool :=
  g.decided.isNone && g.expired.isNone && g.checked && seatLive s i && orderOk s i g &&
    (if isService g.desc.op then serviceTurn s i g && slotsIn g && listsIn g && heldService s i g.desc
     else (opClass g.desc.op).lane && !g.running && staged s g && (heldHand s g || heldRecord s g))

/-- A held descriptor whose seat has halted stays held until its hold ends or its status is decided (R63, R112;
DEDUCED, log entry 128). -/
def haltedHeld (s : State) (i : Nat) (g : Flight) : Bool :=
  g.decided.isNone && g.expired.isNone && g.heldFrom.isSome && !seatLive s i &&
    (if isService g.desc.op then heldService s i g.desc else heldHand s g || heldRecord s g)

/-- DEAL_HELD. -/
def heldCount (s : State) : Nat :=
  (s.seats.map fun e => (e.2.flights.filter fun g => isHeld s e.1 g || haltedHeld s e.1 g).length).sum

/-! ## Composing a sheet -/

/-- A lane in DRAIN or HALT in round r + 2 is dealt nothing; others are free once their segments end (R51, R56). -/
def laneFree (s : State) (l : Nat) : Bool :=
  let ln := getLane s l
  ln.en && !ln.drain && !ln.fault && !ln.playFault && laneDone s l (s.round + 1)

/-- The lane holds a ticket in round r + 2, or may hold one: a request of it waits, runs or has its collect in round r + 2
or later, or a hand-off or an applet bound to it has not ended (R72). -/
def holdsTicket (s : State) (l : Nat) : Bool :=
  let e := getEngine s (l / 8)
  let ran := e.ended.map (·.ticket) ++ (match e.run with | some x => [x.ticket] | none => [])
  let past := (e.colls.filter fun p => decide (p.2 < s.round + 2)).length
  (ran.drop past ++ e.queue ++ (match e.start with | some x => [x.ticket] | none => [])).any (fun t => t.lane == l)
    || (getLane s l).binds.any fun b => !b.posted && (b.handOff || b.applet)

/-- The lane may take a segment of this descriptor in round r + 2: one that may place a request needs a lane without a
ticket, since each lane holds at most one (R72; DEDUCED for applets, log entry 127). -/
def laneTakes (s : State) (d : Desc) (l : Nat) : Bool :=
  laneFree s l && !((opClass d.op = .engine || opClass d.op = .applet) && holdsTicket s l)

/-- The lane is in HALT in round r + 2. -/
def haltSoon (s : State) (l : Nat) : Bool :=
  let ln := getLane s l
  s.dealer.frozen || ln.fault || ln.playFault || (!ln.en && laneDone s l (s.round + 1))

/-- Rotated index order of the lanes of a deck (R59). -/
def rotLanes (s : State) (d : Nat) : List Nat := (List.range 8).map fun j => 8 * d + (j + s.dealer.lanePtr) % 8
/-- Decks from DEAL_DECK_PTR.DECK on. -/
def rotDecks (s : State) : List Nat := (List.range 16).map fun d => (d + s.dealer.deckPtr) % 16

/-- DEAL_COVER of deck d. -/
def coverWord (s : State) (d : Nat) : Word := sget 0 s.dealer.cover d
def coverLevel (s : State) (d : Nat) : Nat := fld (coverWord s d) 1 0

/-- A deck has too few lanes out of HALT for its level (R68). -/
def deckDeficit (s : State) (d : Nat) : Bool :=
  let n := ((List.range 8).filter fun j => !haltSoon s (8 * d + j)).length
  let lv := coverLevel s d
  if lv = 0 then false else if lv = 1 then decide (n < 4) else decide (n < 8)

/-- pick_lane (R59). -/
def pickLane (s : State) (x : Seat) (d : Desc) : Option Nat :=
  ((rotDecks s).filter fun k => bit x.decks k && !(secretKeyed d && deckDeficit s k)).findSome? fun k =>
    (rotLanes s k).find? (laneTakes s d)

/-- Header and first state of a record claimed by a descriptor (R151, R152). -/
def newRec (s : State) (i : Nat) (g : Flight) : MigRec where
  opcode := g.desc.opcode
  mode := g.desc.mode
  decrypt := g.desc.decrypt
  key1Used := g.desc.key1Used
  key0 := g.desc.key0
  key1 := g.desc.key1
  keySlots := g.desc.keySlots
  openSeat := i
  aadBytes := 0
  msgBytes := 0
  openRound := s.round
  saves := 0
  st := .reset
  suit := match stateHand g.desc with | some h => (getHand s h).suit | none => (getSeat s i).suit
  hand := stateHand g.desc
  isOpen := true
  occupant := some g.seq
  occEnd := none

/-- The record of a descriptor's first segment: claimed, or that of its hand's open message. -/
def takeRecord (s : State) (i : Nat) (g : Flight) : State × Option Nat :=
  if claims s g.desc then
    let k := (lowestFree (s.records.map (·.1)) 1 (s.records.length + 1) 0).headD 0
    let m := newRec s i g
    (freshWords (tagGranules (setRec s k (some m)) (granule (recAddr k)) 8 m.suit) (wkeys (recAddr k) 512), some k)
  else if usesState g.desc then
    match (stateHand g.desc).bind (openRec s) with
    | some m => (setRec s m.1 (some { m.2 with occupant := some g.seq, occEnd := none }), some m.1)
    | none => (s, none)
  else (s, none)

/-- A segment bound to a lane for round r + 2 (R45, R49). -/
def bindSeg (s : State) (i : Nat) (g : Flight) (l : Nat) : State :=
  let d := g.desc
  let j := g.nextSeg
  let role := g.role.getD (roleOf s d)
  let t := if j = 0 then takeRecord s i g else (s, g.record)
  let m0 := match t.2.bind (getRec t.1) with | some m => m.msgBytes - payBefore d j | none => 0
  let c := opClass d.op
  let b : Binding :=
    { seat := i, seq := g.seq, desc := d, seg := j
      tricks := if c = .engine then 0 else segTricks d j
      firstSeg := role.opens && decide (j = 0), lastSeg := role.closes && decide (j + 1 = segCount d), role := role, record := t.2
      bound := s.round, first := s.round + 2, final := s.round + 1 + segDuration s d role j m0
      prologue := segPrologue s d role j, secret := secretKeyed d, handOff := decide (c = .engine)
      applet := decide (c = .applet), loaded := false, refused := none, key0 := none, key1 := none
      suit := (getSeat s i).suit, input := g.input.getD [], expected := g.expected, played := false, outcome := none
      entry := playEntry t.1 d role j (segPads d role j m0), info := 0, after := none, toHand := none, out := [], outBase := g.outPos, drained := 0
      resvIn := g.resvIn, resvOut := g.resvOut, posted := false, cleared := false }
  let s1 := modLane t.1 l fun ln => { ln with binds := ln.binds ++ [b] }
  modFlight s1 i g.seq fun x =>
    { x with running := true, nextSeg := j + 1, input := none, expected := none, resvIn := [], resvOut := []
             reserved := false, role := some role, record := t.2, heldFrom := none, heldRec := false }

/-- Blocks of a RANDOM or KEY_GEN descriptor (R240). -/
def blocksOf (d : Desc) : Nat :=
  if d.op = 0x60 then ceilDiv d.l 16 else ceilDiv (leField d.inl 0 2) 16

/-- KEY_GEN's own fields are legal, so that it draws its blocks (R208, R216). -/
def keyGenLegal (d : Desc) : Bool :=
  lenLegal d.modeHi (leField d.inl 0 2) && d.modeLo == 0 && inlClear d 2

/-- A RANDOM or KEY_GEN descriptor that waits for its blocks alone (R242, R243). -/
def wantsBlocks (s : State) (i : Nat) (g : Flight) : Bool :=
  g.decided.isNone && g.granted.isNone && g.checked && seatLive s i && orderOk s i g && listsIn g && slotsIn g
    && decide (g.dealFrom ≤ s.round)
    && ((g.desc.op == 0x60 && mayReserve s i g (needRandomOut g))
        || (g.desc.op == 0x53 && keyGenLegal g.desc && serviceTurn s i g))
where
  /-- Output tricks of a RANDOM: none where its destination lies in the kitty (R109, R242). -/
  needRandomOut (g : Flight) : Nat := if (dstSpans g).all (·.kitty) then 0 else ceilDiv g.desc.l 64

/-- A grant of blocks made in this round. -/
def grantBlocks (s : State) (i : Nat) (g : Flight) : State :=
  let n := if g.desc.op = 0x60 then wantsBlocks.needRandomOut g else 0
  let ps := poolTake s n
  let s1 := modFlight (tagPlaces s ps (getSeat s i).suit) i g.seq fun x =>
    { x with granted := some s.round, blocks := nextBlocks s (blocksOf g.desc), resvOut := ps, waitFrom := none }
  shoeReserve { s1 with dealer := { s1.dealer with grants := s1.dealer.grants ++ [(i, g.seq)] } } (blocksOf g.desc)

/-- One grant to a seat, if one of its descriptors can have it: its flights in fetch order, with the hands that earlier
held ones keep (R57). -/
def grantFrom (s : State) (i : Nat) : List Flight → List Nat → Option State
  | [], _ => none
  | g :: t, kept =>
    let d := g.desc
    if g.decided.isSome || g.expired.isSome then grantFrom s i t kept
    else if d.op = 0x60 ∨ d.op = 0x53 then
      if wantsBlocks s i g && shoeHas s (blocksOf d) then some (grantBlocks s i g)
      else if d.op = 0x53 ∨ g.granted.isSome then grantFrom s i t kept
      else none
    else if !(opClass d.op).lane then grantFrom s i t kept
    else if decide (segCount d ≤ g.nextSeg) then grantFrom s i t kept
    else if g.running || !staged s g || !orderOk s i g then none
    else if heldHand s g || heldRecord s g || (handsNamed d).any kept.contains then
      grantFrom s i t (handsNamed d ++ kept)
    else if secretKeyed d && s.dealer.rngHold then grantFrom s i t (handsNamed d ++ kept)
    else match pickLane s (getSeat s i) d with
      | some l => some (bindSeg s i g l)
      | none => none

/-- One grant to a seat whose weight reaches this pass. -/
def grantSeat (s : State) (i p : Nat) : Option State :=
  let x := getSeat s i
  if decide (p ≤ x.weight) && seatLive s i then grantFrom s i x.flights [] else none

/-- One pass over the seats; true when something was granted. -/
def dealPass (p : Nat) : List Nat → State → State × Bool
  | [], s => (s, false)
  | i :: t, s =>
    match grantSeat s i p with
    | some s1 => ((dealPass p t s1).1, true)
    | none => dealPass p t s

/-- The passes of R56, from pass p on. R56 ends a pass when no lane is free; a RANDOM or KEY_GEN grant takes no lane, and is
still made then (DESIGN CHOICE, log entry 130). -/
def dealPasses (seats : List Nat) : Nat → Nat → State → State
  | 0, _, s => s
  | n + 1, p, s =>
    let r := dealPass p seats s
    if r.2 then dealPasses seats n (p + 1) r.1 else r.1

/-- Segments and random grants of the sheet (R56). -/
def dealSegments (s : State) : State := dealPasses (rotSeats s) 15 1 s

/-! ## Engine starts and collects (R60, R72, R74, R198) -/

/-- The engine is free for a start in round r + 2. -/
def engineFree (s : State) (e : Engine) : Bool :=
  e.start.isNone && decide (e.freeAt ≤ s.round + 2) &&
    (match e.run with
      | some x => durationKnown x && decide (x.s + x.e ≤ s.round + 2)
      | none => true)

/-- The request at the head of a deck's queue gets its start for round r + 2, or waits for its blocks. -/
def placeStart (s : State) (k : Nat) : State :=
  let e := getEngine s k
  match e.queue with
  | [] => s
  | t :: rest =>
    if engineFree s e && decide (t.q ≤ s.round) then
      let n := startBlocks t (e.blind.at_ (s.round + 2))
      if shoeHas s n then
        shoeReserve (setEngine s k { e with
          queue := rest
          start := some { ticket := t, s := s.round + 2, blocks := nextBlocks s n, loaded := false, refused := none, key := none } }) n
      else setEngine s k { e with queue := { t with waitFrom := some (t.waitFrom.getD s.round) } :: rest }
    else s

/-- Operations that have ended, or end in time for a collect in round r + 2. -/
def endedSoon (s : State) (e : Engine) : Nat :=
  e.ended.length + (match e.run with
    | some x => b2n (durationKnown x && decide (x.s + x.e ≤ s.round + 2))
    | none => 0)

/-- Collects of a deck bound for round r + 2, each to the free lane of lowest rotated index (R198). -/
def bindCollects (s : State) (k : Nat) : State :=
  let e := getEngine s k
  let pend := endedSoon s e
  let keep := e.colls.take pend
  let ls := ((rotLanes s k).filter (laneFree s)).take (pend - keep.length)
  setEngine s k { e with
    colls := keep ++ ls.map fun l => (l, s.round + 2), made := e.made.filter fun p => decide (s.round ≤ p.2) }

/-! ## Cover (R65-R71) -/

/-- The segment a lane plays in round r + 2. -/
def nextPlay (s : State) (l : Nat) : Option Binding :=
  (getLane s l).binds.find? fun b => !b.posted && decide (b.first ≤ s.round + 2) && decide (s.round + 2 ≤ b.final)

/-- Dummies of a deck in the sheet for round r + 2 (R66, R67, R69). -/
def coverDeck (s : State) (k : Nat) : List (Nat × Nat) :=
  let lanes := (List.range 8).map (8 * k + ·)
  let secret := lanes.filterMap fun l => (nextPlay s l).filter (·.secret)
  let active := (lanes.filter fun l =>
    (nextPlay s l).isSome || collectIn s l (s.round + 2)).length
  let lv := coverLevel s k
  let want := if lv = 3 then 8 else if secret.isEmpty then 0 else if lv = 2 then 8 else if lv = 1 then 4 else 0
  let idle := ((rotLanes s k).filter (laneFree s)).take (want - active)
  idle.zipIdx.map fun p =>
    (p.1, match secret[p.2 % max 1 secret.length]? with
      | some b => 8 + b.desc.op
      | none => fld (coverWord s k) 10 8)

/-- The lane refreshed by this sheet: the next one in rotation over decks with LEVEL 1 or more (R70, R71). -/
def refreshLane (s : State) : Option Nat :=
  if decide (s.rng.level < 64) || !shoeHas s 4 then none
  else ((List.range 128).map fun i => (i + s.dealer.refreshAt) % 128).find? fun l => decide (1 ≤ coverLevel s (l / 8))

/-- COVER_DEFICIT after this sheet, with its interrupt on a change (R68). -/
def deficits (s : State) : State :=
  let v : BitVec 16 := BitVec.ofNat 16 ((List.range 16).map fun d => 2 ^ d * b2n (deckDeficit s d)).sum
  let s1 := { s with dealer := { s.dealer with deficit := v } }
  if v = s.dealer.deficit then s1 else raiseAll s1 21

/-- Cover and refresh of the sheet for round r + 2. -/
def composeCover (s : State) : State :=
  let ds := if s.dealer.rngHold then [] else (List.range 16).flatMap (coverDeck s)
  let rf := if s.dealer.rngHold then none else refreshLane s
  let s1 := { s with dealer := { s.dealer with
    sheets := s.dealer.sheets ++ [{ round := s.round + 2, dummies := ds, refresh := rf, seed := if rf.isSome then nextBlocks s 4 else [] }]
    refreshAt := match rf with | some l => (l + 1) % 128 | none => s.dealer.refreshAt } }
  if rf.isSome then shoeReserve s1 4 else s1

/-! ## Marks of waiting (R63, R151, R243) -/

/-- A hold that has ended leaves no mark; one that has lasted HAND_WAIT_LIMIT rounds fails its descriptor, decided in the
last of them, so that it is not dealt any more (R63). -/
def dropHolds (s : State) (i : Nat) : State :=
  let held (g : Flight) : Bool := isHeld s i g || haltedHeld s i g
  modFlights s i (fun g => g.heldFrom.isSome && g.expired.isNone) fun g =>
    { g with
      heldFrom := if held g then g.heldFrom else none
      expired := if held g && g.heldFrom.any (fun h => decide (h + s.dealer.waitLim ≤ s.round)) then some (s.round - 1)
        else none }

/-- First rounds of holds and of waits for blocks. -/
def markWaits (s : State) (i : Nat) : State :=
  let hold (g : Flight) : Bool := g.heldFrom.isNone && isHeld s i g
  let want (g : Flight) : Bool := g.heldRec == false && isHeld s i g && heldRecord s g && (opClass g.desc.op).lane
  let wait (g : Flight) : Bool := g.waitFrom.isNone && wantsBlocks s i g && !shoeHas s (blocksOf g.desc)
  let n := ((getSeat s i).flights.filter want).length
  let s1 := { s with cnt := { s.cnt with migWait := satAdd s.cnt.migWait n } }
  modFlights s1 i (fun g => hold g || want g || wait g) fun g =>
    { g with
      heldFrom := if hold g then some s.round else g.heldFrom
      heldRec := g.heldRec || want g
      waitFrom := if wait g then some s.round else g.waitFrom }

/-! ## House draws (R60, R74, R240, R243) -/

/-- The grants of this sheet as they stand, the last one first. -/
def lastGrants (s : State) : List (Nat × Flight) :=
  s.dealer.grants.reverse.filterMap fun p =>
    (((getSeat s p.1).flights.find? fun g => g.seq == p.2).filter fun g =>
      g.decided.isNone && g.granted == some s.round).map fun g => (p.1, g)

/-- The engine starts of this sheet, the last deck in the order of R74 first. -/
def lastStarts (s : State) : List (Nat × Start) :=
  (rotDecks s).reverse.filterMap fun k =>
    ((getEngine s k).start.filter fun x => decide (x.s = s.round + 2)).map fun x => (k, x)

/-- The cover refresh of the sheet composed in this round. -/
def newRefresh (s : State) : Option Sheet := (sheetOf s (s.round + 2)).filter fun h => h.refresh.isSome

/-- Blocks that consumers behind the house draws hold in this round's sheet. -/
def yieldable (s : State) : Nat :=
  ((newRefresh s).map (·.seed.length)).getD 0 + ((lastGrants s).map (·.2.blocks.length)).sum
    + ((lastStarts s).map (·.2.blocks.length)).sum

/-- The last consumer of this round's sheet gives its blocks back and waits: the cover refresh, else a grant, else an engine
start (R60, R74). -/
def yieldLast (s : State) : State :=
  match newRefresh s, lastGrants s, lastStarts s with
  | some h, _, _ =>
    shoeReturn { s with dealer := { s.dealer with
      refreshAt := h.refresh.getD s.dealer.refreshAt
      sheets := s.dealer.sheets.map fun c => if c.round = h.round then { c with refresh := none, seed := [] } else c } } h.seed
  | none, p :: _, _ =>
    shoeReturn (modFlight s p.1 p.2.seq fun g =>
      { g with granted := none, blocks := [], resvOut := [], waitFrom := some s.round }) p.2.blocks
  | none, [], p :: _ =>
    shoeReturn (modEngine s p.1 fun e =>
      { e with
        start := none
        queue := { p.2.ticket with waitFrom := some (p.2.ticket.waitFrom.getD s.round) } :: e.queue }) p.2.blocks
  | none, [], [] => s

/-- Consumers of this round's sheet yield, the last first, until n blocks are free. -/
def yieldFor (n : Nat) : Nat → State → State
  | 0, s => s
  | k + 1, s => if n ≤ s.rng.shoe.length then s else yieldFor n k (yieldLast s)

/-- The shoe can supply a house draw of n blocks in this round, ahead of every other consumer (R74, R227, R243). -/
def houseHas (s : State) (n : Nat) : Bool :=
  decide (n ≤ s.rng.shoe.length + yieldable s) && decide (s.rng.st = .run)

/-- The shoe with n blocks free for a house draw: a sheet composed earlier in the round stands back (R60). -/
def houseRoom (s : State) (n : Nat) : State := yieldFor n (1 + s.dealer.grants.length + s.engines.length) s

/-- The rearm of the store takes its blocks ahead of every other consumer (R227, R243). -/
def rearmDraw (s : State) : State :=
  if s.keys.rearm.isSome && s.keys.rearmRes.isNone && houseHas s 3 then
    let s1 := houseRoom s 3
    shoeReserve { s1 with keys := { s1.keys with rearmRes := some s.round, rearmBlk := nextBlocks s1 3 } } 3
  else s

/-- Occupations that have ended (R62). -/
def dropOccupants (s : State) : State :=
  s.records.foldl (fun t e => match e.2 with
    | some m => match m.occEnd with
      | some r => if r < t.round then setRec t e.1 (some { m with occupant := none, occEnd := none }) else t
      | none => t
    | none => t) s

/-- The sheet for round r + 2, composed in round r (R45, R60). Under a freeze nothing is composed: the grants of RANDOM and
KEY_GEN and the cover refresh stop with the segments, dummies and engine starts that R78 names (DESIGN CHOICE, log entry
131). -/
def compose (s : State) : State :=
  let s1 := dropOccupants { s with dealer := { s.dealer with grants := [] } }
  let s2 := eachSeat s1 dropHolds
  let s3 := rearmDraw s2
  if s3.dealer.frozen then deficits s3
  else
    let s4 := (rotDecks s3).foldl placeStart s3
    let s5 := eachEngine s4 bindCollects
    let s6 := composeCover (dealSegments s5)
    deficits (eachSeat s6 markWaits)

/-! ## Dummy tricks (R69, R70) -/

/-- A lane's dummy key and chain after the refresh its sheet carries. -/
def refreshTurn (s : State) : State :=
  match (sheetOf s s.round).bind fun h => h.refresh.map fun l => (l, h.seed) with
  | some (l, bs) =>
    let seed := blockBytes (bs.drop 2)
    modLane s l fun ln =>
      { ln with banks := { ln.banks with
          dummy := some (bankPut (maskOf s ln 4) false (blockBytes (bs.take 2)) 0 false), chain := seed ++ seed
          mask := (bs.drop 2 ++ ln.banks.mask).take 4 } }
  | none => s

/-- The body microword that a dummy of a class runs: the class's own, on the dummy bank and the chain, without output; its
GHASH or digest step takes the output (R137). -/
def dummyWord (s : State) (l cls : Nat) : Micro :=
  let i := match s.dealer.plays with
    | some img => (Config.bodyWord img cls).toNat
    | none => 0
  let m := microAt s l i
  { m with kb := 2, inp := 4, out := 0, gh := if m.gh = 0 then 0 else 2, din := if m.dg = 0 then 0 else 2 }

/-- The descriptor a dummy of a class plays under: none but its MODE. -/
def dummyDesc (cls : Nat) : Desc := { parseDesc (zeros 64) with mode := Config.dummyMode cls }

/-- One dummy trick: its output is the next one's input. The key of a dummy played before the lane's first refresh, or after
an erase cleared its dummy bank, is 32 zero bytes (DESIGN CHOICE, log entry 132). -/
def dummyTurn (s : State) (p : Nat × Nat) : State :=
  if laneState s p.1 = .dummy then
    modLane s p.1 fun ln =>
      let r := microEval ln (dummyDesc p.2) [] none (dummyWord s p.1 p.2)
      { ln with dp := r.1, banks := { ln.banks with chain := padTo 64 r.2 } }
  else s

/-- The dummy tricks of this round. -/
def dummies (s : State) : State :=
  match sheetOf s s.round with
  | some h => h.dummies.foldl dummyTurn s
  | none => s

/-- Sheets of earlier rounds are gone. -/
def dropSheets (s : State) : State :=
  { s with dealer := { s.dealer with sheets := s.dealer.sheets.filter fun h => decide (s.round ≤ h.round) } }

/-- The three rotation pointers advance every round (R56, R59). -/
def turnPointers (s : State) : State :=
  { s with dealer := { s.dealer with
    tiePtr := (s.dealer.tiePtr + 1) % Config.seats
    deckPtr := (s.dealer.deckPtr + 1) % 16
    lanePtr := (s.dealer.lanePtr + 1) % 8 } }

/-- The lane is dealt for the round after this one: a first round, a collect or a dummy trick (R45, R52). -/
def dealtNext (s : State) (l : Nat) : Bool :=
  !frozenLanes s && !s.dealer.frozen &&
    ((getLane s l).binds.any (fun b => decide (b.first = s.round + 1)) || collectIn s l (s.round + 1)
      || ((sheetOf s (s.round + 1)).any fun h => h.dummies.any fun p => p.1 == l))

/-- Decks whose fast clocks run in this round: a lane of theirs plays, or is dealt for the next round (R52, R378). -/
def deckClocks (s : State) : BitVec 16 :=
  BitVec.ofNat 16 ((List.range 16).map fun d =>
    2 ^ d * b2n (!s.power.gateEn.at_ s.round || (List.range 8).any fun j =>
      let st := laneState s (8 * d + j)
      decide (st = .play) || decide (st = .dummy) || decide (st = .drain) || dealtNext s (8 * d + j))).sum

/-! ## The end of a hold (R63) -/

/-- HAND_WAIT_EXPIRY (R63): a descriptor whose hold has outlasted HAND_WAIT_LIMIT rounds fails with HAND_BUSY, decided in
the last of them; its slots return in the next round, that of its completion (R123). -/
def execHandWaitExpiry (seat : Fin 8192) (sq : Nat) (s : State) : Out :=
  match flightBySq s seat.val sq fun g => g.decided.isNone && g.expired.isSome with
  | some g =>
    match g.expired with
    | some r =>
      if running s then
        .next (decide_ (releaseFlight s g.seq) seat.val g.seq .handBusy 0 r (isService g.desc.op))
      else .next s
    | none => .next s
  | none => .next s

end Sys2Proof.Machine
end

