-- ==== Sys2Proof/Machine/Keys.lean ====
section
/-!
DEFINITION. Operations house firmware and the dealer carry out without a lane: NOP (R94), RANDOM (R241, R242), the hand
services (R216-R221), and the commands of the KEYS block (R224, R227).
-/
namespace Sys2Proof.Machine

/-- House firmware runs. -/
def houseUp (s : State) : Bool := s.house.running && !s.house.fatal && running s

/-- A status of an operation of house firmware, decided in this round with FLAGS.HOUSE (R217). -/
def endHouse (s : State) (i : Nat) (g : Flight) (f : Fail) : State := decide_ s i g.seq f.1 f.2 s.round true

/-- An operation that commits in this round, its output written; a bad word the output covers in part halts the seat
(R318). -/
def commitHouse (s : State) (i : Nat) (g : Flight) (out : Bytes) : State :=
  let r := putTricks s i g 0 out
  if r.2 then endHouse (dmaHalt r.1 i g 6) i g (.eccUncorrectable, 6) else endHouse r.1 i g (.done, 0)

/-- The checks of an operation: those of R210, counted in KEYS_DENY_CNT, and the others; then the words it reads of the
key store; then its commit. -/
def serve (s : State) (i : Nat) (g : Flight) (keyed other : List Fail) (grans : List Nat) (commit : State → State × Bytes) :
    State :=
  let suit := spanFails s (getSeat s i).suit [] (dstSpans g) g.resvOut
  let fs := keyed ++ other ++ suit
  match worst fs with
  | some f =>
    let span := (grans.map storeTag ++ placeGrans (dstSpans g) g.resvOut).eraseDups
    endHouse (countSuit (countDeny s i g.seq keyed) fs span) i g f
  | none =>
    let ks := grans.flatMap storeWords
    let s1 := touchWords s ks
    if anyBad s ks then endHouse (dmaHalt s1 i g 6) i g (.eccUncorrectable, 6)
    else
      let r := commit s1
      commitHouse r.1 i g r.2

/-! ## Fields (R216) -/

/-- The rules common to every service and ceremony. -/
def plainFields (d : Desc) (key1 : Bool) : Bool := d.trunc == 0 && d.aux == 0 && !d.decrypt && d.key1Used == key1

/-- No source. -/
def noSrc (d : Desc) : Bool := d.src == 0 && d.len == 0 && d.srcFrags == 0 && !d.srcFrag && !d.srcKitty

/-- The parameter rules of a hand service; n the bytes of INLINE it uses, out whether it writes output. -/
def svcParam (d : Desc) (key1 typed out : Bool) (n : Nat) : List Fail :=
  need (plainFields d key1 && noSrc d && (out || dstZero d) && inlClear d n && (typed || d.mode == 0)) .paramInvalid

/-- A little-endian half-word of INLINE. -/
def inl16 (d : Desc) (i : Nat) : Nat := leField d.inl i 2

/-- A usage with its reserved bits clear (R212). -/
def usageOf (n : Nat) : BitVec 16 := BitVec.ofNat 16 (n % 4096)

/-- DETAILs of refusals on a named hand and on a target. -/
def namedFails (s : State) (i : Nat) (d : Desc) : List Fail := handFails s i d.key0 0x0C01 0x0806
def slotNamed (s : State) (d : Desc) (p : KeyObj → Bool) : List Fail := slotFails s d.key0 d.slot0 p 0x0804 0x0805
def newTarget (s : State) (i : Nat) (g : Flight) (derived : Bool) : List Fail :=
  targetFails s i g.desc.key1 g.desc.slot1 derived 0x0806 (some g.seq)

/-! ## The turn of a service (R217, R329) -/

/-- A descriptor that house firmware could take up, its seat's turn apart. -/
def houseReady (s : State) (seat : Nat) (g : Flight) : Bool :=
  g.decided.isNone && g.checked && listsIn g && slotsIn g && orderOk s seat g && serviceTurn s seat g

/-- The checks of HAND_FREE, SLOT_CLEAR and KEY_GEN: those of R210, and the others. -/
def freeChecks (s : State) (i : Nat) (d : Desc) : List Fail × List Fail :=
  (namedFails s i d, svcParam d false false false 0 ++ need (d.slot0 == 0) .paramInvalid)
def clearChecks (s : State) (i : Nat) (d : Desc) : List Fail × List Fail :=
  (namedFails s i d ++ slotNamed s d fun _ => true, svcParam d false false false 0)
def genChecks (s : State) (i : Nat) (g : Flight) : List Fail × List Fail :=
  let d := g.desc
  (newTarget s i g false,
    svcParam d true true false 2
      ++ need (decide (1 ≤ d.modeHi) && decide (d.modeHi ≤ 5) && keyGenLegal d) .paramInvalid
      ++ need (decide (objGranules (inl16 d 0) ≤ granFree s)) .policy 0x0802)

/-- A hand service that passes its checks waits: for a hand in use, or for its random blocks (R74, R218). -/
def serviceWaits (s : State) (i : Nat) (g : Flight) : Bool :=
  let ok (c : List Fail × List Fail) : Bool := (worst (c.1 ++ c.2)).isNone
  let drawn := match g.granted with | some r => decide (r < s.round) | none => false
  if g.desc.op = 0x51 then ok (freeChecks s i g.desc) && heldService s i g.desc
  else if g.desc.op = 0x52 then ok (clearChecks s i g.desc) && heldService s i g.desc
  else if g.desc.op = 0x53 then ok (genChecks s i g) && !drawn
  else false

/-- A hand service that could be carried out now. -/
def serviceReady (s : State) (seat : Nat) (g : Flight) : Bool :=
  isService g.desc.op && !(opClass g.desc.op).lane && houseReady s seat g && !serviceWaits s seat g

/-- Services are taken in the rotation of R56 across seats: no seat ahead of this one has one that could be carried out
(R217). -/
def seatsTurn (s : State) (seat : Nat) : Bool :=
  ((rotSeats s).takeWhile fun j => decide (j ≠ seat)).all fun j =>
    !(seatLive s j && (getSeat s j).flights.any (serviceReady s j))

/-- A service or ceremony descriptor that house firmware may take up now: hand services stay queued under a freeze
(R217, R329). -/
def houseTurn (s : State) (seat sq op : Nat) : Option Flight :=
  if houseUp s && seatLive s seat && (isCeremony op || (!s.aon.freeze && seatsTurn s seat)) then
    flightBySq s seat sq fun g => decide (g.desc.op = op) && houseReady s seat g
  else none

/-- Granules freed by a change of a hand: overwritten before they return to the pool, and HOUSE again (R205, R218). -/
def zeroGranules (s : State) (gs : List Nat) : State :=
  let s1 := tagStore s gs 0
  { s1 with keys := { s1.keys with zeroing := s1.keys.zeroing ++ gs } }

/-! ## Hand services -/

/-- The lowest EMPTY hand (DESIGN CHOICE, log entry 12). -/
def emptyHand (s : State) : Option Nat :=
  let used := (s.keys.hands.filter fun e => e.2.live).map (·.1)
  ((lowestFree used 1 (used.length + 1) 0).head?).filter fun h => decide (h < Config.hands)

/-- A hand that becomes LIVE for a seat's suit (R206, R209, R216). -/
def allocHand (s : State) (i h : Nat) (d : Desc) : State :=
  writeHand s h [] fun x =>
    { suit := (getSeat s i).suit, gen := nextGen s.aon.epoch x.gen, live := true, policy := byteAt d.inl 4
      defUse := usageOf (inl16 d 6), base := BitVec.ofNat 16 (inl16 d 0), span := BitVec.ofNat 16 (inl16 d 2)
      slots := [], resv := [] }

/-- HAND_ALLOC (R209, R216): a hand becomes LIVE under the seat's suit, and its HANDLE is the output. -/
def execHandAlloc (seat : Fin 8192) (sq : Nat) (s : State) : Out :=
  let i := seat.val
  match houseTurn s i sq 0x50 with
  | some g =>
    let d := g.desc
    let fs := need s.keys.ready .zeroised
      ++ svcParam d false false true 8
      ++ need (decide (fld (byteAt d.inl 4) 7 2 = 0) && byteAt d.inl 5 == 0) .paramInvalid
      ++ need (decide (4 ≤ d.cap)) .bounds ++ need (emptyHand s).isSome .policy 0x0801
    .next (serve s i g [] fs (emptyHand s).toList fun t =>
      let h := (emptyHand t).getD 0
      let t1 := allocHand t i h d
      (t1, natLe 2 h ++ natLe 2 (getHand t1 h).gen.toNat))
  | none => .next s

/-- HAND_FREE (R218): the hand becomes EMPTY; a hand in use holds the descriptor. -/
def execHandFree (seat : Fin 8192) (sq : Nat) (s : State) : Out :=
  let i := seat.val
  match houseTurn s i sq 0x51 with
  | some g =>
    let d := g.desc
    let fs := freeChecks s i d
    if serviceWaits s i g then .next s
    else
      .next (serve s i g fs.1 fs.2 [handleHand d.key0] fun t =>
        let h := handleHand d.key0
        let x := getHand t h
        let gs := x.slots.flatMap fun e => match e.2 with | some k => k.gran | none => []
        (zeroGranules (writeHand t h [] fun y => { Hand.reset with gen := y.gen }) gs, []))
  | none => .next s

/-- SLOT_CLEAR (R218): one slot becomes empty; a hand in use holds the descriptor. -/
def execSlotClear (seat : Fin 8192) (sq : Nat) (s : State) : Out :=
  let i := seat.val
  match houseTurn s i sq 0x52 with
  | some g =>
    let d := g.desc
    let h := handleHand d.key0
    let fs := clearChecks s i d
    if serviceWaits s i g then .next s
    else
      .next (serve s i g fs.1 fs.2 (loadGranules s h [d.slot0]) fun t =>
        let gs := match slotObj (getHand t h) d.slot0 with | some k => k.gran | none => []
        (zeroGranules (writeHand t h [] fun x => { x with slots := sput none x.slots d.slot0 none }) gs, []))
  | none => .next s

/-- Material of a generated key: a TDES key whose drawn parts coincide has bits of its later parts changed until all
differ (R216; DESIGN CHOICE, log entry 21). -/
def genMaterial (type n : Nat) (b : Bytes) : Bytes :=
  let v := b.take n
  if type = 2 then
    let k1 := slice v 0 8
    let p2 := slice v 8 8
    let k2 := if p2 = k1 then xorBytes p2 [2, 0, 0, 0, 0, 0, 0, 0] else p2
    let p3 := slice v 16 8
    let q3 := if p3 = k1 ∨ p3 = k2 then xorBytes p3 [4, 0, 0, 0, 0, 0, 0, 0] else p3
    let k3 := if q3 = k1 ∨ q3 = k2 then xorBytes p3 [8, 0, 0, 0, 0, 0, 0, 0] else q3
    k1 ++ k2 ++ k3
  else v

/-- KEY_GEN (R216): a symmetric key from shoe blocks goes to an empty slot, once its blocks are delivered (R74). -/
def execKeyGen (seat : Fin 8192) (sq : Nat) (s : State) : Out :=
  let i := seat.val
  match houseTurn s i sq 0x53 with
  | some g =>
    let d := g.desc
    let fs := genChecks s i g
    if serviceWaits s i g then .next s
    else
      .next (serve s i g fs.1 fs.2 [handleHand d.key1] fun t =>
        let h := handleHand d.key1
        (putKey t h d.slot1
          { type := BitVec.ofNat 4 d.modeHi, param := 0, usage := (getHand t h).defUse
            mat := genMaterial d.modeHi (inl16 d 0) (blockBytes g.blocks), gran := [] }, []))
  | none => .next s

/-- SLOT_INFO (R216): bytes 0-7 of a slot's first granule. -/
def execSlotInfo (seat : Fin 8192) (sq : Nat) (s : State) : Out :=
  let i := seat.val
  match houseTurn s i sq 0x56 with
  | some g =>
    let d := g.desc
    let h := handleHand d.key0
    .next (serve s i g (namedFails s i d ++ slotNamed s d fun _ => true)
      (svcParam d false false true 0 ++ need (decide (8 ≤ d.cap)) .bounds) (loadGranules s h [d.slot0]) fun t =>
        (t, match slotObj (getHand t h) d.slot0 with | some k => objHeader k | none => []))
  | none => .next s

/-- The granule that holds USAGE of a key object (R207). -/
def firstGran (k : Option KeyObj) : List Nat := match k with | some x => x.gran.take 1 | none => []

/-- USAGE_TIGHTEN (R213, R216): usage and policy keep only the bits of their masks (DEDUCED, log entry 22). -/
def execUsageTighten (seat : Fin 8192) (sq : Nat) (s : State) : Out :=
  let i := seat.val
  match houseTurn s i sq 0x57 with
  | some g =>
    let d := g.desc
    let h := handleHand d.key0
    .next (serve s i g (namedFails s i d ++ slotNamed s d fun _ => true)
      (svcParam d false false false 3 ++ need (decide (fld (byteAt d.inl 2) 7 2 = 0)) .paramInvalid)
      (loadGranules s h [d.slot0]) fun t =>
        (writeHand t h (firstGran (slotObj (getHand t h) d.slot0)) fun x =>
          { x with
            policy := x.policy &&& byteAt d.inl 2
            slots := sput none x.slots d.slot0 ((slotObj x d.slot0).map fun k =>
              { k with usage := k.usage &&& BitVec.ofNat 16 (inl16 d 0) }) }, []))
  | none => .next s

/-- Public part of an asymmetric key object (R208). -/
def publicPart (k : KeyObj) : Bytes :=
  match asymShape k.type.toNat k.param with
  | some t => slice k.mat t.2.1 t.2.2
  | none => []

/-- PUBKEY_READ (R216): the public part of an asymmetric slot. -/
def execPubkeyRead (seat : Fin 8192) (sq : Nat) (s : State) : Out :=
  let i := seat.val
  match houseTurn s i sq 0x5A with
  | some g =>
    let d := g.desc
    let h := handleHand d.key0
    let o := match slotObj (getHand s h) d.slot0 with | some k => publicPart k | none => []
    .next (serve s i g (namedFails s i d ++ slotNamed s d fun k => decide (6 ≤ k.type.toNat))
      (svcParam d false false true 0 ++ need (decide (o.length ≤ d.cap)) .bounds) (loadGranules s h [d.slot0]) fun t =>
        (t, o))
  | none => .next s

/-- SLOT_RETYPE (R213, R216): a SECRET copied whole into an empty slot under a new type. -/
def execSlotRetype (seat : Fin 8192) (sq : Nat) (s : State) : Out :=
  let i := seat.val
  match houseTurn s i sq 0x5B with
  | some g =>
    let d := g.desc
    let h0 := handleHand d.key0
    let h1 := handleHand d.key1
    let m := match slotObj (getHand s h0) d.slot0 with | some k => k.mat | none => []
    let typeOk := decide (1 ≤ d.modeHi) && decide (d.modeHi ≤ 4) && d.modeLo == 0
    .next (serve s i g
      (namedFails s i d
        ++ slotNamed s d (fun k => k.type == 5 && bit k.usage uRetype && (!typeOk || lenLegal d.modeHi k.mat.length))
        ++ newTarget s i g true)
      (svcParam d true true false 2 ++ need typeOk .paramInvalid
        ++ need (decide (objGranules m.length ≤ granFree s)) .policy 0x0802)
      (loadGranules s h0 [d.slot0] ++ [h1]) fun t =>
        (putKey t h1 d.slot1
          { type := BitVec.ofNat 4 d.modeHi, param := 0, usage := usageOf (inl16 d 0) &&& (getHand t h1).defUse
            mat := m, gran := [] }, []))
  | none => .next s

/-- Service and ceremony descriptors that wait (KEYS_SVC_BACKLOG). -/
def backlog (s : State) : Nat :=
  (s.seats.map fun e => (e.2.flights.filter fun g =>
    g.decided.isNone && (isService g.desc.op || isCeremony g.desc.op)).length).sum

/-! ## NOP and RANDOM -/

/-- NOP (R94, R107): DONE, decided in the round of its fetch, without a lane. -/
def execNop (seat : Fin 8192) (sq : Nat) (s : State) : Out :=
  match flightBySq s seat.val sq fun g => g.decided.isNone && g.dmaErr.isNone && decide (g.desc.op = 0) with
  | some g => .next (decide_ s seat.val g.seq .done 0 g.fetched false)
  | none => .next s

/-- RANDOM (R241, R242): two rounds after its grant LEN random bytes stand at the destination. -/
def execRandom (seat : Fin 8192) (sq : Nat) (s : State) : Out :=
  let i := seat.val
  match flightBySq s i sq fun g => g.decided.isNone && decide (g.desc.op = 0x60) && g.granted.isSome with
  | some g =>
    match g.granted with
    | some r =>
      if running s && decide (r + 2 ≤ s.round) then
        let fs := spanFails s (getSeat s i).suit [] (dstSpans g) g.resvOut
        match worst fs with
        | some f => .next (decide_ (countSuit s fs (placeGrans (dstSpans g) g.resvOut)) i g.seq f.1 f.2 (r + 2) false)
        | none =>
          let o := putTricks s i g 0 ((blockBytes g.blocks).take g.desc.l)
          .next (if o.2 then decide_ (dmaHalt o.1 i g 6) i g.seq .eccUncorrectable 6 (r + 2) false
            else decide_ o.1 i g.seq .done 0 (r + 2) false)
      else .next s
    | none => .next s
  | none => .next s

/-! ## KEYS_CTRL (R224, R227, R230) -/

def keysBase : Nat := 0x000B0000

/-- ZEROISE written 1 (R224). -/
def zeroiseWrite (t : State) : State := { t with keys := { t.keys with zeroAt := some (t.round + 1) } }

/-- ZEROISE (R224): the store is erased in the next round. -/
def execZeroise (f : Func) (s : State) : Out := .next (pfWrite s f (keysBase + 4) zeroiseWrite)

/-- A rearm may be requested (R227, R396). -/
def rearmOk (s : State) : Bool :=
  !s.keys.ready && s.keys.wipeLeft == 0 && !s.keys.wipeFault && s.keys.rearm.isNone && decide (s.power.phase ≠ 9)

/-- REARM written 1 (R227). -/
def rearmWrite (t : State) (f : Func) : State :=
  if rearmOk t && t.aon.rootValid then rearmDraw { t with keys := { t.keys with rearm := some t.round } }
  else regErr t f (keysBase + 4)

/-- REARM (R227): pending from this round; its blocks are reserved at once when the shoe has them. -/
def execRearm (f : Func) (s : State) : Out := .next (pfWrite s f (keysBase + 4) fun t => rearmWrite t f)

/-- REARM_COMPLETE (R214, R227): in the round after its blocks are reserved a rearm forms both keys. -/
def execRearmComplete (s : State) : Out :=
  match s.keys.rearmRes with
  | some r =>
    if running s && decide (r < s.round) then
      let bs := s.keys.rearmBlk
      .next { s with keys := { s.keys with
        ready := true, rearm := none, rearmRes := none, rearmBlk := []
        storeKey := some (deriveStoreKey s (blockBytes (bs.take 2)))
        migKey := (bs.drop 2).head? } }
    else .next s
  | none => .next s

/-- WIPE_END (R224): 16,385 rounds after the erase the physical wipe ends. -/
def execWipeEnd (s : State) : Out :=
  if s.keys.wiping && decide (s.keys.wipeAt + 16386 ≤ s.round) then
    .next { s with keys := { s.keys with wiping := false, wipeLeft := 0 } }
  else .next s

/-- The granules that the wipe of the erase in round t writes in this round: 8 a round from t + 1 on (R224). -/
def wipeGrans (s : State) : List Nat :=
  let t := s.keys.wipeAt
  if t + 1 ≤ s.round ∧ s.round ≤ t + 16384 then (List.range 8).map fun j => 8 * (s.round - t - 1) + j else []

/-- Granules written by the wipe: zero with valid check bits, and HOUSE (R224, R300, R315). -/
def wipeWrite (s : State) : State :=
  let gs := wipeGrans s
  let ks := gs.flatMap storeWords
  { s with
    prot := { s.prot with
      bad := ks.foldl (fun m k => sput none m k none) s.prot.bad
      fix := ks.foldl (fun m k => sput false m k false) s.prot.fix
      tags := gs.foldl (fun m g => sput 0 m (storeTag g) 0) s.prot.tags
      badTags := gs.foldl (fun m g => sput false m (storeTag g) false) s.prot.badTags }
    keys := { s.keys with wiped := gs.foldl (fun m g => max m (g + 1)) s.keys.wiped } }

/-- A round of a wipe: its writes, KEYS_WIPE_LEFT, and a read-back that differs (R224). -/
def wipeTurn (s0 : State) (bad : Bool) : State :=
  if !s0.keys.wiping then s0
  else
    let s := wipeWrite s0
    let k := s.keys
    let t := k.wipeAt
    let left := if s.round ≤ t + 1 then 131072 else 131072 - 8 * (s.round - t - 2)
    let s1 := { s with keys := { k with wipeLeft := left } }
    if bad && decide (t + 2 ≤ s.round) && decide (s.round ≤ t + 16385) && !k.wipeFault then
      queueScore { s1 with keys := { s1.keys with wipeFault := true } }
        { cause := 4, round := s.round, unit := 0x100, seat := 0xFFFF, sq := 0, opcode := 0, status := 0, detail := 0
          frame := frameBytes s.house.core s.house.core.excCause.toNat 0, play := 0, left := 0, late := 0, lateI := 0
          data := [], snap := none }
    else s1

end Sys2Proof.Machine
end

