-- ==== Sys2Proof/Machine/Ceremony.lean ====
section
/-!
DEFINITION. Ceremonies (R222, R223): STORE_INIT (R227), SUIT_ASSIGN, COMPONENT_LOAD (R372), POLICY_WIDEN, OWNER_SET,
TCR_COMMIT (R339, R340), LATCH_CLEAR (R342) and LIFECYCLE_SET (R386-R388).
-/
namespace Sys2Proof.Machine

/-! ## What every ceremony needs -/

/-- Code of a lifecycle state (R386). -/
def Lifecycle.code : Lifecycle → Nat
  | .blank => 0 | .provisioned => 1 | .sealed => 3 | .retired => 7

/-- A quorum session is open and the seat is bound to the function that opened it (R222). -/
def quorumOk (s : State) (i : Nat) : Bool := decide (s.quorum.st = .open_) && boundTo s i s.quorum.func

/-- The checks every ceremony meets when house firmware begins it (R222, R226, R387). -/
def ceremonyGate (s : State) (i op : Nat) : List Fail :=
  need (quorumOk s i) .quorumRequired ++ need (op == 0x70 || s.keys.ready) .zeroised
    ++ need (decide (s.fuses.lc ≠ .retired)) .policy

/-- A POLICY refusal of a ceremony carries DETAIL 0 (R221). -/
def plainPolicy (fs : List Fail) : List Fail := fs.map fun f => if f.1 = .policy then (.policy, 0) else f

/-- Every field but a source, MODE and the first n bytes of INLINE is zero, and KEY1 is used or not (R222). -/
def ceremonyFields (d : Desc) (key1 : Bool) (n : Nat) : Bool := plainFields d key1 && dstZero d && inlClear d n

/-- A ceremony without a source and without MODE. -/
def bareFields (d : Desc) (n : Nat) : Bool := ceremonyFields d false n && noSrc d && d.mode == 0

/-- What a ceremony's commit changed, kept for an erase in its round (R228). -/
def keepUndo (s : State) (i : Nat) (g : Flight) (u : Option Undo) : State := modFlight s i g.seq fun x => { x with undo := u }

/-- The event log before a commit that makes n entries. -/
def logMark (s : State) (n : Nat) : LogMark :=
  { log := s.aon.log, next := s.aon.logNext, wraps := s.aon.logWraps, made := n }

/-- A ceremony in one step: its gate, its checks, its commit. -/
def ceremony (s : State) (i : Nat) (g : Flight) (keyed other : List Fail) (grans : List Nat) (commit : State → State) :
    State :=
  serve s i g (plainPolicy keyed) (plainPolicy (ceremonyGate s i g.desc.op ++ other)) grans fun t => (commit t, [])

/-! ## The key store and the seats -/

/-- Random blocks a STORE_INIT needs: 2 for a ROOT_KEY, 3 for a rearm (R227, R240). -/
def initBlocks (s : State) : Nat := (if s.aon.rootValid then 0 else 2) + (if s.keys.ready then 0 else 3)

/-- ROOT_KEY generated from two blocks when ROOT_VALID is 0. -/
def makeRoot (s : State) (bs : List (BitVec 128)) : State :=
  if s.aon.rootValid then s else { s with aon := { s.aon with rootKey := blockBytes (bs.take 2), rootValid := true } }

/-- The commit of a STORE_INIT with its blocks, reserved in round r: a missing ROOT_KEY, and a rearm that REARM_COMPLETE
ends (R227). -/
def storeInit (s : State) (bs : List (BitVec 128)) (r : Option Round) : State :=
  let s1 := makeRoot s bs
  if s.keys.ready then s1
  else { s1 with keys := { s1.keys with
    rearm := some s.round, rearmRes := r, rearmBlk := if s.aon.rootValid then bs else bs.drop 2 } }

/-- STORE_INIT (R222, R227, R243): once a wipe has ended its blocks are reserved as a house draw, or its wait goes on from the
round the ceremony began; in a round after the reservation it commits. On a READY store it only generates a missing
ROOT_KEY (DESIGN CHOICE, log entry 30). -/
def execStoreInit (seat : Fin 8192) (sq : Nat) (s : State) : Out :=
  let i := seat.val
  match houseTurn s i sq 0x70 with
  | some g =>
    let fs := need (bareFields g.desc 0) .paramInvalid ++ need (s.keys.ready || !s.keys.wipeFault) .policy
    let wiping := !s.keys.ready && (decide (s.keys.wipeLeft ≠ 0) || s.keys.rearm.isSome)
    let lack := initBlocks s - g.blocks.length
    let held := match g.granted with
      | some r => decide (s.round ≤ r)
      | none => false
    let mark (t : State) (f : Flight → Flight) : Out := .next (modFlight t i g.seq fun x => f { x with begun := some (x.begun.getD s.round) })
    if (worst (ceremonyGate s i 0x70 ++ fs)).isSome then .next (ceremony s i g [] fs [] id)
    else if wiping || held then mark s id
    else if lack = 0 then
      .next (ceremony s i g [] fs [] fun t =>
        keepUndo (storeInit t g.blocks g.granted) i g (if t.aon.rootValid then none else some .root))
    else if houseHas s lack then
      let s1 := houseRoom s lack
      mark (shoeReserve s1 lack) fun x =>
        { x with granted := some s.round, blocks := g.blocks ++ nextBlocks s1 lack, waitFrom := none }
    else mark s fun x => { x with granted := none, waitFrom := x.begun }
  | none => .next s

/-- SUIT_ASSIGN (R87, R222): the suit of a seat in OFF. -/
def execSuitAssign (seat : Fin 8192) (sq : Nat) (s : State) : Out :=
  let i := seat.val
  match houseTurn s i sq 0x71 with
  | some g =>
    let k := inl16 g.desc 0
    let v := inl16 g.desc 2
    let ok := decide (k < Config.seats) && decide (1 ≤ v) && decide (v ≤ 0xFFFD)
    .next (ceremony s i g []
      (need (bareFields g.desc 4 && ok) .paramInvalid
        ++ need (!ok || decide (seatState s (getSeat s k) = .off)) .policy) [] fun t =>
        keepUndo (modSeat t k fun x => { x with suit := BitVec.ofNat 16 v }) i g (some (.suit k (getSeat t k).suit)))
  | none => .next s

/-- The exclusive or of the held components. -/
def xorAll (n : Nat) (cs : List Bytes) : Bytes := cs.foldl (fun a c => xorBytes a c) (zeros n)

/-- COMPONENT_LOAD (R222, R372): the held components make a key in an empty slot. -/
def execComponentLoad (seat : Fin 8192) (sq : Nat) (s : State) : Out :=
  let i := seat.val
  match houseTurn s i sq 0x72 with
  | some g =>
    let d := g.desc
    let n := inl16 d 0
    let m := (byteAt d.inl 2).toNat
    let cs := s.quorum.comps
    let countOk := decide (2 ≤ m) && decide (m ≤ 9)
    let typeOk := decide (1 ≤ d.modeHi) && decide (d.modeHi ≤ 4) && d.modeLo == 0 && lenLegal d.modeHi n
    .next (ceremony s i g (newTarget s i g false)
      (need (ceremonyFields d true 3 && noSrc d && typeOk && countOk) .paramInvalid
        ++ need (!countOk || (cs.length == m && cs.all fun c => c.length == n)) .policy
        ++ need (decide (objGranules n ≤ granFree s)) .policy)
      [handleHand d.key1] fun t =>
        let h := handleHand d.key1
        let t1 := putKey t h d.slot1
          { type := BitVec.ofNat 4 d.modeHi, param := 0, usage := (getHand t h).defUse, mat := xorAll n cs, gran := [] }
        { t1 with quorum := { t1.quorum with comps := [] } })
  | none => .next s

/-- POLICY_WIDEN (R213, R222): USAGE of a slot and POLICY of its hand are replaced; reserved bits stay zero (DEDUCED,
log entry 31). -/
def execPolicyWiden (seat : Fin 8192) (sq : Nat) (s : State) : Out :=
  let i := seat.val
  match houseTurn s i sq 0x73 with
  | some g =>
    let d := g.desc
    let h := handleHand d.key0
    .next (ceremony s i g (namedFails s i d ++ slotNamed s d fun _ => true)
      (need (bareFields d 3) .paramInvalid) (loadGranules s h [d.slot0]) fun t =>
        writeHand t h (firstGran (slotObj (getHand t h) d.slot0)) fun x =>
          { x with
            policy := byteAt d.inl 2 &&& 3
            slots := sput none x.slots d.slot0 ((slotObj x d.slot0).map fun k => { k with usage := usageOf (inl16 d 0) }) })
  | none => .next s

/-- OWNER_SET (R206, R222): the owner range of a hand. -/
def execOwnerSet (seat : Fin 8192) (sq : Nat) (s : State) : Out :=
  let i := seat.val
  match houseTurn s i sq 0x74 with
  | some g =>
    let d := g.desc
    let h := handleHand d.key0
    .next (ceremony s i g (namedFails s i d) (need (bareFields d 4 && d.slot0 == 0) .paramInvalid) [h] fun t =>
      writeHand t h [] fun x => { x with base := BitVec.ofNat 16 (inl16 d 0), span := BitVec.ofNat 16 (inl16 d 2) })
  | none => .next s

/-! ## TCR_COMMIT (R337-R340) -/

/-- A threshold within its range (R324): n is the 16-bit field. -/
def threshOk (i n : Nat) : Bool :=
  let v := signed16 n
  let mv (lo hi : Nat) : Bool := decide (lo ≤ n) && decide (n ≤ hi) && decide (n % 5 = 0)
  if i ≤ 1 then decide (-55 ≤ v) && decide (v ≤ 125)
  else if i = 2 then mv 600 745 else if i = 3 then mv 755 900
  else if i = 4 then mv 1500 1790 else if i = 5 then mv 1810 2100
  else if i = 6 then decide (300 ≤ n) && decide (n ≤ 600)
  else if i = 7 then decide (10 ≤ n) && decide (n ≤ 1000)
  else if i < 16 then decide (1 ≤ n) && decide (n ≤ 15)
  else if i = 23 then mv 2200 3000
  else n == 0

/-- The offsets of the fields of source i's entry that fail, in order. A TEMP_HIGH threshold not above TEMP_LOW's is
reported at TEMP_HIGH's field (DEDUCED, log entry 32). -/
def entryFaults (b : Bytes) (i : Nat) : List Nat :=
  let o := 16 + 8 * i
  let at_ (ok : Bool) (k : Nat) : List Nat := if ok then [] else [o + k]
  let f := leField b (o + 2) 2
  let th := leField b (o + 4) 2
  let mode := (byteAt b (o + 1)).toNat
  at_ (decide (i < 24) || bit (byteAt b o) 7) 0
    ++ at_ (if 18 ≤ i ∧ i ≤ 21 then decide (mode ≤ 1) else mode == 0) 1
    ++ at_ (if i < 24 then f != 0 else f == 1) 2
    ++ at_ (threshOk i th && (i != 0 || decide (signed16 (leField b 28 2) < signed16 th))) 4
    ++ at_ (leField b (o + 6) 2 == 0) 6

/-- The byte offsets of the fields of a record that break R339, in order. -/
def tcrFaults (b : Bytes) : List Nat :=
  (if leField b 0 2 = 1 then [] else [0])
    ++ (if leField b 2 2 = 28 then [] else [2])
    ++ (if fld (byteAt b 4) 7 1 = 0 then [] else [4])
    ++ (if allZero (slice b 5 11) then [] else [5])
    ++ (List.range 28).flatMap (entryFaults b)
    ++ (if allZero (slice b 240 12) then [] else [240])
    ++ (if tcrCheckOk b then [] else [0xFC])

/-- What a TCR_COMMIT refuses before it looks at the record. -/
def tcrFields (d : Desc) : Bool :=
  ceremonyFields d false 0 && d.mode == 0 && d.l == 256

/-- Kitty and staged bytes of a ceremony's source. -/
def ceremonySrc (s : State) (g : Flight) : Bytes := assemble s (srcSpans g) (g.input.getD [])

/-- Staged input of a ceremony's source is there. -/
def srcIn (g : Flight) : Bool := decide (hostBytes (segSpans g 0) = 0) || g.input.isSome

/-- The suit checks on a ceremony's source. -/
def srcFails (s : State) (i : Nat) (g : Flight) : List Fail := spanFails s (getSeat s i).suit (srcSpans g) [] []

/-- Granules of a ceremony's source (R310). -/
def srcGrans (g : Flight) : List Nat := placeGrans (srcSpans g) []

/-- Error keys of the kitty words a ceremony's source reads. -/
def srcKeys (g : Flight) : List Nat := (kittyCells (srcSpans g)).flatMap fun c => wkeys c.1 c.2

/-- Step 1 of a commit: the record goes to the inactive bank. -/
def tcrStage (s : State) (i : Nat) (g : Flight) (b : Bytes) : State :=
  let a := if s.aon.bank then { s.aon with tcr0 := b } else { s.aon with tcr1 := b }
  modFlight { s with aon := a } i g.seq fun x => { x with begun := some s.round }

/-- Sources whose entry differs between two records. -/
def tcrChanged (old new : Bytes) : List Nat :=
  (List.range 28).filter fun i => slice old (16 + 8 * i) 8 != slice new (16 + 8 * i) 8

/-- Sources as the bits of a mask. -/
def sourceBits (is : List Nat) : BitVec 28 := is.foldl (fun v i => setBit v i true) 0

/-- Sources whose filter counters start afresh at the end of this round (R340, R342). -/
def restartSources (s : State) (is : List Nat) : State :=
  { s with aon := { s.aon with restart := is.foldl (fun v i => setBit v i true) s.aon.restart } }

/-- Step 2 of a commit: the bank is read back and checked, and the selector flips. -/
def tcrFlip (s : State) (i : Nat) (g : Flight) (bankBad : Bool) : State :=
  let b := if s.aon.bank then s.aon.tcr0 else s.aon.tcr1
  match worst (ceremonyGate s i 0x75 ++ need (!bankBad && (tcrFaults b).isEmpty) .internal) with
  | some f => endHouse s i g f
  | none =>
    let old := tcr s
    let s1 := { s with aon := { s.aon with
      bank := !s.aon.bank, defaulted := false, flip := some (s.round, s.aon.defaulted) } }
    let is := tcrChanged old b
    let s2 := keepUndo (restartSources s1 is) i g
      (some (.tcr s.aon.defaulted (sourceBits is &&& ~~~s.aon.restart) (logMark s 1)))
    endHouse (logEvent s2 0x42 0 0 (BitVec.ofNat 32 (leField b 252 4))) i g (.done, 0)

/-- A record checked, then step 1. -/
def tcrBegin (s : State) (i : Nat) (g : Flight) : State :=
  let gate := plainPolicy (ceremonyGate s i 0x75)
  if tcrFields g.desc then
    let suit := srcFails s i g
    let ks := if suit.isEmpty then srcKeys g else []
    let s1 := touchWords (countSuit s suit (srcGrans g)) ks
    let b := ceremonySrc s g
    let rec_ := match tcrFaults b with | o :: _ => [(Status.paramInvalid, BitVec.ofNat 16 o)] | [] => []
    if anyBad s ks then endHouse (dmaHalt s1 i g 6) i g (.eccUncorrectable, 6)
    else match worst (gate ++ suit ++ rec_) with
      | some f => endHouse s1 i g f
      | none => tcrStage s1 i g b
  else match worst (gate ++ need false .paramInvalid) with
    | some f => endHouse s i g f
    | none => s

/-- TCR_COMMIT (R340): the record is written to the inactive bank, and in a later round read back and put in force. -/
def execTcrCommit (seat : Fin 8192) (sq : Nat) (bankBad : Bool) (s : State) : Out :=
  let i := seat.val
  match houseTurn s i sq 0x75 with
  | some g =>
    match g.begun with
    | some r => .next (if r < s.round then tcrFlip s i g bankBad else s)
    | none => .next (if srcIn g || !tcrFields g.desc then tcrBegin s i g else s)
  | none => .next s

/-- COMMIT_BUSY (R346): a TCR_COMMIT is between its steps. -/
def commitBusy (s : State) : Bool :=
  s.seats.any fun e => e.2.flights.any fun g => g.begun.isSome && g.decided.isNone && decide (g.desc.op = 0x75)

/-! ## LATCH_CLEAR (R342) -/

/-- One latched bit cleared, with its entry; its filter starts afresh (DEDUCED, log entry 33). -/
def clearLatch (s : State) (i : Nat) : State :=
  let s1 := restartSources s [i]
  logEvent { s1 with aon := { s1.aon with latched := setBit s1.aon.latched i false, rearm := setBit s1.aon.rearm i true } }
    i (tripSet s i) 8 0

/-- LATCH_CLEAR (R342). -/
def execLatchClear (seat : Fin 8192) (sq : Nat) (s : State) : Out :=
  let i := seat.val
  match houseTurn s i sq 0x76 with
  | some g =>
    let m := leField g.desc.inl 0 4
    .next (ceremony s i g []
      (need (bareFields g.desc 4 && decide (m < 2 ^ 28) && decide (m ≠ 0)) .paramInvalid) [] fun t =>
        let is := (List.range 28).filter fun k => bits m k k == 1 && bit t.aon.latched k
        let bs := sourceBits is
        keepUndo (is.foldl clearLatch t) i g
          (some (.latch bs (bs &&& ~~~t.aon.restart) (bs &&& ~~~t.aon.rearm) (logMark t is.length))))
  | none => .next s

/-! ## LIFECYCLE_SET (R386-R388) -/

/-- The state a target code names, from the present one: one step forward, or RETIRED (R388). -/
def lifeTarget (lc : Lifecycle) (n : Nat) : Option Lifecycle :=
  if n = 7 then some .retired
  else if n = 1 ∧ lc = .blank then some .provisioned
  else if n = 3 ∧ lc = .provisioned then some .sealed
  else none

/-- The fields of a LIFECYCLE_SET: a source of 48 bytes for PROVISIONED alone. -/
def lifeFields (d : Desc) (lc : Lifecycle) : Bool :=
  ceremonyFields d false 1 && d.mode == 0 &&
    (match lifeTarget lc (byteAt d.inl 0).toNat with
      | some .provisioned => d.l == 48
      | some _ => noSrc d
      | none => false)

/-- The lifecycle state advances; RETIRED erases ROOT_KEY and the store. -/
def lifeCommit (s : State) (lc : Lifecycle) (owner : Bytes) : State :=
  let s1 := { s with fuses := { s.fuses with
    lc := lc, owner := if lc = .provisioned then owner else s.fuses.owner } }
  if lc = .retired then eraseStore (eraseRoot s1) false else s1

/-- What a LIFECYCLE_SET whose source is there does. -/
def lifeSet (s : State) (i : Nat) (g : Flight) (fuseBad : Bool) : State :=
  let d := g.desc
  let gate := plainPolicy (ceremonyGate s i 0x77)
  let ok := lifeFields d s.fuses.lc
  let suit := if ok then srcFails s i g else []
  let ks := if ok && suit.isEmpty then srcKeys g else []
  let s1 := touchWords (countSuit s suit (srcGrans g)) ks
  if anyBad s ks then endHouse (dmaHalt s1 i g 6) i g (.eccUncorrectable, 6)
  else match worst (gate ++ suit ++ need ok .paramInvalid) with
    | some f => endHouse s1 i g f
    | none =>
      if fuseBad then endHouse { s1 with power := { s1.power with fuseErr := true } } i g (.internal, 0)
      else lifeCommit (endHouse s1 i g (.done, 0)) ((lifeTarget s.fuses.lc (byteAt d.inl 0).toNat).getD s.fuses.lc)
        (ceremonySrc s g)

/-- LIFECYCLE_SET (R388). -/
def execLifecycleSet (seat : Fin 8192) (sq : Nat) (fuseBad : Bool) (s : State) : Out :=
  let i := seat.val
  match houseTurn s i sq 0x77 with
  | some g => .next (if srcIn g || !lifeFields g.desc s.fuses.lc then lifeSet s i g fuseBad else s)
  | none => .next s

end Sys2Proof.Machine
end

