-- ==== Sys2Proof/Machine/Slots.lean ====
section
/-!
DEFINITION. The custodian slots: supply and presence (R347-R349), the Ryeno token link (R350-R364), T=0 cards
(R365-R368), and the authentication of custodians in a quorum session (R369-R373).
-/
namespace Sys2Proof.Machine

/-! ## Error codes and times -/

def errNoResponse : Byte := 0x01
def errRepeat : Byte := 0x02
def errOvercurrent : Byte := 0x03
def errAtr : Byte := 0x04
def errPps : Byte := 0x05
def errTune : Byte := 0x06
def errWriteIndet : Byte := 0x08
def errNotWritten : Byte := 0x09
def errAuth : Byte := 0x0A
def errBadPw : Byte := 0x0B
def errBlocked : Byte := 0x0C
def errRoster : Byte := 0x0D
def errRemoved : Byte := 0x0E

/-- SLOT_CFGn in force. -/
def slotCfg (s : State) (n : Nat) : Word := (getSlot s n).cfg.at_ s.round

/-- Nanoseconds of a beat (R350). -/
def beatNs (clk : Nat) : Nat := if clk = 0 then 2500 else if clk = 1 then 80 else if clk = 2 then 40 else 20

/-- Rounds that k beats take, rounded up. -/
def beatRounds (x : Slot) (k : Nat) : Nat := ceilDiv (k * beatNs x.clk) 40

/-- Beats of the last command frame, with its repetitions (R351-R353). -/
def frameBeats (x : Slot) : Nat := (x.sent.length + x.reps) * (if x.width4 then 6 else 12)

/-- The data phase of the last command is over (R361, R368): its last character has been sent. -/
def dataSent (s : State) (x : Slot) : Bool :=
  if x.kind = 2 then decide (x.lastCmd + ceilDiv ((x.sent.length + 1) * 12 * x.fi * 25) (4 * x.di) < s.round)
  else decide (x.lastCmd + beatRounds x (frameBeats x) < s.round)

/-! ## Roster (R369) -/

/-- Byte i of entry k of the roster. -/
def rosterAt (s : State) (k : Nat) : Bytes := slice s.power.dcr (96 + 96 * k) 96

/-- Entries in use. -/
def rosterUsed (s : State) : Nat := ((List.range 15).filter fun k => byteAt (rosterAt s k) 0 != 0).length

/-- The entry of a kind and ID; for a card also of the AID selected (R371 step 1). -/
def rosterFind (s : State) (kind : Byte) (id : Bytes) (aid : Option Bytes) : Option Nat :=
  (List.range 15).find? fun k =>
    let e := rosterAt s k
    byteAt e 0 == kind && slice e 2 8 == id &&
      (match aid with | some a => slice e 10 16 == a | none => true)

/-- AID of an entry. -/
def rosterAid (e : Bytes) : Bytes := slice e 10 (byteAt e 1).toNat

/-! ## Slot events -/

/-- SLOT_EVENT. -/
def slotEvent (s : State) : State := raiseAll s 23

/-- LAST_ERR set, with its interrupt. -/
def slotErr (s : State) (n : Nat) (e : Byte) : State := slotEvent (modSlot s n fun x => { x with lastErr := e })

/-- A slot whose supply is off: what its credential negotiated is gone (R348). -/
def slotOff (x : Slot) (st : SlotSt) : Slot :=
  { x with
    st := st, kind := 0, cls := 0, width4 := false, clk := 0, roster := 0xFF, step := .none, resends := 0, reps := 0
    addr := 0, sent := [], id := [], tokClk := 0, tokW4 := false, locked := false, use := 0, chal := [], comp := none
    waking := false, fi := 372, di := 1, wi := 10, guard := 0, got := [], engaged := false }

/-- Outcome of a USE write or an erase that its credential leaves (R362). -/
def slotCut (s : State) (n : Nat) : State :=
  let x := getSlot s n
  if x.step = .writeUse ∨ x.step = .erase then
    if dataSent s x then endSession (slotErr s n errWriteIndet) .indeterminate else slotErr s n errNotWritten
  else s

/-- A slot deactivated with an error stays in FAULT until ACTIVATE (DEDUCED, log entry 35). -/
def slotFault (s : State) (n : Nat) (e : Byte) : State :=
  modSlot (slotCut (slotErr s n e) n) n fun x => slotOff x .fault

/-! ## Commands to a token (R353-R356) -/

/-- A command frame. -/
def ryenoFrame (addr cmd : Nat) (arg : Bytes) : Bytes :=
  let b := natLe 1 addr ++ natLe 1 cmd ++ natLe 2 arg.length ++ arg
  b ++ natLe 2 (crc16 b).toNat

/-- A command sent to a slot's token as a step of what the slot does. -/
def sendToken (s : State) (n : Nat) (step : SlotStep) (cmd : Nat) (arg : Bytes) : State :=
  modSlot s n fun x =>
    { x with step := step, sent := ryenoFrame x.addr.toNat cmd arg, lastCmd := s.round, resends := 0, reps := 0 }

/-- A command of an exchange after READY: STATE reads BUSY until it ends (DESIGN CHOICE, log entry 34). -/
def sendBusy (s : State) (n : Nat) (step : SlotStep) (cmd : Nat) (arg : Bytes) : State :=
  sendToken (modSlot s n fun x => { x with st := .busy }) n step cmd arg

/-- Command code of the last frame sent. -/
def sentCmd (x : Slot) : Nat := (byteAt x.sent 1).toNat

/-- A command that is never sent again (R356). -/
def sentOnce (x : Slot) : Bool := [0x11, 0x22, 0x23].contains (sentCmd x)

/-! ## Activation (R349, R366) -/

/-- Bit of CLASS_EN for a CLASS code: 1 C, 2 B, 3 A. -/
def classOn (s : State) (n c : Nat) : Bool := bit (slotCfg s n) (15 + c)

/-- The next enabled class from code c on, in the order C, B, A. -/
def nextClass (s : State) (n c : Nat) : Option Nat := [1, 2, 3].find? fun k => decide (c ≤ k) && classOn s n k

/-- A slot powered at a class: a token is probed for at C and B, and a card reset starts at once where a token has not
answered (R349). -/
def powerSlot (s : State) (n c : Nat) (probe : Bool) : State :=
  modSlot s n fun x =>
    { slotOff x .probing with
      cls := BitVec.ofNat 2 c, noPps := x.noPps, lastCmd := s.round
      step := if probe && decide (c ≤ 2) then .opcond 0 else .coldReset }

/-- Activation at the first enabled class. -/
def startSlot (s : State) (n : Nat) : State :=
  match nextClass s n 1 with
  | some c => powerSlot (modSlot s n fun x => { x with noPps := false }) n c true
  | none => slotFault s n errAtr

/-- The next enabled class for a card, or the failure of them all (R366). -/
def nextCardClass (s : State) (n : Nat) : State :=
  match nextClass s n ((getSlot s n).cls.toNat + 1) with
  | some c => powerSlot s n c false
  | none => slotFault s n errAtr

/-! ## Cards (R368) -/

/-- A command APDU sent to a card. -/
def sendCard (s : State) (n : Nat) (step : SlotStep) (b : Bytes) : State :=
  modSlot s n fun x =>
    { x with st := .busy, step := step, sent := b, lastCmd := s.round, wait := s.round, resends := 0, reps := 0, got := [] }

/-- SELECT of the first card entry of the roster from index k on (DEDUCED, log entry 36); none is left: the card is on
no roster. -/
def selectFrom (s : State) (n k : Nat) : State :=
  match (List.range 15).find? fun j => decide (k ≤ j) && byteAt (rosterAt s j) 0 == 2 with
  | some j =>
    let a := rosterAid (rosterAt s j)
    sendCard s n (.select j) ([0x00, 0xA4, 0x04, 0x00] ++ natLe 1 a.length ++ a)
  | none => slotErr (modSlot s n fun x => { x with step := .none, st := .ready, roster := 0xFF }) n errRoster

/-! ## Authentication (R371) -/

/-- The credential's turn ends: it is READY and idle. -/
def slotIdle (s : State) (n : Nat) : State := modSlot s n fun x => { x with step := .none, st := .ready, comp := none }

/-- The session runs for this credential. -/
def sessionOn (s : State) (n : Nat) : Bool := decide (s.quorum.st ≠ .idle) && (getSlot s n).engaged

/-- A password placed is used once (R364, R374). -/
def takePw (s : State) (n : Nat) : State := modSlot s n fun x => { x with pwValid := false, pw := zeros 32 }

/-- Step 4 for an unlocked credential: USE is read, or a card waits for its challenge. -/
def afterUnlock (s : State) (n : Nat) : State :=
  if (getSlot s n).kind = 2 then modSlot s n fun x => { x with step := .challenge, st := .busy }
  else sendBusy s n .readUse 0x10 ([0x03] ++ natLe 2 0 ++ natLe 2 8)

/-- Step 3: a locked credential is sent the password placed for it, or waits in READY. -/
def tryUnlock (s : State) (n : Nat) : State :=
  let x := getSlot s n
  if x.pwValid then
    let p := x.pw.take x.pwLen.toNat
    let s1 := takePw s n
    if x.kind = 2 then sendCard s1 n .verify ([0x00, 0x20, 0x00, 0x80] ++ natLe 1 p.length ++ p)
    else sendBusy s1 n .unlock 0x21 p
  else modSlot s n fun y => { y with step := .waitPw, st := .ready }

/-- Steps 1 and 2 for an entry found. -/
def withEntry (s : State) (n k : Nat) : Bool × State :=
  let s1 := modSlot s n fun x => { x with roster := BitVec.ofNat 8 k }
  (bit s.quorum.mask k, s1)

/-- Authentication of a READY credential begins. -/
def authStart (s : State) (n : Nat) : State :=
  let x := getSlot s n
  if s.quorum.st = .idle ∨ x.st ≠ .ready ∨ x.step ≠ .none ∨ x.engaged = true then s
  else
    let s1 := modSlot s n fun y => { y with engaged := true }
    if x.kind = 2 then selectFrom s1 n 0
    else match rosterFind s 1 x.id none with
      | none => slotErr (modSlot s1 n fun y => { y with roster := 0xFF }) n errRoster
      | some k =>
        let e := withEntry s1 n k
        if e.1 then e.2 else if x.locked then tryUnlock e.2 n else afterUnlock e.2 n

/-- A slot becomes READY. -/
def slotReady (s : State) (n : Nat) : State :=
  authStart (modSlot s n fun x => { x with st := .ready, step := .none, waking := false }) n

/-- Custodians counted. -/
def heldCustodians (s : State) : Nat := ((List.range 15).filter fun k => bit s.quorum.mask k).length

/-- Step 7: the custodian is counted and its component kept. -/
def countCustodian (s : State) (n : Nat) : State :=
  let x := getSlot s n
  let k := x.roster.toNat
  let s1 := slotIdle s n
  if sessionOn s n && decide (k < 15) && !bit s.quorum.mask k then
    { s1 with quorum := { s1.quorum with
      mask := setBit s1.quorum.mask k true
      comps := match x.comp with
        | some c => if s1.quorum.comps.length < 9 then s1.quorum.comps ++ [c] else s1.quorum.comps
        | none => s1.quorum.comps } }
  else s1

/-- Step 6: USE + 1 is written. -/
def writeUse (s : State) (n : Nat) : State :=
  let x := getSlot s n
  let v := natLe 8 (x.use + 1)
  if x.kind = 2 then sendCard s n .writeUse ([0x80, 0xA3, 0x00, 0x00, 0x08] ++ v)
  else sendBusy s n .writeUse 0x11 ([0x03] ++ natLe 2 0 ++ v)

/-- Step 5: the component is read while fewer than 9 are held. The manual does not say how its length is learned: a
token is asked for 144 bytes and a card for Le = 0 (DESIGN CHOICE, log entry 37). -/
def readComp (s : State) (n : Nat) : State :=
  if 9 ≤ s.quorum.comps.length then writeUse s n
  else if (getSlot s n).kind = 2 then sendCard s n .readComp [0x80, 0xA2, 0x00, 0x00, 0x00]
  else sendBusy s n .readComp 0x10 ([0x02] ++ natLe 2 0 ++ natLe 2 144)

/-- The signed digest of AUTH and CUSTODIAN_SIGN (R360). -/
def authDigest (id use chal : Bytes) : Bytes := hashOf 1 ([0x47, 0x56, 0x51, 0x31] ++ id ++ use ++ chal)

/-- A credential's signature verifies under an entry's key. -/
def authOk (e : Bytes) (x : Slot) (sig : Bytes) : Bool :=
  let key := slice e 26 65
  let q := ptCoords p256 key
  byteAt key 0 == 4 && onCurve p256 q.1 q.2 &&
    ecdsaVerify p256 (some q) (beNat (slice sig 0 32)) (beNat (slice sig 32 32)) (authDigest x.id (natLe 8 x.use) x.chal)

/-- Step 4 decided by a signature. -/
def checkSig (s : State) (n : Nat) (sig : Bytes) : State :=
  let x := getSlot s n
  if sig.length = 64 ∧ authOk (rosterAt s x.roster.toNat) x sig = true then
    if sessionOn s n then readComp s n else slotIdle s n
  else slotErr (slotIdle s n) n errAuth

/-- A component read, perhaps empty. -/
def gotComp (s : State) (n : Nat) (b : Bytes) : State :=
  if sessionOn s n then
    writeUse (modSlot s n fun x => { x with comp := if b.isEmpty then none else some b }) n
  else slotIdle s n

/-- CHALLENGE_DRAW (R240, R243, R371): two blocks are reserved for a credential that waits for its challenge. -/
def execChallengeDraw (n : Fin 2) (s : State) : Out :=
  if houseUp s && decide ((getSlot s n.val).step = .challenge) && houseHas s 2 then
    let s1 := houseRoom s 2
    .next (modSlot (shoeReserve s1 2) n.val fun x => { x with step := .drawing s.round, chal := blockBytes (nextBlocks s1 2) })
  else .next s

/-- A drawn challenge goes to its credential, in the round after its blocks were reserved. -/
def challengeTurn (s : State) (n : Nat) : State :=
  match (getSlot s n).step with
  | .drawing r =>
    if r < s.round then
      let c := (getSlot s n).chal
      if (getSlot s n).kind = 2 then sendCard s n .auth ([0x80, 0xA1, 0x00, 0x00, 0x20] ++ c)
      else sendBusy s n .auth 0x20 c
    else s
  | _ => s

/-! ## The token's responses (R353-R364) -/

/-- The test pattern of R357. -/
def tunePattern : Bytes := (List.range 64).map fun i => BitVec.ofNat 8 (0x5A + 37 * i)

/-- SETBUS at a clock code. -/
def sendSetbus (s : State) (n clk : Nat) : State :=
  sendToken s n .setbus 0x04 [BitVec.ofNat 8 (16 * clk + b2n (getSlot s n).tokW4)]

/-- TUNE at a phase. -/
def sendTune (s : State) (n p : Nat) : State :=
  sendToken (modSlot s n fun x => { x with phase := p, pass := if p = 0 then 0 else x.pass }) n (.tune p) 0x05 []

/-- Length of the run of passing phases that starts at phase p, on the circle. -/
def runFrom (v : BitVec 16) (p : Nat) : Nat := ((List.range 16).takeWhile fun k => bit v ((p + k) % 16)).length

/-- The centre of the longest run, the lower one of an even run (R357); of equal runs the first (DESIGN CHOICE, log
entry 38). -/
def tuneCentre (v : BitVec 16) : Option Nat :=
  let best := (List.range 16).foldl (fun b p => if runFrom v b < runFrom v p then p else b) 0
  let n := runFrom v best
  if n = 0 then none else some ((best + (n - 1) / 2) % 16)

/-- Passing phases. -/
def passCount (v : BitVec 16) : Nat := ((List.range 16).filter fun k => bit v k).length

/-- All 16 phases tried: the centre is chosen, or the clock goes down one code (R355, R357). -/
def tuneEnd (s : State) (n : Nat) : State :=
  let x := getSlot s n
  if 4 ≤ passCount x.pass then slotReady (modSlot s n fun y => { y with phase := (tuneCentre x.pass).getD 0 }) n
  else
    let s1 := if x.clk = 2 then slotErr s n errTune else s
    sendSetbus s1 n (x.clk - 1)

/-- After SETBUS or on waking: tuning at 25 and 50 MHz. -/
def afterBus (s : State) (n : Nat) : State := if 2 ≤ (getSlot s n).clk then sendTune s n 0 else slotReady s n

/-- A phase's TUNE has answered, or has failed. -/
def tunePhase (s : State) (n p : Nat) (ok : Bool) : State :=
  let s1 := modSlot s n fun x => { x with pass := setBit x.pass p ok }
  if p < 15 then sendTune s1 n (p + 1) else tuneEnd s1 n

/-- OPCOND's answer (R355). -/
def opcondAnswer (s : State) (n : Nat) (b : Byte) : State :=
  let x := getSlot s n
  if x.waking then
    if bit b 7 then afterBus s n else s
  else if x.cls = 1 ∧ bit b 0 = false then
    if classOn s n 2 then powerSlot s n 2 true else slotFault s n errNoResponse
  else if bit b 7 then sendToken (modSlot s n fun y => { y with kind := 1 }) n .ident 0x02 []
  else modSlot s n fun y => { y with kind := 1 }

/-- IDENT's answer. -/
def identAnswer (s : State) (n : Nat) (b : Bytes) : State :=
  let s1 := modSlot s n fun x =>
    { x with id := slice b 0 8, tokClk := (byteAt b 8).toNat, tokW4 := bit (byteAt b 9) 1, locked := bit (byteAt b 10) 0 }
  sendToken s1 n .setaddr 0x03 [BitVec.ofNat 8 (0x40 + n)]

/-- One missing response: the command is sent again twice at most; the third miss, or the first of a command never
sent again, deactivates the slot (R356). A probe that no token has answered goes on to a card (R349). -/
def tokenMiss (s : State) (n : Nat) : State :=
  let x := getSlot s n
  let probing := match x.step with | .opcond _ => x.kind == 0 && !x.waking | _ => false
  if probing then modSlot s n fun y => { y with step := .coldReset, lastCmd := s.round, sent := [] }
  else if x.resends < 2 ∧ sentOnce x = false then
    modSlot s n fun y => { y with resends := y.resends + 1, lastCmd := s.round, reps := 0 }
  else slotFault s n errNoResponse

/-- A whole response acted on: STAT and DATA by the step under way. -/
def tokenAnswer (s : State) (n : Nat) (stat : Nat) (data : Bytes) (repeated : Bool) : State :=
  let x := getSlot s n
  let ok := decide (stat = 0)
  match x.step with
  | .opcond _ => if ok && data.length == 1 then opcondAnswer s n (byteAt data 0) else tokenMiss s n
  | .ident => if ok && data.length == 12 then identAnswer s n data else tokenMiss s n
  | .setaddr =>
    if ok then sendSetbus (modSlot s n fun y => { y with addr := BitVec.ofNat 8 (0x40 + n) }) n
      (min (fld (slotCfg s n) 13 12) x.tokClk)
    else tokenMiss s n
  | .setbus =>
    if ok then afterBus (modSlot s n fun y =>
      { y with clk := fld (byteAt y.sent 4) 7 4, width4 := bit (byteAt y.sent 4) 0 }) n
    else tokenMiss s n
  | .tune p => tunePhase s n p (ok && data == tunePattern && !repeated)
  | .toSleep => if ok then modSlot s n fun y => { y with st := .sleep, step := .none } else slotIdle s n
  | .unlock =>
    if ok then
      let s1 := modSlot s n fun y => { y with locked := false }
      if sessionOn s n then afterUnlock s1 n else slotIdle s1 n
    else
      let s1 := modSlot s n fun y => { y with step := if sessionOn s n then .waitPw else .none, st := .ready }
      if stat = 4 then slotErr s1 n errBadPw else if stat = 5 then slotErr s1 n errBlocked else s1
  | .readUse =>
    if ok && data.length == 8 && sessionOn s n then modSlot s n fun y => { y with use := leNat data, step := .challenge }
    else slotIdle s n
  | .auth =>
    if stat = 3 then
      let s1 := modSlot s n fun y => { y with locked := true }
      if sessionOn s n then tryUnlock s1 n else slotIdle s1 n
    else checkSig s n (if ok then data else [])
  | .readComp => if ok then gotComp s n data else if stat = 6 then gotComp s n [] else slotIdle s n
  | .writeUse => if ok then countCustodian s n else slotIdle s n
  | .erase =>
    modSlot (slotIdle s n) n fun y => { y with locked := if ok then false else y.locked, use := if ok then 0 else y.use }
  | .none | .challenge | .drawing _ | .waitPw | .coldReset | .warmReset | .pps | .select _ | .verify => s

/-- A step that waits for a token's frame. -/
def awaitsToken (x : Slot) : Bool :=
  match x.step with
  | .opcond _ => !x.sent.isEmpty
  | .ident | .setaddr | .setbus | .tune _ | .toSleep | .unlock | .readUse => true
  | .auth | .readComp | .writeUse | .erase => x.kind == 1
  | .none | .challenge | .drawing _ | .waitPw | .coldReset | .warmReset | .pps | .select _ | .verify => false

/-- A response frame that is whole: its length, its check code and its address (R353, R354). -/
def frameOk (x : Slot) (b : Bytes) : Bool :=
  let n := leField b 2 2
  decide (b.length = 6 + n) && decide (n ≤ 288) && leField b (4 + n) 2 == (crc16 (b.take (4 + n))).toNat
    && byteAt b 0 == x.addr

/-- RYENO_RESPONSE (R353, R354, R356): a response frame. One with the wrong address or check code, or with STAT = FRAME,
is a miss; under TUNE it fails its phase. -/
def execRyenoResponse (n : Fin 2) (frame : Bytes) (repeated : Bool) (s : State) : Out :=
  let x := getSlot s n.val
  if houseUp s && awaitsToken x then
    let s1 := modSlot s n.val fun y => { y with reps := 0 }
    if frameOk x frame && byteAt frame 1 != 1 then
      .next (tokenAnswer s1 n.val (byteAt frame 1).toNat (slice frame 4 (leField frame 2 2)) repeated)
    else match x.step with
      | .tune p => .next (tunePhase s1 n.val p false)
      | _ => .next (tokenMiss s1 n.val)
  else .next s

/-- Beats within which a response's start must arrive (R356): 250 ms for AUTH. -/
def responseRounds (x : Slot) : Nat :=
  if sentCmd x = 0x20 then 6250000
  else beatRounds x (frameBeats x + (if sentCmd x = 0x10 ∨ sentCmd x = 0x11 then 64 else 16))

/-- RESPONSE_TIMEOUT (R356): no response has begun within its limit. A write whose frame has been sent has an
indeterminate outcome (R362). -/
def execResponseTimeout (n : Fin 2) (s : State) : Out :=
  let x := getSlot s n.val
  if houseUp s && awaitsToken x && decide (x.lastCmd + responseRounds x ≤ s.round) then
    .next (tokenMiss (modSlot s n.val fun y => { y with reps := 0 }) n.val)
  else .next s

/-- BUSY_LIMIT (R361, R362): a busy phase beyond its limit deactivates the slot; the outcome is indeterminate. -/
def execBusyLimit (n : Fin 2) (s : State) : Out :=
  let x := getSlot s n.val
  let lim := if x.step = .erase then 50000000 else 625000
  if houseUp s && x.kind == 1 && decide (x.step = .writeUse ∨ x.step = .erase)
      && decide (x.lastCmd + beatRounds x (frameBeats x) + lim < s.round) then
    .next (slotFault s n.val errWriteIndet)
  else .next s

/-- OPCOND (R355): the next poll, 1 ms after the last; the first follows 1 ms and 200 beats after the supply. After
1,000 polls the token has not responded. -/
def execOpcond (n : Fin 2) (s : State) : Out :=
  let x := getSlot s n.val
  match x.step with
  | .opcond k =>
    let due := if k = 0 ∧ x.waking = false then 37500 else 25000
    if houseUp s && decide (x.lastCmd + due ≤ s.round) then
      if 1000 ≤ k then .next (slotFault s n.val errNoResponse)
      else .next (sendToken s n.val (.opcond (k + 1)) 0x01 [0x03])
    else .next s
  | _ => .next s

/-- A token woken from sleep is polled at its address (R363). -/
def wakeSlot (s : State) (n : Nat) : State :=
  modSlot s n fun x =>
    { x with st := .busy, waking := true, step := .opcond 0, sent := [], lastCmd := s.round - 25000, resends := 0 }

/-- SLOT_SLEEP_TIMER (R363): a READY token idle for SLEEP_MS is sent SLEEP. -/
def execSlotSleepTimer (n : Fin 2) (s : State) : Out :=
  let x := getSlot s n.val
  let ms := fld (slotCfg s n.val) 31 24
  let idle := decide (x.step = .none ∨ x.step = .waitPw)
  if houseUp s && decide (x.st = .ready) && x.kind == 1 && idle && decide (ms ≠ 0)
      && decide (x.lastCmd + 25000 * ms ≤ s.round) then
    .next (sendToken s n.val .toSleep 0x08 [])
  else .next s

/-- CHARACTER_REPETITION (R352, R365): a character is sent again; beyond the limit the slot is deactivated. -/
def execCharacterRepetition (n : Fin 2) (s : State) : Out :=
  let x := getSlot s n.val
  if decide (x.st = .off ∨ x.st = .fault) then .next s
  else if fld (slotCfg s n.val) 22 20 ≤ x.reps then .next (slotFault s n.val errRepeat)
  else .next (modSlot s n.val fun y => { y with reps := y.reps + 1 })

/-! ## Cards under T=0 (R365-R367) -/

/-- What an ATR says: TS and T0 are taken off. -/
structure AtrInfo where
  /-- its form and its check byte are right -/
  valid : Bool
  /-- it offers T=0 -/
  t0    : Bool
  ta1   : Option Byte
  tc1   : Option Byte
  ta2   : Option Byte
  tc2   : Option Byte
  /-- class indicator -/
  cls   : Option Byte
  deriving DecidableEq, Repr

/-- The interface bytes of group i, given Y and T of the group before: values found, bytes used, and the next TD. -/
def atrGroups : Nat → Nat → Nat → Option Nat → Bytes → AtrInfo → List Nat → Option (AtrInfo × List Nat × Bytes)
  | 0, _, _, _, _, _, _ => none
  | fuel + 1, i, y, t, b, a, ts =>
    let take1 (on : Bool) (b : Bytes) : Option (Option Byte × Bytes) :=
      if on then (match b with | x :: r => some (some x, r) | [] => none) else some (none, b)
    match take1 (bits y 0 0 == 1) b with
    | none => none
    | some (ta, b1) =>
      match take1 (bits y 1 1 == 1) b1 with
      | none => none
      | some (_, b2) =>
        match take1 (bits y 2 2 == 1) b2 with
        | none => none
        | some (tc, b3) =>
          let a1 := if i = 1 then { a with ta1 := ta, tc1 := tc } else if i = 2 then { a with ta2 := ta, tc2 := tc } else a
          let a2 := if t = some 15 ∧ a1.cls = none ∧ 3 ≤ i then { a1 with cls := ta } else a1
          match take1 (bits y 3 3 == 1) b3 with
          | none => none
          | some (none, b4) => some (a2, ts, b4)
          | some (some td, b4) => atrGroups fuel (i + 1) (fld td 7 4) (some (fld td 3 0)) b4 a2 (ts ++ [fld td 3 0])

/-- An ATR read (ISO/IEC 7816-3, PRESUMED, log entry 39): TCK is checked when present, which is when a protocol other
than T=0 is named. -/
def parseAtr (b : Bytes) : AtrInfo :=
  let none_ : AtrInfo := { valid := false, t0 := false, ta1 := none, tc1 := none, ta2 := none, tc2 := none, cls := none }
  let t0 := byteAt b 1
  match atrGroups 33 1 (fld t0 7 4) none (b.drop 2) none_ [] with
  | none => none_
  | some (a, ts, rest) =>
    let hist := fld t0 3 0
    let tck := ts.any (· != 0)
    let len := decide (rest.length = hist + b2n tck)
    let sum := (b.drop 1).foldl (· ^^^ ·) (0 : Byte)
    let protos := ts.filter (· != 15)
    { a with
      valid := (byteAt b 0 == 0x3B || byteAt b 0 == 0x3F) && decide (2 ≤ b.length) && len && (!tck || sum == 0)
      t0 := protos.isEmpty || protos.contains 0 }

/-- Fi of a code (ISO/IEC 7816-3). -/
def fiOf (c : Nat) : Nat :=
  if c ≤ 1 then 372 else if c = 2 then 558 else if c = 3 then 744 else if c = 4 then 1116 else if c = 5 then 1488
  else if c = 6 then 1860 else if c = 9 then 512 else if c = 10 then 768 else if c = 11 then 1024
  else if c = 12 then 1536 else if c = 13 then 2048 else 0

/-- Di of a code (ISO/IEC 7816-3). -/
def diOf (c : Nat) : Nat :=
  if c = 1 then 1 else if c = 2 then 2 else if c = 3 then 4 else if c = 4 then 8 else if c = 5 then 16
  else if c = 6 then 32 else if c = 7 then 64 else if c = 8 then 12 else if c = 9 then 20 else 0

/-- The supported pairs, with the code of Di (R367). -/
def listedDi (fi : Nat) : List (Nat × Nat) :=
  if fi = 372 then [(8, 4), (4, 3), (2, 2), (1, 1)] else if fi = 512 then [(16, 5), (8, 4)] else []

/-- The largest listed Di not above one, with its code. -/
def bestDi (fi di : Nat) : Option (Nat × Nat) := (listedDi fi).find? fun p => decide (p.1 ≤ di)

/-- A card's settings after its ATR. -/
def cardTimes (x : Slot) (a : AtrInfo) : Slot :=
  { x with kind := 2, wi := (match a.tc2 with | some v => v.toNat | none => 10), guard := a.tc1.getD 0 }

/-- PPS for a pair (R367). -/
def sendPps (s : State) (n : Nat) (pps1 : Byte) : State :=
  let b : Bytes := [0xFF, 0x10, pps1]
  modSlot s n fun x =>
    { x with step := .pps, sent := b ++ [b.foldl (· ^^^ ·) 0], lastCmd := s.round, wait := s.round, reps := 0 }

/-- The pair negotiated by an accepted ATR (R367). -/
def takePair (s : State) (n : Nat) (a : AtrInfo) : State :=
  let x := getSlot s n
  let fi := match a.ta1 with | some v => fiOf (fld v 7 4) | none => 372
  let di := match a.ta1 with | some v => diOf (fld v 3 0) | none => 1
  match a.ta2 with
  | some v =>
    if !bit v 4 && (listedDi fi).any (fun p => p.1 == di) then
      slotReady (modSlot s n fun y => { y with fi := fi, di := di }) n
    else slotFault s n errPps
  | none =>
    if decide (fi = 372 ∧ di = 1) || x.noPps then slotReady s n
    else match bestDi fi di, a.ta1 with
      | some p, some v => sendPps s n (BitVec.ofNat 8 (16 * fld v 7 4 + p.2))
      | _, _ => slotReady s n

/-- ATR (R365-R367): a card's answer to reset. -/
def execAtr (n : Fin 2) (b : Bytes) (s : State) : Out :=
  let x := getSlot s n.val
  let cold := decide (x.step = .coldReset)
  if houseUp s && (cold || decide (x.step = .warmReset)) then
    let a := parseAtr b
    if !a.valid then
      if cold then .next (modSlot s n.val fun y => { y with step := .warmReset, lastCmd := s.round })
      else .next (slotFault s n.val errAtr)
    else if !a.t0 || (match a.ta2 with | some v => decide (fld v 3 0 ≠ 0) | none => false) then
      .next (slotFault s n.val errAtr)
    else
      let at_ := 3 - x.cls.toNat
      let out := match a.cls with | some v => !bit v at_ | none => false
      if out then .next (nextCardClass s n.val)
      else .next (takePair (modSlot s n.val fun y => cardTimes y a) n.val a)
  else .next s

/-- ATR_TIMEOUT (R365, R366): no ATR within 40,000 clocks of the rise of RST. -/
def execAtrTimeout (n : Fin 2) (s : State) : Out :=
  let x := getSlot s n.val
  let cold := decide (x.step = .coldReset)
  let warm := decide (x.step = .warmReset)
  if houseUp s && (cold || warm) && decide (x.lastCmd + (if cold then 500000 else 250000) ≤ s.round) then
    .next (nextCardClass s n.val)
  else .next s

/-- A failed PPS: one reactivation without it (R367). -/
def ppsFail (s : State) (n : Nat) : State :=
  powerSlot (modSlot s n fun x => { x with noPps := true }) n (getSlot s n).cls.toNat false

/-- PPS_RESPONSE (R367): the pair is set when PPS0 and PPS1 are echoed. -/
def execPpsResponse (n : Fin 2) (b : Bytes) (s : State) : Out :=
  let x := getSlot s n.val
  if houseUp s && decide (x.step = .pps) then
    if byteAt b 1 == byteAt x.sent 1 && byteAt b 2 == byteAt x.sent 2 then
      let v := byteAt x.sent 2
      .next (slotReady (modSlot s n.val fun y => { y with fi := fiOf (fld v 7 4), di := diOf (fld v 3 0) }) n.val)
    else .next (ppsFail s n.val)
  else .next s

/-- A step that waits for a card's status word. -/
def awaitsCard (x : Slot) : Bool :=
  match x.step with
  | .select _ | .verify => true
  | .auth | .readComp | .writeUse => x.kind == 2
  | _ => false

/-- CUSTODIAN_SIGN's answer: the card's ID, its USE and the signature; the ID finds the roster entry (R368, R371). -/
def cardSigned (s : State) (n : Nat) (b : Bytes) : State :=
  let id := slice b 0 8
  let aid := slice (rosterAt s (getSlot s n).roster.toNat) 10 16
  match rosterFind s 2 id (some aid) with
  | none => slotErr (modSlot (slotIdle s n) n fun x => { x with roster := 0xFF }) n errRoster
  | some k =>
    let e := withEntry (modSlot s n fun x => { x with id := id, use := leNat (slice b 8 8) }) n k
    if e.1 then slotIdle e.2 n else checkSig e.2 n (b.drop 16)

/-- A card's response with its status word acted on. -/
def cardAnswer (s : State) (n : Nat) (b : Bytes) (ok : Bool) (sw : BitVec 16) : State :=
  match (getSlot s n).step with
  | .select k =>
    if ok then
      if sessionOn s n then tryUnlock (modSlot s n fun x => { x with roster := BitVec.ofNat 8 k, locked := true }) n
      else slotIdle s n
    else if sessionOn s n then selectFrom s n (k + 1) else slotIdle s n
  | .verify =>
    if ok then
      let s1 := modSlot s n fun x => { x with locked := false }
      if sessionOn s n then afterUnlock s1 n else slotIdle s1 n
    else slotErr (modSlot s n fun x => { x with step := if sessionOn s n then .waitPw else .none, st := .ready }) n
      (if sw = 0x6983 then errBlocked else errBadPw)
  | .auth => if ok && b.length == 80 then cardSigned s n b else slotErr (slotIdle s n) n errAuth
  | .readComp => gotComp s n (if ok then b else [])
  | .writeUse => if ok then countCustodian s n else slotIdle s n
  | _ => s

/-- CARD_RESPONSE (R368): response data and status word. SW 61xx is followed by GET RESPONSE, 6Cxx by the command with
the length it names (ISO/IEC 7816-3). -/
def execCardResponse (n : Fin 2) (data : Bytes) (sw : BitVec 16) (s : State) : Out :=
  let x := getSlot s n.val
  let lo : Byte := BitVec.ofNat 8 (fld sw 7 0)
  if houseUp s && awaitsCard x then
    if fld sw 15 8 = 0x61 then
      .next (modSlot s n.val fun y =>
        { y with got := y.got ++ data, sent := [0x00, 0xC0, 0x00, 0x00, lo], lastCmd := s.round, wait := s.round, reps := 0 })
    else if fld sw 15 8 = 0x6C then
      .next (modSlot s n.val fun y => { y with sent := y.sent.take 4 ++ [lo], lastCmd := s.round, wait := s.round, reps := 0 })
    else .next (cardAnswer s n.val (x.got ++ data) (decide (sw = 0x9000)) sw)
  else .next s

/-- WWT in rounds: 960 x WI x Fi at 4 MHz (R365). -/
def wwtRounds (x : Slot) : Nat := 6000 * x.wi * x.fi

/-- WAITING_TIME_EXPIRY (R365): no character within WWT ends the exchange: a PPS fails, any other exchange deactivates
the slot (DESIGN CHOICE of LAST_ERR, log entry 40). -/
def execWaitingTimeExpiry (n : Fin 2) (s : State) : Out :=
  let x := getSlot s n.val
  if houseUp s && decide (x.wait + wwtRounds x ≤ s.round) then
    if decide (x.step = .pps) then .next (ppsFail s n.val)
    else if awaitsCard x then .next (slotFault s n.val errNoResponse)
    else .next s
  else .next s

/-- NULL_BYTE (R365): the waiting time starts again. -/
def execNullByte (n : Fin 2) (s : State) : Out :=
  if awaitsCard (getSlot s n.val) then .next (modSlot s n.val fun y => { y with wait := s.round, reps := 0 }) else .next s

/-! ## Presence (R348) -/

/-- SLOT_INSERTION (R348): presence held for 50 ms; house firmware activates the slot. -/
def execSlotInsertion (n : Fin 2) (s : State) : Out :=
  let x := getSlot s n.val
  if x.present || !s.power.main then .next s
  else
    let s1 := slotEvent (modSlot s n.val fun y => { y with present := true })
    .next (if houseUp s && decide (x.st = .off) then startSlot s1 n.val else s1)

/-- SLOT_REMOVAL (R348, R362): the slot is deactivated; a write under way has the outcome of its phase, and any other
exchange ends with REMOVED. -/
def execSlotRemoval (n : Fin 2) (s : State) : Out :=
  let x := getSlot s n.val
  if !x.present || !s.power.main then .next s
  else
    let write := decide (x.step = .writeUse ∨ x.step = .erase)
    let busy := decide (x.step ≠ .none ∧ x.step ≠ .waitPw)
    let s1 := if write then slotCut s n.val else if busy then slotErr s n.val errRemoved else s
    .next (slotEvent (modSlot s1 n.val fun y => { slotOff y .off with present := false }))

/-- SLOT_OVERCURRENT (R348): the slot is deactivated into FAULT. -/
def execSlotOvercurrent (n : Fin 2) (s : State) : Out :=
  let x := getSlot s n.val
  if x.st = .off ∨ x.st = .fault then .next s else .next (slotFault s n.val errOvercurrent)

/-! ## Register actions (R364, R370, R374) -/

def slotBase : Nat := 0x00100000

/-- A write to a SLOT register that acts in the next round. -/
def slotWrite (s : State) (f : Func) (off : Nat) (v : Word) : State :=
  pfWrite s f (slotBase + off) fun t =>
    { t with quorum := { t.quorum with writes := t.quorum.writes ++ [(f, off, v)] } }

/-- DEACTIVATE. -/
def deactivateSlot (s : State) (n : Nat) : State :=
  let x := getSlot s n
  if x.present && decide (x.st ≠ .off) then modSlot (slotCut s n) n fun y => slotOff y .off else s

/-- ACTIVATE: a slot leaves FAULT, or the OFF that DEACTIVATE left (DEDUCED, log entry 41). -/
def activateSlot (s : State) (n : Nat) : State :=
  let x := getSlot s n
  if x.present && decide (x.st = .fault ∨ x.st = .off) then startSlot s n else s

/-- ERASE_TOKEN. -/
def eraseToken (s : State) (f : Func) (n : Nat) : State :=
  let x := getSlot s n
  if s.quorum.st ≠ .idle then regErr s f (slotBase + 0x30)
  else if x.kind = 1 ∧ x.st = .ready ∧ x.step = .none then sendBusy s n .erase 0x23 []
  else s

/-- The actions of one slot in a SLOT_CTRL write. -/
def slotCtrl (s : State) (f : Func) (n : Nat) (v : Word) : State :=
  let s1 := if bit v (8 * n) then deactivateSlot s n else s
  let s2 := if bit v (8 * n + 2) then activateSlot s1 n else s1
  if bit v (8 * n + 1) then eraseToken s2 f n else s2

/-- A password placed for a waiting credential is tried at once. -/
def pwPlaced (s : State) (n : Nat) : State :=
  let x := getSlot s n
  if x.step = .waitPw ∧ s.quorum.st ≠ .idle then tryUnlock s n
  else if x.st = .sleep ∧ x.engaged = true ∧ x.locked = true then wakeSlot (modSlot s n fun y => { y with engaged := false }) n
  else s

/-- SLOT_PW_CTRLn: a VALID write with a length outside 8-32 is ignored. -/
def pwCtrl (s : State) (n : Nat) (v : Word) : State :=
  let k := fld v 5 0
  if bit v 31 then
    if 8 ≤ k ∧ k ≤ 32 then pwPlaced (modSlot s n fun x => { x with pwValid := true, pwLen := BitVec.ofNat 6 k }) n else s
  else modSlot s n fun x => { x with pwValid := false, pwLen := BitVec.ofNat 6 k, pw := zeros 32 }

/-- SLOT_QCTRL: CLOSE first, then OPEN (DEDUCED, log entry 42). -/
def quorumCtrl (s : State) (f : Func) (v : Word) : State :=
  let bad := !(f == s.quorum.func)
  let s1 := if bit v 30 && decide (s.quorum.st ≠ .idle) then
      (if bad then regErr s f (slotBase + 0x40) else endSession s .closed)
    else s
  if bit v 31 then
    let m := fld v 3 0
    if s1.quorum.st = .idle ∧ 2 ≤ m ∧ m ≤ rosterUsed s then
      let s2 := slotEvent { s1 with quorum := { s1.quorum with
        st := .gather, ended := s1.quorum.ended, m := m, func := f, mask := 0, comps := []
        inForce := s1.quorum.limit.at_ s.round, timer := 0 } }
      let go (t : State) (n : Nat) : State := if (getSlot t n).st = .sleep then wakeSlot t n else authStart t n
      go (go s2 0) 1
    else regErr s1 f (slotBase + 0x40)
  else s1

/-- One write applied. -/
def applySlotWrite (s : State) (w : Func × Nat × Word) : State :=
  let off := w.2.1
  if off = 0x30 then slotCtrl (slotCtrl s w.1 0 w.2.2) w.1 1 w.2.2
  else if off = 0x40 then quorumCtrl s w.1 w.2.2
  else if off = 0xA0 then pwCtrl s 0 w.2.2
  else if off = 0xA4 then pwCtrl s 1 w.2.2
  else if 0x60 ≤ off ∧ off < 0xA0 then
    let k := (off - 0x60) / 4
    modSlot s (k / 8) fun x => { x with pw := patch x.pw (4 * (k % 8)) (natLe 4 w.2.2.toNat) }
  else s

/-- The slots at the start of a round: the writes of the last one, then GATHER to OPEN (R370, R373), then drawn
challenges. -/
def slotTurn (s : State) : State :=
  let s1 := s.quorum.writes.foldl applySlotWrite { s with quorum := { s.quorum with writes := [] } }
  let s2 := if s1.quorum.st = .gather ∧ s1.quorum.m ≤ heldCustodians s1 then
      slotEvent { s1 with quorum := { s1.quorum with st := .open_ } }
    else s1
  challengeTurn (challengeTurn s2 0) 1

/-- ACTIVATE (R374). -/
def execActivate (f : Func) (n : Fin 2) (s : State) : Out := .next (slotWrite s f 0x30 (mkWord (4 * 256 ^ n.val)))

/-- ERASE_TOKEN (R364, R374). -/
def execEraseToken (f : Func) (n : Fin 2) (s : State) : Out := .next (slotWrite s f 0x30 (mkWord (2 * 256 ^ n.val)))

/-- DEACTIVATE (R348, R374). -/
def execDeactivate (f : Func) (n : Fin 2) (s : State) : Out := .next (slotWrite s f 0x30 (mkWord (256 ^ n.val)))

/-- SLOT_PW_CTRL (R364, R374). -/
def execSlotPwCtrl (f : Func) (n : Fin 2) (v : Word) (s : State) : Out := .next (slotWrite s f (0xA0 + 4 * n.val) v)

/-- OPEN (R370). -/
def execQuorumOpen (f : Func) (m : BitVec 4) (s : State) : Out :=
  .next (slotWrite s f 0x40 (mkWord (0x80000000 + m.toNat)))

/-- CLOSE (R370). -/
def execQuorumClose (f : Func) (s : State) : Out := .next (slotWrite s f 0x40 0x40000000)

/-- QUORUM_LIMIT (R370): the session timer has reached its limit. -/
def execQuorumLimit (s : State) : Out :=
  if s.quorum.st ≠ .idle ∧ Config.roundsPerSecond * s.quorum.inForce ≤ s.quorum.timer then .next (endSession s .limit)
  else .next s

end Sys2Proof.Machine
end

