-- ==== Sys2Proof/Machine/Words.lean ====
section
/-!
DEFINITION. The words that BAR0 reads show (R29): every register of every block, by function (R37, R80, R88, R89, R113,
R125, R157, R204, R230, R249, R321, R322, R346, R374, R397).
-/
namespace Sys2Proof.Machine

/-- What a read of a register shows: its word, and whether the read breaks a rule (REG_ACCESS_ERR). -/
abbrev View := Word × Bool

/-- A register that reads a number. -/
def shows (n : Nat) : View := (mkWord n, false)
/-- A word with nothing in it. -/
def blank : View := (0, false)
/-- A reserved offset, or an access its function may not make: zero, and REG_ACCESS_ERR (R7, R11). -/
def badReg : View := (0, true)

/-- A word of a table of one-bit fields: bit i is p i. -/
def bitsOf (n : Nat) (p : Nat → Bool) : Nat := ((List.range n).map fun i => 2 ^ i * b2n (p i)).sum

/-- A word of k-bit fields: field i is v i. -/
def fieldsOf (k n : Nat) (v : Nat → Nat) : Nat := ((List.range n).map fun i => 2 ^ (k * i) * v i).sum

/-- Offset of a register in an array of words: its index when the offset lies inside. -/
def inArray (o base n : Nat) : Option Nat := if base ≤ o ∧ o < base + 4 * n then some ((o - base) / 4) else none

/-! ## IDENT and PWR (R37, R397) -/

/-- CFG_STATUS (R396). -/
def cfgStatus (s : State) : Nat :=
  let p := s.power
  2 ^ 31 * b2n p.dcrDef + 2 ^ 30 * b2n p.dcrBackup + 2 ^ 29 * b2n p.imageB + 2 ^ 28 * b2n p.bootErr
    + 2 ^ 24 * p.errCode + p.bootTime

/-- IDENT. -/
def readIdent (s : State) (f : Func) (o : Nat) : View :=
  if o = 0x00 then shows 0x47567128
  else if o = 0x04 then shows 0x00000100
  else if o = 0x08 then shows 0x10081002
  else if o = 0x0C then shows 0x2000FFFF
  else if o = 0x10 then shows 0xC0004000
  else if o = 0x14 then shows 0x20000020
  else if o = 0x18 then shows 0x06404004
  else if o = 0x1C then shows (funcId f)
  else if o = 0x20 then shows (cfgStatus s)
  else badReg

/-- PWR_CTRL. -/
def pwrCtrl (s : State) : Nat := 256 * b2n (s.power.gateEn.cur) + s.power.reqSt.toNat

/-- PWR_STATUS. -/
def pwrStatus (s : State) : Nat :=
  2 ^ 30 * (if s.power.st = .standby then 2 else 3) + 2 ^ 29 * b2n (decide (3 ≤ s.power.phase))
    + 2 ^ 28 * b2n s.power.stbyAt.isSome + s.power.deckClk.toNat

/-- PWR. -/
def readPwr (s : State) (f : Func) (o : Nat) : View :=
  if o = 0 then (if isPf f then shows (pwrCtrl s) else blank)
  else if o = 4 then (if isPf f then shows (pwrStatus s) else blank)
  else badReg

/-! ## DEAL (R80) -/

/-- DEAL_STATUS. -/
def dealStatus (s : State) : Nat :=
  2 ^ 31 * b2n s.dealer.frozen + 2 ^ 30 * b2n s.dealer.rngHold + s.dealer.deficit.toNat

/-- DEAL as a physical function sees it. -/
def dealWord (s : State) (o : Nat) : Option Nat :=
  if o = 0x0000 then some (s.round % 2 ^ 32)
  else if o = 0x0004 then some (s.round / 2 ^ 32 % 2 ^ 32)
  else if o = 0x000C then some (dealStatus s)
  else if o = 0x0010 then some s.dealer.waitLim
  else if o = 0x0014 then some s.dealer.tiePtr
  else if o = 0x0018 then some (16 * s.dealer.lanePtr + s.dealer.deckPtr)
  else if o = 0x0108 then some (heldCount s)
  else if o = 0x010C then some s.dealer.busyCnt.toNat
  else match inArray o 0x0040 16, inArray o 0x0080 4, inArray o 0x00C0 16, inArray o 0x0100 2 with
    | some d, _, _, _ => some (coverWord s d).toNat
    | _, some w, _, _ => some (laneEnWord s w)
    | _, _, some d, _ => some (laneStateWord s d)
    | _, _, _, some w => some (fieldsOf 4 8 fun k => (getEngine s (8 * w + k)).tickets)
    | none, none, none, none =>
      match inArray o 0x1000 1024, inArray o 0x4000 4096 with
      | some w, _ => some (fieldsOf 4 8 fun k => (getSeat s (8 * w + k)).weight)
      | _, some w => some (fieldsOf 16 2 fun k => (getSeat s (2 * w + k)).decks.toNat)
      | none, none => none

/-- DEAL: a virtual function sees ROUND_COUNT alone. -/
def readDeal (s : State) (f : Func) (o : Nat) : View :=
  match dealWord s o with
  | some v => if isPf f || o == 0 || o == 4 then shows v else blank
  | none => badReg

/-! ## SEAT (R30, R88, R89) -/

/-- Number of a seat state (SEAT_STATUS.STATE). -/
def SeatState.code : SeatState → Nat
  | .off => 0 | .armed => 1 | .run => 2 | .draining => 3 | .halted => 4

/-- ENABLE as SEAT_CTRL reads. -/
def enableRead (st : SeatState) (pend : Bool) : Bool := decide (st = .run) || (decide (st = .draining) && pend)

/-- Register r of a seat's context. -/
def seatWord (s : State) (i r : Nat) : Nat :=
  let x := getSeat s i
  let st := seatState s x
  if r = 0x00 then fld x.sqBase 31 0
  else if r = 0x04 then fld x.sqBase 63 32
  else if r = 0x08 then fld x.cqBase 31 0
  else if r = 0x0C then fld x.cqBase 63 32
  else if r = 0x10 then fld x.shadow 31 0 + b2n x.shadowEn
  else if r = 0x14 then fld x.shadow 63 32
  else if r = 0x18 then 256 * x.cqLog2.toNat + x.sqLog2.toNat
  else if r = 0x1C then 2 * b2n (enableRead st x.pend) + b2n (decide (st ≠ .off))
  else if r = 0x20 then
    2 ^ 29 * st.code + 2 ^ 28 * b2n (x.pend && decide (st = .draining)) + 2 ^ 27 * b2n x.cfgErr + 2 ^ 26 * b2n x.phase
  else if r = 0x24 then 2 ^ 16 * x.sqHead + x.sqTail
  else if r = 0x28 then 2 ^ 16 * x.cqHead + x.cqTail
  else if r = 0x2C then 2 ^ 31 * b2n x.irqEn.cur + 2 ^ 16 * x.irqVec.cur.toNat + x.irqCount.cur.toNat
  else if r = 0x30 then x.coalTime.cur
  else if r = 0x34 then x.stageLim
  else if r = 0x38 then 2 ^ 16 * (seatPool s i).length + x.flights.length
  else 2 ^ 28 * x.cause.code + 2 ^ 16 * b2n x.idxValid + x.haltIdx

/-- SEAT_BANK of a function. -/
def seatBank (s : State) (f : Func) : Bool := sget false s.cnt.bank (fkey f)

/-- SEAT_BIND of a seat. -/
def bindWord (x : Seat) : Nat := 2 ^ 16 * x.suit.toNat + funcId x.bind

/-- The seat and register a seat-window offset names for a function. -/
def windowSeat (s : State) (f : Func) (o : Nat) : Nat × Nat := (4096 * b2n (seatBank s f) + o / 64, o % 64)

/-- SEAT: o counts from 0x0003_0000. -/
def readSeat (s : State) (f : Func) (o : Nat) : View :=
  if o < 0x40000 then
    let p := windowSeat s f o
    if isPf f || boundTo s p.1 f then shows (seatWord s p.1 p.2) else badReg
  else if o = 0x40000 then shows (b2n (seatBank s f))
  else if o = 0x40004 then shows (sget 0 s.cnt.dbDiscard (fkey f)).toNat
  else if o = 0x40008 then shows (poolFree s)
  else match inArray o 0x40400 256, inArray o 0x48000 8192 with
    | some w, _ => shows (bitsOf 32 fun j =>
        (isPf f || boundTo s (32 * w + j) f) && decide (seatState s (getSeat s (32 * w + j)) = .halted))
    | _, some i => if isPf f || boundTo s i f then shows (bindWord (getSeat s i)) else blank
    | none, none => badReg

/-! ## KITTY, LANE and PKE (R125, R157, R204) -/

/-- KITTY_COUNT0 and KITTY_COUNT1. -/
def kittyCount (s : State) (k : Nat) : Nat :=
  if k = 0 then 2 ^ 16 * slotsOf s ownHost + slotsOf s ownFree else 2 ^ 16 * slotsOf s ownLocked + slotsOf s ownDevice

/-- KITTY. -/
def readKitty (s : State) (f : Func) (o : Nat) : View :=
  if o = 0 then shows (kittyCount s 0)
  else if o = 4 then shows (kittyCount s 1)
  else if o = 8 then (if isPf f then (s.kitty.refused, false) else blank)
  else if o = 0xC then (if isPf f then (s.kitty.deniedC, false) else blank)
  else match inArray o 0x400 256 with
    | some i => if isPf f then shows (getLimit s i) else blank
    | none => badReg

/-- A lane is in HALT on a fault (R77, R157, R318). -/
def faultShown (s : State) (l : Nat) : Bool :=
  let ln := getLane s l
  ln.fault || (ln.playFault && decide (ln.faultAt < s.round))

/-- LANE as a physical function sees it. -/
def laneWord (s : State) (o : Nat) : Option Nat :=
  if o = 0 then some (2 ^ 16 * s.power.kernelV.toNat + s.power.appletsV.toNat)
  else if o = 4 then some (recsFree s)
  else if o = 8 then some s.cnt.migWait.toNat
  else match inArray o 0x80 4, inArray o 0x100 64 with
    | some w, _ => some (bitsOf 32 fun j => faultShown s (32 * w + j))
    | _, some a => some (appletEntry s a).toNat
    | none, none => none

/-- A block whose registers a virtual function reads as zero. -/
def pfOnly (f : Func) : Option Nat → View
  | some v => if isPf f then shows v else blank
  | none => badReg

/-- PKE_CTRL of an engine. -/
def pkeCtrl (e : Engine) : Nat := 256 * b2n e.idleFill.cur + 16 * e.dsaPad.cur.toNat + b2n e.blind.cur

/-- PKE_STAT of an engine. -/
def pkeStat (e : Engine) : Nat :=
  let op := match e.run with
    | some x => (match x.ticket.raw with | some p => 0x80 + p.op.toNat | none => x.ticket.desc.op)
    | none => 0
  2 ^ 31 * b2n e.run.isSome + 2 ^ 24 * (e.queue.length + b2n e.start.isSome) + 2 ^ 16 * op

/-- PKE as a physical function sees it. -/
def pkeWord (s : State) (o : Nat) : Option Nat :=
  match inArray o 0 16, inArray o 0x40 16 with
  | some d, _ => some (pkeCtrl (getEngine s d))
  | _, some d => some (pkeStat (getEngine s d))
  | none, none =>
    if o = 0x80 then some s.cnt.pkeInvalid.toNat else if o = 0x84 then some s.cnt.dsaMax.toNat else none

/-! ## KEYS and RNG (R230, R249) -/

/-- KEYS_STATUS. -/
def keysStatus (s : State) : Nat :=
  2 ^ 30 * b2n s.keys.ready + 2 ^ 29 * b2n s.aon.rootValid + 2 ^ 28 * b2n s.keys.wipeFault
    + 2 ^ 27 * b2n s.keys.rearm.isSome

/-- KEYS_QUORUM. -/
def keysQuorum (s : State) : Nat :=
  let q := s.quorum
  let on := decide (q.st ≠ .idle)
  2 ^ 31 * b2n (decide (q.st = .open_)) + 2 ^ 9 * q.func.port.val + 2 ^ 8 * q.func.link.val + 2 ^ 4 * q.m
    + (if on then heldCustodians s else 0)

/-- KEYS. A count of waiting descriptors beyond its 14 bits reads as their largest value (DESIGN CHOICE, log entry 142). -/
def readKeyBlock (s : State) (f : Func) (o : Nat) : View :=
  if o = 0x00 then shows (keysStatus s)
  else if o = 0x08 then shows s.aon.epoch.toNat
  else pfOnly f
    (if o = 0x04 then some 0
     else if o = 0x0C then some (liveHands s)
     else if o = 0x10 then some (granFree s)
     else if o = 0x14 then some s.keys.wipeLeft
     else if o = 0x18 then some (s.keys.eraseAt % 2 ^ 32)
     else if o = 0x1C then some (s.keys.eraseAt / 2 ^ 32 % 2 ^ 32)
     else if o = 0x20 then some (keysQuorum s)
     else if o = 0x24 then some (min (backlog s) 0x3FFF)
     else if o = 0x28 then some s.keys.deny.toNat
     else none)

/-- RNG_STATUS. -/
def rngStatus (s : State) : Nat :=
  2 ^ 30 * (match s.rng.st with | .startup => 0 | .run => 1 | .failed => 2)
    + 16 * bitsOf 4 (fun i => (getSource s i).lockout) + bitsOf 4 fun i => (getSource s i).healthy

/-- RNG_SRC of a source. -/
def sourceWord (x : Source) : Nat := 2 ^ 16 * x.excl + 4 * b2n x.lockout + 2 * b2n x.aptFail + b2n x.rctFail

/-- RNG. -/
def readRng (s : State) (f : Func) (o : Nat) : View :=
  if o = 0 then shows (rngStatus s)
  else pfOnly f
    (if o = 0x04 then some s.rng.waitLim.cur
     else if o = 0x08 then some (2 ^ 16 * s.rng.resv + s.rng.level)
     else if o = 0x0C then some s.rng.interval
     else if o = 0x10 then some s.rng.unavail.toNat
     else (inArray o 0x20 4).map fun i => sourceWord (getSource s i))

/-! ## PROT and MEM (R321, R322) -/

/-- PROT through BAR0: the house-only registers read zero. -/
def protWord (s : State) (o : Nat) : Option Nat :=
  if o = 0 then some s.prot.suitCnt.toNat
  else if o = 4 then some s.prot.spanCnt.toNat
  else if o = 8 then some s.prot.debugCnt.toNat
  else if o = 0x100 ∨ (0x4000 ≤ o ∧ o < 0x8080) then some 0
  else none

/-- A bucket above the limit. -/
def leakOver (s : State) (i : Nat) : Bool := decide (s.prot.leakLim.at_ s.round < sget 0 s.prot.bucket i)

/-- MEM as a physical function sees it. -/
def memRegWord (s : State) (o : Nat) : Option Nat :=
  if o = 0x00 then some s.prot.leakPer.cur
  else if o = 0x04 then some s.prot.leakLim.cur
  else if o = 0x08 then some s.prot.ueCnt.toNat
  else if o = 0x0C then some s.prot.ueLast.toNat
  else if o = 0x10 then some (b2n s.prot.scrubEn.cur)
  else match inArray o 0x100 10, inArray o 0x1000 290 with
    | some w, _ => some (bitsOf 32 fun j => decide (32 * w + j < 290) && leakOver s (32 * w + j))
    | _, some i => some (sget 0 s.prot.bucket i)
    | none, none => none

/-! ## TAMP (R343, R346) -/

/-- The 32 bytes of a log entry. -/
def logBytes : Option LogEntry → Bytes
  | some e => natLe 8 e.round ++ natLe 4 e.rtcSec.toNat ++ natLe 2 e.rtcFrac.toNat ++ [e.source]
      ++ natLe 1 e.resp.toNat ++ [e.flags, 0, 0, 0] ++ natLe 4 e.info.toNat ++ zeros 8
  | none => zeros 32

/-- The main domain shows the tamper monitors and the slots' pins from boot phase 4 on, when the TCR is checked and the DCR
loaded (R12, R341; DEDUCED, log entry 141). -/
def tampShown (s : State) : Bool := decide (4 < s.power.phase)

/-- TAMP_STATUS: the fields the main domain resets read 0 until it shows the monitors. -/
def tampStatus (s : State) : Nat :=
  let a := s.aon
  2 ^ 31 * b2n (a.defaulted && tampShown s) + 2 ^ 30 * b2n a.lost + 2 ^ 29 * b2n a.rtcValid + 2 ^ 28 * b2n a.bank
    + 2 ^ 27 * b2n a.freeze + 2 ^ 26 * b2n (commitBusy s) + 2 ^ 25 * b2n (tampShown s && decide (1800 ≤ s.power.vbatMv))

/-- TAMP_TEST. -/
def tampTestWord (s : State) : Nat :=
  2 ^ 31 * b2n s.aon.test.isSome + 2 ^ 29 * s.aon.testRes.toNat + s.aon.testSrc.toNat

/-- TAMP_SENSE. -/
def tampSense (s : State) : Nat :=
  2 ^ 16 * (BitVec.ofInt 16 s.power.vbatMv).toNat + (BitVec.ofInt 16 s.power.temp).toNat

/-- TAMP as a physical function sees it. -/
def tampWord (s : State) (o : Nat) : Option Nat :=
  let a := s.aon
  if o = 0x00 then some (tampStatus s)
  else if o = 0x04 then some 0
  else if o = 0x08 then some (bitsOf 28 fun i => tampShown s && rawNow s i)
  else if o = 0x0C then some (bitsOf 28 fun i => tampShown s && armed s i)
  else if o = 0x10 then some a.tripped.toNat
  else if o = 0x14 then some a.latched.toNat
  else if o = 0x18 then some a.pending.toNat
  else if o = 0x1C then some (tampTestWord s)
  else if o = 0x20 then some a.rtcSec.toNat
  else if o = 0x24 then some a.rtcFrac.toNat
  else if o = 0x28 then some 0
  else if o = 0x2C then some (2 ^ 16 * a.logWraps + a.logNext)
  else if o = 0x30 then some (if tampShown s then tampSense s else 0)
  else match inArray o 0x100 64, inArray o 0x1000 512 with
    | some k, _ => some (leField (tcr s) (4 * k) 4)
    | _, some k => some (leField (logBytes (sget none a.log (k / 8))) (4 * (k % 8)) 4)
    | none, none => none

/-! ## SLOT (R374) -/

/-- Number of a slot's state. -/
def SlotSt.code : SlotSt → Nat
  | .off => 0 | .probing => 1 | .ready => 2 | .sleep => 3 | .busy => 4 | .fault => 5

/-- SLOT_STATUS. PRESENT shows the DET pin once DET_POL has come from the DCR (R12; DEDUCED, log entry 141). -/
def slotStatus (s : State) (x : Slot) : Nat :=
  2 ^ 31 * b2n (x.present && tampShown s) + 2 ^ 28 * x.st.code + 2 ^ 26 * x.kind.toNat + 2 ^ 24 * x.cls.toNat + 2 ^ 23 * b2n x.width4
    + 2 ^ 20 * x.clk + 2 ^ 8 * x.lastErr.toNat + x.roster.toNat

/-- Number of a session's state and of its end. -/
def QuorumSt.code : QuorumSt → Nat
  | .idle => 0 | .gather => 1 | .open_ => 2
def QuorumEnd.code : QuorumEnd → Nat
  | .none => 0 | .closed => 1 | .limit => 2 | .indeterminate => 3 | .erase => 4 | .reset => 5

/-- SLOT_QSTATUS. -/
def quorumStatus (s : State) : Nat :=
  let q := s.quorum
  2 ^ 30 * q.st.code + 2 ^ 27 * q.ended.code + 2 ^ 20 * q.comps.length + q.mask.toNat

/-- SLOT as a physical function sees it. -/
def slotWord (s : State) (o : Nat) : Option Nat :=
  if o = 0x30 ∨ o = 0x40 ∨ (0x60 ≤ o ∧ o < 0xA0) then some 0
  else if o = 0x44 then some (quorumStatus s)
  else if o = 0x48 then some s.quorum.limit.cur
  else match inArray o 0 2, inArray o 0x10 2, inArray o 0x20 2, inArray o 0xA0 2 with
    | some n, _, _, _ => some (slotStatus s (getSlot s n))
    | _, some n, _, _ => some (getSlot s n).cfg.cur.toNat
    | _, _, some n, _ => some (2 ^ 16 * (getSlot s n).pass.toNat + (getSlot s n).phase)
    | _, _, _, some n => some (2 ^ 31 * b2n (getSlot s n).pwValid + (getSlot s n).pwLen.toNat)
    | none, none, none, none => none

/-! ## HOUSE, IRQ and LIFE (R113, R397) -/

/-- Address of a score sheet (R389). -/
def sheetAddr (k : Nat) : Nat := scoreBase + 256 * k

/-- HOUSE as a physical function sees it. -/
def houseWord (s : State) (o : Nat) : Option Nat :=
  let h := s.house
  if o = 0 then some (2 ^ 31 * b2n h.running + 2 ^ 30 * b2n h.fatal + s.power.fwV.toNat)
  else if o = 4 then some h.msg.toNat
  else if o = 8 then some (2 ^ 24 * h.scLost + 2 ^ 20 * h.newest + h.count)
  else if o = 0xC then some h.sel.toNat
  else (inArray o 0x100 64).map fun k => leNat (rdN s (sheetAddr h.sel.toNat + 4 * k) 4)

/-- IRQ: one copy for each physical function. -/
def readIrq (s : State) (f : Func) (o : Nat) : View :=
  if !isPf f then badReg
  else
    let q := getIrq s (plKey f)
    if o = 0 then (q.status, false) else if o = 4 then (q.enable, false)
    else if o = 8 then shows q.vector.toNat else if o = 0xC then (q.errInfo, false) else badReg

/-- The debug master is present (R387). -/
def debugOn (s : State) : Bool := decide (s.fuses.lc = .blank) || decide (s.fuses.lc = .provisioned)

/-- LIFE_STATUS. -/
def lifeStatus (s : State) : Nat :=
  2 ^ 30 * (match s.fuses.lc with | .blank => 0 | .provisioned => 1 | .sealed => 2 | .retired => 3)
    + 2 ^ 29 * b2n (decide (8 ≤ s.power.phase)) + 2 ^ 28 * b2n (debugOn s) + 2 ^ 27 * b2n s.power.fuseErr + s.fuses.svn

/-- LIFE_IDCODE. -/
def idCode : Nat := 0x17128A5F

/-- LIFE as a physical function sees it. -/
def lifeWord (s : State) (o : Nat) : Option Nat :=
  if o = 0 then some (lifeStatus s)
  else if o = 4 then some idCode
  else if o = 8 then some (fld s.fuses.dieId 31 0)
  else if o = 0xC then some (fld s.fuses.dieId 63 32)
  else if o = 0x10 then some s.fuses.vdm.toNat
  else none

/-! ## The whole of BAR0 (R29) -/

/-- The word at an aligned offset of BAR0, as it stands. -/
def regView (s : State) (f : Func) (off : Nat) : View :=
  let o := off % 0x10000
  match off / 0x10000 with
  | 0x00 => readIdent s f o
  | 0x01 => readPwr s f o
  | 0x02 => readDeal s f o
  | 0x03 | 0x04 | 0x05 | 0x06 | 0x07 => readSeat s f (off - 0x30000)
  | 0x08 => readKitty s f o
  | 0x09 => pfOnly f (laneWord s o)
  | 0x0A => pfOnly f (pkeWord s o)
  | 0x0B => readKeyBlock s f o
  | 0x0C => readRng s f o
  | 0x0D => pfOnly f (protWord s o)
  | 0x0E => pfOnly f (memRegWord s o)
  | 0x0F => pfOnly f (tampWord s o)
  | 0x10 => pfOnly f (slotWord s o)
  | 0x11 => pfOnly f (houseWord s o)
  | 0x12 => readIrq s f o
  | 0x13 => pfOnly f (lifeWord s o)
  | _ => badReg

/-! ## Reads (R6-R9) -/

/-- An offset of the seat window (R88). -/
def inSeats (off : Nat) : Bool := decide (0x30000 ≤ off) && decide (off < 0x70000)

/-- The lower words of 64-bit quantities (R8): ROUND_COUNT, KITTY_COUNT (R125), KEYS_ERASE_ROUND, LIFE_DIE_ID, a seat's
SQ_BASE, CQ_BASE and SHADOW (R89), ROUND of a tamper log entry (R343). -/
def isLower (off : Nat) : Bool :=
  off == 0x20000 || off == 0x80000 || off == 0xB0018 || off == 0x130008
    || (inSeats off && (off % 64 == 0 || off % 64 == 8 || off % 64 == 0x10))
    || (decide (0xF1000 ≤ off) && decide (off < 0xF1800) && off % 32 == 0)

/-- The upper word's offset of a pair whose lower word stands at an offset. -/
def upperOf (off : Nat) : Option Nat := if isLower off then some (off + 4) else none

/-- Whether an offset is the upper word of such a pair. -/
def isUpper (off : Nat) : Bool := decide (4 ≤ off) && isLower (off - 4)

/-- Key of a holding copy: of a seat's context it is the seat's, whatever bank the window shows later. -/
def holdKey (s : State) (f : Func) (off : Nat) : Nat :=
  2 ^ 25 * fkey f + off + (if inSeats off && seatBank s f then 0x200000 else 0)

/-- An aligned access to one whole word (R6). -/
def conforms (off size : Nat) : Bool := size == 4 && off % 4 == 0

/-- What a read of an RC register leaves of it for a function that may see it: the bits of a mask (R9). -/
def keepRc (s : State) (f : Func) (off : Nat) (m : Word) : State :=
  if off = 0x70004 then { s with cnt := { s.cnt with dbDiscard := sput 0 s.cnt.dbDiscard (fkey f) (sget 0 s.cnt.dbDiscard (fkey f) &&& m) } }
  else if !isPf f then s
  else if off = 0x2010C then { s with dealer := { s.dealer with busyCnt := s.dealer.busyCnt &&& m } }
  else if off = 0x80008 then { s with kitty := { s.kitty with refused := s.kitty.refused &&& m } }
  else if off = 0x8000C then { s with kitty := { s.kitty with deniedC := s.kitty.deniedC &&& m } }
  else if off = 0x90008 then { s with cnt := { s.cnt with migWait := s.cnt.migWait &&& m } }
  else if off = 0xA0080 then { s with cnt := { s.cnt with pkeInvalid := s.cnt.pkeInvalid &&& m } }
  else if off = 0xA0084 then { s with cnt := { s.cnt with dsaMax := s.cnt.dsaMax &&& m } }
  else if off = 0xB0028 then { s with keys := { s.keys with deny := s.keys.deny &&& m } }
  else if off = 0xC0010 then { s with rng := { s.rng with unavail := s.rng.unavail &&& m } }
  else if off = 0xD0000 then { s with prot := { s.prot with suitCnt := s.prot.suitCnt &&& m } }
  else if off = 0xD0004 then { s with prot := { s.prot with spanCnt := s.prot.spanCnt &&& m } }
  else if off = 0xD0008 then { s with prot := { s.prot with debugCnt := s.prot.debugCnt &&& m } }
  else if off = 0xE0008 then { s with prot := { s.prot with ueCnt := s.prot.ueCnt &&& m } }
  else if off = 0x110004 then { s with house := { s.house with msg := s.house.msg &&& m } }
  else s

/-- An RC register read whole by a function that may see it is cleared (R9). -/
def clearRc (s : State) (f : Func) (off : Nat) : State := keepRc s f off 0

/-- The copy of an upper word that a conforming read of the lower word leaves, and the one a conforming read of the upper
word consumes (R8). -/
def holdStep (s : State) (f : Func) (off : Nat) : State :=
  match upperOf off with
  | some u => { s with cnt := { s.cnt with
      holding := sput none s.cnt.holding (holdKey s f u) (some (regView s f u).1) } }
  | none =>
    if isUpper off then { s with cnt := { s.cnt with holding := sput none s.cnt.holding (holdKey s f off) none } } else s

/-- The word a conforming read answers. -/
def readWord (s : State) (f : Func) (off : Nat) : Word :=
  match (if isUpper off then sget none s.cnt.holding (holdKey s f off) else none) with
  | some w => w
  | none => (regView s f off).1

/-- A read of BAR0 (R6-R8, R11): one that breaks R6, or that is not its function's to make, answers the live word without
side effect. -/
def barRead (s : State) (f : Func) (off size : Nat) : State :=
  let o := off / 4 * 4
  let v := regView s f o
  if conforms off size then
    if v.2 then regErr { s with answer := .word v.1 } f off
    else clearRc (holdStep { s with answer := .word (readWord s f o) } f o) f o
  else regErr { s with answer := .word v.1 } f off

/-- A read of BAR0 by a function that reaches the device (R83). -/
def hostRead (s : State) (f : Func) (off size : Nat) : State := if hostOk s f then barRead s f off size else s

/-- LOWER_WORD_READ (R8): the read captures the upper word. -/
def execLowerWordRead (f : Func) (off size : Nat) (s : State) : Out := .next (hostRead s f off size)

/-- UPPER_WORD_READ (R8): the read answers the copy held for its function, or the live word. -/
def execUpperWordRead (f : Func) (off size : Nat) (s : State) : Out := .next (hostRead s f off size)

/-- A read of an RC register, whole or breaking R6 (R7, R9). -/
def rcRead (s : State) (f : Func) (off : Nat) (whole : Bool) : Out := .next (hostRead s f off (if whole then 4 else 1))

/-- DB_DISCARD_CNT (R88). -/
def execDbDiscardCnt (f : Func) (whole : Bool) (s : State) : Out := rcRead s f 0x70004 whole
/-- DEAL_HAND_BUSY_CNT (R80). -/
def execDealHandBusyCnt (f : Func) (whole : Bool) (s : State) : Out := rcRead s f 0x2010C whole
/-- KITTY_REFUSE_CNT (R125). -/
def execKittyRefuseCnt (f : Func) (whole : Bool) (s : State) : Out := rcRead s f 0x80008 whole
/-- KITTY_DENY_CNT (R125). -/
def execKittyDenyCnt (f : Func) (whole : Bool) (s : State) : Out := rcRead s f 0x8000C whole
/-- LANE_MIG_WAIT_CNT (R157). -/
def execLaneMigWaitCnt (f : Func) (whole : Bool) (s : State) : Out := rcRead s f 0x90008 whole
/-- PKE_INVALID_CNT (R204). -/
def execPkeInvalidCnt (f : Func) (whole : Bool) (s : State) : Out := rcRead s f 0xA0080 whole
/-- PKE_DSA_MAX (R204). -/
def execPkeDsaMax (f : Func) (whole : Bool) (s : State) : Out := rcRead s f 0xA0084 whole
/-- KEYS_DENY_CNT (R230). -/
def execKeysDenyCnt (f : Func) (whole : Bool) (s : State) : Out := rcRead s f 0xB0028 whole
/-- RNG_UNAVAIL_CNT (R249). -/
def execRngUnavailCnt (f : Func) (whole : Bool) (s : State) : Out := rcRead s f 0xC0010 whole
/-- PROT_SUIT_FAULT_CNT (R321). -/
def execProtSuitFaultCnt (f : Func) (whole : Bool) (s : State) : Out := rcRead s f 0xD0000 whole
/-- PROT_SPAN_CNT (R321). -/
def execProtSpanCnt (f : Func) (whole : Bool) (s : State) : Out := rcRead s f 0xD0004 whole
/-- DEBUG_DENY_COUNT (R321). -/
def execDebugDenyCount (f : Func) (whole : Bool) (s : State) : Out := rcRead s f 0xD0008 whole
/-- MEM_UE_CNT (R322). -/
def execMemUeCnt (f : Func) (whole : Bool) (s : State) : Out := rcRead s f 0xE0008 whole
/-- HOUSE_MSG (R397). -/
def execHouseMsg (f : Func) (whole : Bool) (s : State) : Out := rcRead s f 0x110004 whole

end Sys2Proof.Machine
end

