-- ==== Sys2Proof/Machine/Score.lean ====
section
/-!
DEFINITION. Score sheets (R393-R395), the faults of a lane and of the house pair (R77, R289), and the restart of a lane.
-/
namespace Sys2Proof.Machine

/-! ## Sheets (R394) -/

/-- What a sheet records of the device: RTC_SEC, then bytes 64-151. unit: a lane, or 0x100 for the house, which has no
deck. -/
def scoreSnap (s : State) (unit : Nat) : Bytes :=
  natLe 4 s.aon.rtcSec.toNat
    ++ ((List.range 16).flatMap fun d => natLe 4 (laneStateWord s d))
    ++ natLe 4 (dealStatus s) ++ natLe 4 s.prot.ueLast.toNat ++ natLe 4 s.aon.tripped.toNat
    ++ natLe 4 (keysStatus s) ++ natLe 4 (rngStatus s)
    ++ (if unit < 128 then natLe 4 (pkeStat (getEngine s (unit / 8))) else zeros 4)

/-- Bytes 0-251 of a sheet with a sequence number. -/
def sheetBody (s : State) (q : ScoreReq) (seq : Nat) : Bytes :=
  let snap := q.snap.getD (scoreSnap s q.unit)
  natLe 4 0x31535647 ++ natLe 2 seq ++ [q.cause] ++ natLe 1 s.fuses.lc.code ++ natLe 8 q.round ++ snap.take 4
    ++ natLe 2 q.unit ++ natLe 2 q.seat ++ natLe 2 q.sq ++ [q.opcode, q.status] ++ natLe 2 q.detail.toNat ++ zeros 2
    ++ padTo 24 q.frame ++ natLe 2 q.play.toNat ++ natLe 2 q.left.toNat ++ natLe 2 q.late.toNat ++ [q.lateI, 0]
    ++ snap.drop 4 ++ padTo 100 q.data

/-- The 256 bytes of a sheet. -/
def sheetBytes (s : State) (q : ScoreReq) (seq : Nat) : Bytes :=
  let b := sheetBody s q seq
  b ++ natLe 4 (crc32c b).toNat

/-- A sheet written to the ring: the first one is number 1 and lies at index 0 (DEDUCED, log entry 43). -/
def writeSheet (s : State) (q : ScoreReq) : State :=
  let h := s.house
  let k := h.count % 16
  let s1 := store s (sheetAddr k) (sheetBytes s q ((h.count + 1) % 65536))
  raiseAll { s1 with house := { s1.house with newest := k, count := (h.count + 1) % 65536 } } 24

/-- The causes of a round take their record of the device as the round ends. -/
def snapScores (s : State) : State :=
  { s with house := { s.house with
    queue := s.house.queue.map fun q => { q with snap := some (q.snap.getD (scoreSnap s q.unit)) } } }

/-- SCORE_SHEET (R393): house firmware writes the sheet of the oldest waiting cause. -/
def execScoreSheet (s : State) : Out :=
  match s.house.queue with
  | q :: rest =>
    if houseUp s then .next (writeSheet { s with house := { s.house with queue := rest } } q) else .next s
  | [] => .next s

/-! ## Device-fatal causes (R289, R393) -/

/-- A device-fatal cause: the scorer's sheet comes first, queued sheets are lost and counted, FREEZE applies, and the
house pair stops (R398). -/
def houseFatal (s : State) (cause : Nat) (frame data : Bytes) : State :=
  if s.house.fatal then s
  else
    let lost := s.house.queue.length
    let s1 := { s with house := { s.house with
      queue := [], scLost := min 0xFF (s.house.scLost + lost), fatal := true, running := false
      core := { s.house.core with stopped := true }, twin := { s.house.twin with stopped := true } } }
    let s2 := freeze s1
    writeSheet s2
      { cause := BitVec.ofNat 8 cause, round := s.round, unit := 0x100, seat := 0xFFFF, sq := 0, opcode := 0, status := 0
        detail := 0, frame := frame, play := 0, left := 0, late := s.house.core.lateAddr, lateI := s.house.core.lateInfo
        data := data, snap := none }

/-! ## Lane faults (R77, R289, R318) -/

/-- The part of a segment that a stopped lane takes with it: the running segment ends with this status, and segments
bound for later rounds are withdrawn. -/
def stopLane (s : State) (l : Nat) (st : Status) (d : BitVec 16) : State :=
  (getLane s l).binds.foldl (fun t b =>
    if b.posted then t
    else if s.round < b.first then unbind t l b
    else abortSeg t l b st d s.round) s

/-- STACK_COLLAPSE on a lane core (R289). Its sheet, and that of the completion with INTERNAL it brings, are two causes
of R393 (DEDUCED, log entry 44). -/
def laneCollapse (s : State) (l : Nat) : State :=
  let s1 := stopLane (queueScore s (laneScore s l 1 .internal 0x0B01)) l .internal 0x0B01
  let s2 := modLane s1 l fun ln =>
    { ln with fault := true, faultAt := s.round, core := { ln.core with stopped := true } }
  raiseAll s2 25

/-- LANE_RESTART (R289): once its sheet is written, house firmware starts a stopped lane core again from R277. -/
def execLaneRestart (lane : Fin 128) (s : State) : Out :=
  let ln := getLane s lane.val
  let waits := s.house.queue.any fun q => q.cause == 1 && q.unit == lane.val
  if houseUp s && ln.core.stopped && !waits then
    .next (setLane s lane.val { ln with core := .reset })
  else .next s

end Sys2Proof.Machine
end

