-- ==== Sys2Proof/Machine/Power.lean ====
section
/-!
DEFINITION. Power states (R375-R377), main reset (R12, R39), boot (R379-R385), the always-on domain's supply (R323,
R331-R335), and the commands on them.
-/
namespace Sys2Proof.Machine

/-! ## Main reset (R12, R39, R327, R376) -/

/-- The always-on domain after a main reset: its own state is kept; what its registers show of the main domain is not. -/
def aonKept (a : Aon) : Aon :=
  { a with
    freeze := a.freeze && a.thaw.isNone, thaw := none, lost := false, flip := none, test := none, testRes := 0
    testSrc := 0 }

/-- A slot after a main reset: its credential is still there (R348). -/
def slotKept (x : Slot) : Slot := { Slot.reset with present := x.present }

/-- The house block after a main reset: its sheets and their counters are kept (R393). -/
def houseKept (h : House) : House := { House.reset with scLost := h.scLost, newest := h.newest, count := h.count }

/-- Power after a main reset: supplies and pins stand as they are; an MCTP endpoint kept running keeps its ID (R327). -/
def powerKept (p : Power) (keep : Bool) : Power :=
  { Power.reset with
    main := p.main, cell := p.cell, perst0 := p.perst0, perst1 := p.perst1, eid := if keep then p.eid else 0 }

/-- A main reset with main power present: every register of the main domain at its reset value, memories as they were
written (R13), written bits and tags cleared (R299, R315), a session under way ended with RESET (R370; END without one, log entry 107). -/
def mainReset (s : State) : State :=
  let on := decide (s.quorum.st ≠ .idle)
  let s1 : State := { State.reset with
    pending := s.pending
    mem := s.mem
    power := powerKept s.power (keepSideband s)
    fuses := s.fuses
    aon := aonKept s.aon
    dealer := { Dealer.reset with frozen := s.aon.freeze && s.aon.thaw.isNone }
    prot := { Prot.reset with bad := s.prot.bad }
    rng := .reset
    house := houseKept s.house
    slots := sput .reset (sput .reset [] 0 (slotKept (getSlot s 0))) 1 (slotKept (getSlot s 1))
    quorum := { Quorum.reset with ended := if on then .reset else .none } }
  if on then slotEvent s1 else s1

/-- What is left when main power goes: the always-on domain, the fuses, the flash, and the pins (R323). -/
def powerDown (s : State) : State :=
  { mainReset s with
    mem := s.mem.filter fun e => decide (flashBase ≤ e.1) && decide (e.1 < scoreBase)
    prot := .reset
    house := .reset
    power := powerKept s.power false
    quorum := .reset
    irq := [] }

/-- A change of supply restarts every filter counter, and sampling goes on at the new supply's periods (R324, R325). -/
def restartFilters (a : Aon) : Aon :=
  let fs := a.filters.map fun e => (e.1, { e.2 with hits := 0, misses := 0, next := 0 })
  { a with filters := fs.filter fun e => decide (e.2 ≠ Filter.reset) }

/-- Both PERST# inputs are high (R401). -/
def perstHigh (p : Power) : Bool := !p.perst0 && !p.perst1

/-! ## Boot phases 1 and 2 (R39, R224, R334, R379) -/

/-- The sentinel of the always-on domain (R334). -/
def sentinelCheck (s : State) : State :=
  if s.aon.sentinel = 0x5EA70001 then s
  else logEvent { s with aon := { s.aon with lost := true, sentinel := 0x5EA70001 } } 0x40 0 0 0

/-- A boot phase begins. -/
def enterPhase (s : State) (n : Nat) : State :=
  { s with power := { s.power with phase := n, phaseAt := s.power.bootRounds } }

/-- Phases 1 and 2: ROUND_COUNT starts at 0 with CLK_CORE, and the boot erase and the noise sources start. -/
def bootStart (s : State) : State :=
  let s1 := sentinelCheck { s with round := 0, power := { s.power with st := .run, clock := true } }
  enterPhase (rngStart (eraseStore s1 true)) 3

/-- PERST# high with main power: the boot runs from main reset. -/
def bootFrom (s : State) (railsGood : Bool) : State :=
  let s1 := { mainReset s with power := { (mainReset s).power with st := .run } }
  if railsGood then bootStart s1 else enterPhase s1 1

/-! ## The Device Configuration Record (R384, R385) -/

/-- The default record. -/
def dcrDefault : Bytes :=
  zeros 16 ++ natLe 2 2048 ++ natLe 2 0 ++ natLe 2 2048 ++ natLe 2 0 ++ zeros 8
    ++ List.replicate 16 0x13 ++ ((List.range 16).flatMap fun _ => natLe 2 0x0100)
    ++ natLe 4 0x00371100 ++ natLe 4 0x00371100 ++ [1] ++ zeros 1959

/-- MSI-X entries of a link fit its table. -/
def msixFits (b : Bytes) (p k : Nat) : Bool :=
  let i := 2 * p + k
  let split := bit (byteAt b 8) p
  (k == 1 && !split)
    || decide (leField b (16 + 2 * i) 2 + (byteAt b (12 + i)).toNat * leField b (24 + 2 * i) 2
        ≤ (if split then 1024 else 2048))

/-- A copy of the record is legal. -/
def dcrLegal (s : State) (b : Bytes) : Bool :=
  leField b 0 4 == 0x31444756 && leField b 4 2 == 1 && leField b 6 2 == 2048
    && leField b 2044 4 == (crc32c (b.take 2044)).toNat
    && allZero (slice b 9 3) && allZero (slice b 89 7) && allZero (slice b 1536 412)
    && msixFits b 0 0 && msixFits b 0 1 && msixFits b 1 0 && msixFits b 1 1
    && (match s.fuses.lc with
      | .provisioned | .sealed => Config.ownerSigOk s.fuses.owner (b.take 1948) (slice b 1948 96)
      | .blank | .retired => true)

/-- DEAL_COVER of a deck from its byte of the record; a LEVEL below FLOOR stores FLOOR. -/
def coverOf (b : Byte) : Word :=
  mkWord (256 * fld b 6 4 + 16 * fld b 3 2 + max (fld b 1 0) (fld b 3 2))

/-- An engine's control from its two bytes of the record. -/
def pkeOf (n : Nat) (e : Engine) : Engine :=
  { e with idleFill := .now (bits n 8 8 == 1), dsaPad := .now (BitVec.ofNat 4 (bits n 7 4)), blind := .now (bits n 0 0 == 1) }

/-- Bits of SLOT_CFG that exist (R374). -/
def slotCfgMask : Word := 0xFF773100

/-- The fields marked DCR take the values of the record in force. -/
def applyDcr (s : State) : State :=
  let b := s.power.dcr
  let s1 := { s with
    dealer := { s.dealer with
      cover := (List.range 16).foldl (fun m d => sput 0 m d (coverOf (byteAt b (32 + d)))) s.dealer.cover }
    prot := { s.prot with scrubEn := .now (bit (byteAt b 88) 0) } }
  let s2 := (List.range 16).foldl (fun t d => modEngine t d (pkeOf (leField b (48 + 2 * d) 2))) s1
  (List.range 2).foldl (fun t n => modSlot t n fun x =>
    { x with cfg := .now (mkWord (leField b (80 + 4 * n) 4) &&& slotCfgMask) }) s2

/-- The primary copy if it is legal, else the backup, else the defaults. -/
def readDcr (s : State) : State :=
  let a := rdN s (flashBase + 0xFF0000) 2048
  let b := rdN s (flashBase + 0xFF0800) 2048
  let p := s.power
  let q := if dcrLegal s a then { p with dcr := a }
    else if dcrLegal s b then { p with dcr := b, dcrBackup := true }
    else { p with dcr := dcrDefault, dcrDef := true }
  applyDcr { s with power := q }

/-! ## The TCR and deferred responses (R332, R341) -/

/-- The active bank's CHECK is verified; if it fails the factory defaults apply. -/
def tcrBoot (s : State) : State :=
  let b := if s.aon.bank then s.aon.tcr1 else s.aon.tcr0
  if tcrCheckOk b then { s with aon := { s.aon with defaulted := false } }
  else logEvent { s with aon := { s.aon with defaulted := true } } 0x43 0 0 0

/-- The responses that were deferred on the backup cell: the union of the pending sources' sets; with LATCH in it all of
them are latched (R332; DEDUCED, log entry 61). -/
def applyPending (s : State) : State :=
  let is := (List.range 28).filter fun i => bit s.aon.pending i
  if is.isEmpty then s
  else
    let r := unionSet s is
    let s1 := if bit r rFreeze || bit r rLatch then freeze s else s
    let la := if bit r rLatch then is else []
    let s2 := { s1 with aon := { s1.aon with
      latched := la.foldl (fun v i => setBit v i true) s1.aon.latched, pending := 0 } }
    let s3 := if bit r rIrq then raiseAll s2 28 else s2
    logEvent s3 0x41 0 0 0

/-! ## Images (R381-R383) -/

/-- OFFSET, LENGTH, hash and VERSION of entry k of a directory. -/
def entryAt (dir : Bytes) (k : Nat) : Nat × Nat × Bytes × Nat :=
  let e := slice dir (16 + 64 * k) 64
  (leField e 0 4, leField e 4 4, slice e 8 48, leField e 56 2)

/-- The image of entry k of the copy at a flash offset. -/
def imageAt (s : State) (base : Nat) (dir : Bytes) (k : Nat) : Bytes :=
  let e := entryAt dir k
  rdN s (flashBase + base + e.1) e.2.1

/-- Lengths the directory may give its four images, each inside the flash (DEDUCED: another length is a directory
failure, log entry 45). -/
def lengthsOk (base : Nat) (dir : Bytes) : Bool :=
  (List.range 4).all (fun k => decide (base + (entryAt dir k).1 + (entryAt dir k).2.1 ≤ 0x10000000)) &&
  decide ((entryAt dir 0).2.1 ≤ 0xC000) && decide ((entryAt dir 1).2.1 ≤ 0x2000) && decide ((entryAt dir 2).2.1 = 1536)
    && decide ((entryAt dir 3).2.1 ≤ 0x8000)

/-- ERR_CODE of a copy, 0 when it is accepted. -/
def copyError (s : State) (base : Nat) : Nat :=
  let dir := rdN s (flashBase + base) 512
  let pub := slice dir 272 97
  let sg := slice dir 384 96
  if leField dir 0 4 ≠ 0x31425647 ∨ leField dir 4 2 ≠ 1 ∨ lengthsOk base dir = false then 1
  else if hashOf 2 (slice dir 272 112) ≠ Config.vendorKeyHash then 2
  else if !ecdsaVerify (curveOf 2) (some (ptCoords (curveOf 2) pub)) (beNat (sg.take 48)) (beNat (sg.drop 48))
      (hashOf 2 (dir.take 384)) then 3
  else if (byteAt dir 6).toNat < s.fuses.svn then 4
  else if (List.range 4).any (fun k => decide ((entryAt dir k).2.1 ≠ 0 ∧ hashOf 2 (imageAt s base dir k) ≠ (entryAt dir k).2.2.1)) then 5
  else 0

/-- The applet package of a copy, when the owner's signature verifies; in BLANK none is accepted. -/
def appletPackage (s : State) (base : Nat) (dir : Bytes) : Option Bytes :=
  let b := imageAt s base dir 3
  let n := b.length - 96
  if b.length < 96 ∨ s.fuses.lc = .blank then none
  else if Config.ownerSigOk s.fuses.owner (b.take n) (b.drop n) then some b else none

/-- Words of a region as the array keeps them (R309). -/
def regionWord0 (w : Word) : Word :=
  let o := fld w 4 0
  mkWord (2 ^ 16 * (fld w 31 16 / 2 ^ o * 2 ^ o) + 256 * fld w 15 8 + o)
def regionWord1 (w : Word) : Word := w &&& 0x13F

/-- A word of the region array as the array keeps it; i even: word 0. -/
def regionStore (i : Nat) (w : Word) : Word := if i % 2 = 0 then regionWord0 w else regionWord1 w

/-- The region sets the house image gives every core. -/
def loadRegions (s : State) (img : Bytes) : State :=
  { s with prot := { s.prot with
    regions := (List.range 4128).foldl (fun m i =>
      sput 0 m i (regionStore i (Config.regionWord img (i / 32) (i % 32)))) s.prot.regions } }

/-- Play RAM as the image gives it: microwords 0-191, and 192-255 from the applet package (R135). -/
def playImage (play pkg : Bytes) : Bytes := padTo 1536 play ++ (List.range 512).map (Config.appletMicro pkg)

/-- One lane's play RAM and kernel image. -/
def loadLane (s : State) (play kernel : Bytes) (l : Nat) : State :=
  store (store s (laneBase l + 0xA000) play) (laneBase l + 0xC000) (padTo 0x2000 kernel)

/-- Phase 6: firmware, lane kernels, play RAM, regions, applet table. The first 8 KiB of the house image lie in the
house map (DESIGN CHOICE, log entry 46). -/
def loadFirmware (s : State) (base : Nat) : State :=
  let dir := rdN s (flashBase + base) 512
  let house := imageAt s base dir 0
  let pkg := appletPackage s base dir
  let play := playImage (imageAt s base dir 2) (pkg.getD [])
  let s1 := (List.range 128).foldl (fun t l => loadLane t play (imageAt s base dir 1) l) s
  let s2 := loadRegions (store s1 0xC000 (padTo 0x2000 (house.take 0x2000))) house
  let ver (k : Nat) : BitVec 16 := BitVec.ofNat 16 (entryAt dir k).2.2.2
  { s2 with
    power := { s2.power with
      kernelV := ver 1, appletsV := if pkg.isSome then ver 3 else 0, fwV := ver 0
      applets := match pkg with
        | some b => (List.range 64).foldl (fun m a => sput 0 m a (Config.appletTable b a)) []
        | none => [] }
    dealer := { s2.dealer with plays := some play }
    house := { s2.house with running := true } }

/-- The boot ends in recovery (R379, R396). -/
def recover (s : State) (err : Nat) : State :=
  { s with
    power := { s.power with
      phase := 9, bootErr := true, errCode := err, bootTime := min 0xFFFF (s.power.bootRounds / 250)
      clock := true, kernelV := 0, appletsV := 0 }
    house := { s.house with running := false } }

/-- Phases 5 and 6: copy A, then copy B. -/
def bootImages (s : State) : State :=
  let a := copyError s 0
  let b := copyError s 0x800000
  if a = 0 then enterPhase (loadFirmware s 0) 7
  else if b = 0 then
    enterPhase (loadFirmware { s with power := { s.power with imageB := true, errCode := a } } 0x800000) 7
  else recover s b

/-- FLASH_READY (R379): phase 3 ends; phases 4 to 6 run. -/
def execFlashReady (s : State) : Out :=
  if s.power.phase = 3 then .next (bootImages (applyPending (tcrBoot (readDcr s)))) else .next s

/-- Limit of a boot phase in rounds. -/
def phaseLimit (n : Nat) : Nat := if n = 3 then 2500000 else 25000

/-- BOOT_PHASE_LIMIT (R379, R405): phase 1 held by a rail, a flash that never answers, or a phase 7 that runs out. -/
def execBootPhaseLimit (s : State) : Out :=
  let p := s.power
  if p.phase = 1 then .next (recover s 7)
  else if (p.phase = 3 ∨ p.phase = 7) ∧ p.phaseAt + phaseLimit p.phase ≤ p.bootRounds then
    .next (recover s (if p.phase = 3 then 6 else 7))
  else .next s

/-! ## Phase 7 (R215, R227, R240, R379, R383) -/

/-- The boot draws go to the mask generators, MIG_KEY and the nonce. -/
def bootSeed (s : State) : State :=
  let bs := s.power.bootBlk
  let s1 := (List.range 128).foldl (fun t l => modLane t l fun ln =>
    { ln with banks := { ln.banks with mask := (bs.drop (2 * l)).take 2 } }) s
  { s1 with keys := { s1.keys with migKey := (bs.drop 256).head? }, power := { s1.power with bootBlk := [] } }

/-- The boot rearm: requested as by a REARM write (R227). -/
def bootRearm (s : State) : State :=
  if s.aon.rootValid && !s.keys.ready && !s.keys.wipeFault && s.keys.rearm.isNone && decide (s.fuses.lc ≠ .retired) then
    { s with keys := { s.keys with rearm := some s.round } }
  else s

/-- READY: the fused SVN count rises to the accepted copy's, and house firmware takes up the credentials present. -/
def bootReady (s : State) : State :=
  let base := if s.power.imageB then 0x800000 else 0
  let svn := (rd s (flashBase + base + 6)).toNat
  let s1 := { s with
    power := { s.power with phase := 8, bootTime := min 0xFFFF (s.power.bootRounds / 250) }
    fuses := { s.fuses with svn := max s.fuses.svn (min 63 svn) } }
  (List.range 2).foldl (fun t n =>
    if (getSlot t n).present && decide ((getSlot t n).st = .off) then startSlot t n else t) (bootRearm s1)

/-- The boot in one round: its draws, then its end once they are delivered and the wipe has ended. -/
def bootTurn (s : State) : State :=
  if s.power.phase ≠ 7 then s
  else match s.power.drawn with
    | none =>
      if shoeHas s 259 then shoeReserve { s with power := { s.power with drawn := some s.round, bootBlk := nextBlocks s 259 } } 259 else s
    | some r =>
      let s1 := if r + 1 = s.round then bootSeed s else s
      if !s1.keys.wiping && decide (r < s.round) then bootReady s1 else s1

/-! ## Power commands (R376, R377, R398) -/

/-- Every seat is OFF or ARMED in this round. -/
def seatsQuiet (s : State) : Bool :=
  s.seats.all fun e => decide (seatState s e.2 = .off) || decide (seatState s e.2 = .armed)

/-- A write of PWR_CTRL.STATE by a physical function; an ENABLE of its round is dropped as it takes effect (seatAct). RUN asked for in RUN is no request (DEDUCED, log entry 47). -/
def powerRequest (s : State) (f : Func) (v : BitVec 2) : State :=
  let p := s.power
  let up := decide (p.st = .run) || decide (p.st = .standby)
  let bad := if up then regErr s f 0x10000 else s
  if v = 0 then s
  else if v = 1 then
    if p.st = .run ∨ p.st = .standby then
      let s1 := mainReset (eraseStore s false)
      { s1 with power := { s1.power with st := .aonOnly } }
    else bad
  else if v = 2 then
    if p.st = .run ∧ p.stbyAt = none ∧ seatsQuiet s = true then
      { s with power := { p with reqSt := v, stbyAt := some s.round } }
    else bad
  else if p.st = .standby then
    rngStart { s with power := { p with st := .run, clock := true, reqSt := v } }
  else if p.st = .run ∧ p.stbyAt = none then { s with power := { p with reqSt := v } }
  else bad

/-- A write of PWR_CTRL. -/
def pwrCtrlWrite (s : State) (f : Func) (v : Word) : State :=
  let s1 := { s with power := { s.power with gateEn := s.power.gateEn.put s.round (s.round + 3) (bit v 8) } }
  powerRequest s1 f (BitVec.ofNat 2 (fld v 1 0))

/-- PWR_CTRL written with a state and the gating bit it reads. -/
def pwrCmd (s : State) (f : Func) (st : Nat) : State :=
  pfWrite s f 0x10000 fun t => pwrCtrlWrite t f (mkWord (256 * b2n t.power.gateEn.cur + st))

/-- STANDBY_REQUEST (R376). -/
def execStandbyRequest (f : Func) (s : State) : Out := .next (pwrCmd s f 2)
/-- RUN_REQUEST (R376, R377). -/
def execRunRequest (f : Func) (s : State) : Out := .next (pwrCmd s f 3)
/-- AON_ONLY_REQUEST (R376). -/
def execAonOnlyRequest (f : Func) (s : State) : Out := .next (pwrCmd s f 1)

/-- The seats' timers have stood still since a STANDBY request, and go on from there in RUN (R377; DEDUCED, log entry 156). -/
def holdTimers (s : State) : State :=
  let held := s.round - s.power.stbyAt.getD s.round
  eachSeat s fun t i => modSeat t i fun x => { x with oldest := x.oldest.map (· + held) }

/-- CLK_CORE stops at the end of round n + 2 of a STANDBY request: the shoe is flushed and the RNG stops (R377). -/
def standbyEnter (s0 : State) : State :=
  let s := holdTimers s0
  let g := s.rng
  { s with
    power := { s.power with st := .standby, clock := false, stbyAt := none }
    rng := { g with
      st := .startup, shoe := [], resv := 0, flushed := g.flushed + g.level, pool := [], expA := .reset, expB := .reset
      src := (g.src.map fun e => (e.1, { e.2 with on := false, healthy := false })).filter
        fun e => decide (e.2 ≠ Source.reset) } }

/-! ## Supplies and PERST# (R323, R331-R335, R376, R401) -/

/-- PERST_ASSERT (R376, R401): main reset is held while either input is low. -/
def execPerstAssert (port : Fin 2) (s : State) : Out :=
  let p := if port = 0 then { s.power with perst0 := true } else { s.power with perst1 := true }
  let s1 := { s with power := p }
  if p.main then .next { mainReset s1 with power := { (mainReset s1).power with st := .run } } else .next s1

/-- PERST_RELEASE (R376, R379, R401): the boot starts when the later input rises, with main power good. -/
def execPerstRelease (port : Fin 2) (railsGood : Bool) (s : State) : Out :=
  let low := if port = 0 then s.power.perst0 else s.power.perst1
  let p := if port = 0 then { s.power with perst0 := false } else { s.power with perst1 := false }
  let s1 := { s with power := p }
  if low && perstHigh p && p.main then .next (bootFrom s1 railsGood) else .next s1

/-- MAIN_POWER_GOOD (R323, R325, R376): the always-on domain moves to main power. A domain that was lost starts from
its values after loss. -/
def execMainPowerGood (s : State) : Out :=
  if s.power.main then .next s
  else
    let s1 := { s with aon := restartFilters s.aon, power := { s.power with main := true, st := .run } }
    .next (if perstHigh s1.power then bootFrom s1 true else s1)

/-- MAIN_POWER_LOSS (R323, R325, R331, R345, R376): the main domain is lost; without a cell the always-on domain is lost
too. The responses of sources that have qualified in this round are deferred. -/
def execMainPowerLoss (s : State) : Out :=
  if !s.power.main then .next s
  else
    let s1 := powerDown s
    let c := s.power.cell
    let s2 := { s1 with
      aon := if c then restartFilters { s1.aon with due := 0 } else .reset
      power := { s1.power with main := false, st := if c then .aonOnly else .off } }
    .next (if c then (dueSources s).foldl batteryTrip s2 else s2)

/-- AON_LOSS (R333-R335): the backup cell is removed; without main power that loses the always-on domain. -/
def execAonLoss (s : State) : Out :=
  let s1 := { s with power := { s.power with cell := false } }
  if s.power.main then .next s1
  else .next { s1 with aon := .reset, power := { s1.power with st := .off } }

/-- VBAT_APPLIED (R376): in OFF the always-on domain runs on the cell. -/
def execVbatApplied (s : State) : Out :=
  .next { s with power := { s.power with cell := true, st := if s.power.st = .off then .aonOnly else s.power.st } }

end Sys2Proof.Machine
end

