-- ==== Sys2Proof/Machine/Regs.lean ====
section
/-!
DEFINITION. Writes of BAR0 registers (R6, R7, R10, R11) and the IRQ block (R113).
-/
namespace Sys2Proof.Machine

/-! ## The IRQ block (R10, R113) -/

/-- Cause bits of IRQ_STATUS and IRQ_ENABLE. -/
def irqMask : Word := 0xFFF00000

/-- IRQ_STATUS written: bits written 1 are cleared, but for causes raised in the same cycle, which stay set and send
their message. -/
def irqStatusWrite (s : State) (f : Func) (v same : Word) : State :=
  let q := getIrq s (plKey f)
  let s1 := setIrq s (plKey f) { q with status := q.status &&& ~~~(v &&& irqMask) }
  (List.range 32).foldl (fun t b => if 20 ≤ b ∧ bit v b = true ∧ bit same b = true then raiseIrq t (plKey f) b true else t) s1

/-- Registers of the IRQ block written by a physical function. -/
def irqWrite (s : State) (f : Func) (o : Nat) (v : Word) : State :=
  let k := plKey f
  if o = 0 then irqStatusWrite s f v 0
  else if o = 4 then setIrq s k { getIrq s k with enable := v &&& irqMask }
  else if o = 8 then setIrq s k { getIrq s k with vector := BitVec.ofNat 11 (fld v 10 0) }
  else s

/-- IRQ_STATUS (R10, R113). -/
def execIrqStatus (f : Func) (v sameCycle : Word) (s : State) : Out :=
  .next (pfWrite s f 0x120000 fun t => irqStatusWrite t f v sameCycle)

/-! ## Seat context (R88, R89) -/

/-- A 64-bit base with one word replaced. -/
def putWord (b : BitVec 64) (hi : Bool) (v : Word) : BitVec 64 :=
  BitVec.ofNat 64 (if hi then 2 ^ 32 * v.toNat + fld b 31 0 else 2 ^ 32 * fld b 63 32 + v.toNat)

/-- A context register written in a state that allows it. -/
def contextPut (s : State) (i r : Nat) (v : Word) : State :=
  modSeat s i fun x =>
    if r = 0x00 then { x with sqBase := putWord x.sqBase false (v &&& 0xFFFFF000) }
    else if r = 0x04 then { x with sqBase := putWord x.sqBase true v }
    else if r = 0x08 then { x with cqBase := putWord x.cqBase false (v &&& 0xFFFFF000) }
    else if r = 0x0C then { x with cqBase := putWord x.cqBase true v }
    else if r = 0x10 then { x with shadow := putWord x.shadow false (v &&& 0xFFFFFFF8), shadowEn := bit v 0 }
    else if r = 0x14 then { x with shadow := putWord x.shadow true v }
    else if r = 0x18 then { x with sqLog2 := BitVec.ofNat 5 (fld v 4 0), cqLog2 := BitVec.ofNat 5 (fld v 12 8) }
    else { x with stageLim := min 4096 (max 128 (fld v 12 0)) }

/-- COAL_TIME written. -/
def coalWrite (s : State) (i : Nat) (v : Word) : State :=
  modSeat s i fun x => { x with coalTime := x.coalTime.put s.round (s.round + 1) (fld v 23 0) }

/-- A seat-window register written. -/
def windowWrite (s : State) (f : Func) (i r : Nat) (v : Word) : State :=
  let st := seatState s (getSeat s i)
  if r = 0x1C then seatCtrl s f i v
  else if !boundTo s i f then regErr s f (seatOff i r)
  else if r < 0x1C then (if st = .off then contextPut s i r v else regErr s f (seatOff i r))
  else if r = 0x2C then irqCfgWrite s i v
  else if r = 0x30 then coalWrite s i v
  else if r = 0x34 then (if st = .off ∨ st = .armed then contextPut s i r v else regErr s f (seatOff i r))
  else s

/-- SEAT written; o counts from 0x0003_0000. -/
def seatBlockWrite (s : State) (f : Func) (o : Nat) (v : Word) : State :=
  if o < 0x40000 then windowWrite s f (windowSeat s f o).1 (windowSeat s f o).2 v
  else if o = 0x40000 then { s with cnt := { s.cnt with bank := sput false s.cnt.bank (fkey f) (bit v 0) } }
  else match inArray o 0x48000 8192 with
    | some i => seatBindWrite s f i v
    | none => s

/-! ## Blocks a physical function writes -/

/-- DEAL (R80). -/
def dealWrite (s : State) (o : Nat) (v : Word) : State :=
  if o = 0x10 then { s with dealer := { s.dealer with waitLim := max 1 (fld v 23 0) } }
  else match inArray o 0x40 16, inArray o 0x80 4, inArray o 0x1000 1024, inArray o 0x4000 4096 with
    | some d, _, _, _ =>
      let floor := fld (coverWord s d) 5 4
      let w := mkWord (2 ^ 8 * fld v 10 8 + 2 ^ 4 * floor + max floor (fld v 1 0))
      { s with dealer := { s.dealer with cover := sput 0 s.dealer.cover d w } }
    | _, some w, _, _ => laneEnWrite s w v
    | _, _, some w, _ =>
      (List.range 8).foldl (fun t k => modSeat t (8 * w + k) fun x => { x with weight := max 1 (fld v (4 * k + 3) (4 * k)) }) s
    | _, _, _, some w =>
      (List.range 2).foldl (fun t k =>
        let m : BitVec 16 := BitVec.ofNat 16 (fld v (16 * k + 15) (16 * k))
        modSeat t (2 * w + k) fun x => { x with decks := if m = 0 then 0xFFFF else m }) s
    | none, none, none, none => s

/-- KITTY (R125). -/
def kittyWrite (s : State) (o : Nat) (v : Word) : State :=
  match inArray o 0x400 256 with
  | some i => { s with kitty := { s.kitty with limits := sput 4096 s.kitty.limits i (min 4096 (fld v 12 0)) } }
  | none => s

/-- PKE (R190, R204): a new PKE_CTRL is in force from round n + 3. -/
def pkeWrite (s : State) (o : Nat) (v : Word) : State :=
  match inArray o 0 16 with
  | some d => modEngine s d fun e =>
    { e with
      idleFill := e.idleFill.put s.round (s.round + 3) (bit v 8)
      dsaPad := e.dsaPad.put s.round (s.round + 3) (BitVec.ofNat 4 (fld v 7 4))
      blind := e.blind.put s.round (s.round + 3) (bit v 0) }
  | none => s

/-- KEYS (R224, R227, R230). -/
def keysWrite (s : State) (f : Func) (o : Nat) (v : Word) : State :=
  if o = 4 then
    let s1 := if bit v 1 then zeroiseWrite s else s
    if bit v 0 then rearmWrite s1 f else s1
  else s

/-- RNG (R249). -/
def rngWrite (s : State) (o : Nat) (v : Word) : State :=
  if o = 4 then { s with rng := { s.rng with waitLim := s.rng.waitLim.put s.round (s.round + 1) (max 1 (fld v 23 0)) } } else s

/-- MEM (R322). -/
def memRegWrite (s : State) (o : Nat) (v : Word) : State :=
  let p := s.prot
  if o = 0 then { s with prot := { p with leakPer := p.leakPer.put s.round (s.round + 1) v.toNat } }
  else if o = 4 then { s with prot := { p with leakLim := p.leakLim.put s.round (s.round + 1) (fld v 15 0) } }
  else if o = 0x10 then { s with prot := { p with scrubEn := p.scrubEn.put s.round (s.round + 1) (bit v 0) } }
  else s

/-- TAMP (R329, R336, R344, R346). -/
def tampWrite (s : State) (f : Func) (o : Nat) (v : Word) : State :=
  if o = 4 then (if bit v 0 then freezeClear s f else s)
  else if o = 0x10 then trippedClear s v 0
  else if o = 0x1C then tampTestWrite s f v
  else if o = 0x28 then rtcSet s v
  else s

/-- SLOT (R374): every write acts from the next round. -/
def slotBlockWrite (s : State) (f : Func) (o : Nat) (v : Word) : State :=
  match inArray o 0x10 2 with
  | some n => modSlot s n fun x => { x with cfg := x.cfg.put s.round (s.round + 1) (v &&& slotCfgMask) }
  | none =>
    if o = 0x48 then
      { s with quorum := { s.quorum with limit := s.quorum.limit.put s.round (s.round + 1) (max 1 (fld v 15 0)) } }
    else if o = 0x30 ∨ o = 0x40 ∨ (0x60 ≤ o ∧ o < 0xA8) then
      { s with quorum := { s.quorum with writes := s.quorum.writes ++ [(f, o, v)] } }
    else s

/-- HOUSE (R397). -/
def houseWrite (s : State) (o : Nat) (v : Word) : State :=
  if o = 0xC then { s with house := { s.house with sel := BitVec.ofNat 4 (fld v 3 0) } } else s

/-- A block that only a physical function writes. -/
def blockWrite (s : State) (f : Func) (off : Nat) (v : Word) : State :=
  let o := off % 0x10000
  match off / 0x10000 with
  | 0x01 => if o = 0 then pwrCtrlWrite s f v else s
  | 0x02 => dealWrite s o v
  | 0x08 => kittyWrite s o v
  | 0x0A => pkeWrite s o v
  | 0x0B => keysWrite s f o v
  | 0x0C => rngWrite s o v
  | 0x0E => memRegWrite s o v
  | 0x0F => tampWrite s f o v
  | 0x10 => slotBlockWrite s f o v
  | 0x11 => houseWrite s o v
  | 0x12 => irqWrite s f o v
  | _ => s

/-! ## The whole of BAR0 -/

/-- A conforming write of a register that exists and whose function may see it. Words that are read-only ignore it; the
region array refuses it (R309). -/
def regWrite (s : State) (f : Func) (off : Nat) (v : Word) : State :=
  let b := off / 0x10000
  if b = 0 ∨ b = 9 then s
  else if b = 0x0D then (if 0xD4000 ≤ off ∧ off < 0xD8080 then regErr s f off else s)
  else if 3 ≤ b ∧ b ≤ 7 then seatBlockWrite s f (off - 0x30000) v
  else if isPf f then blockWrite s f off v
  else regErr s f off

/-- A write of BAR0 (R6, R7, R11). -/
def hostWrite (s : State) (f : Func) (off size : Nat) (v : Word) : State :=
  if !conforms off size then (if hostOk s f then regErr s f off else s)
  else barWrite s f off fun t => if (regView t f off).2 then regErr t f off else regWrite t f off v

/-- REGISTER_WRITE (R6, R7, R9, R11). -/
def execRegisterWrite (f : Func) (off size : Nat) (v : Word) (s : State) : Out := .next (hostWrite s f off size v)

end Sys2Proof.Machine
end

