-- ==== Sys2Proof/Machine/Orders.lean ====
section
/-!
DEFINITION. House firmware's orders and lane requests (R305, R309, R390), the house's view of BAR0 (R389), error
correction's own events (R314, R317) and the debug master (R311, R312).
-/
namespace Sys2Proof.Machine

/-! ## PROT_RETAG and the region array (R305, R309) -/

/-- PROT_RETAG as the house reads it (R321). -/
def retagWord (s : State) : Word :=
  let p := s.prot
  mkWord (2 ^ 16 * p.retagSuit.toNat + 2 ^ 15 * b2n p.retagAt.isSome + 2 ^ 4 * p.retagLane + p.retagPage)

/-- A write of PROT_RETAG by house firmware: discarded while BUSY or for suit DEBUG. -/
def retagWrite (s : State) (v : Word) : State :=
  if s.prot.retagAt.isSome || fld v 31 16 == 0xFFFE then s
  else { s with prot := { s.prot with
    retagSuit := BitVec.ofNat 16 (fld v 31 16), retagLane := fld v 10 4, retagPage := fld v 3 0
    retagAt := if bit v 15 then some s.round else none } }

/-- The page of a session area is being retagged: accesses of the lane core to it wait (R305). -/
def pageBusy (s : State) (l pg : Nat) : Bool :=
  match s.prot.retagAt with
  | some n => decide (s.prot.retagLane = l) && decide (s.prot.retagPage = pg) && decide (n < s.round)
  | none => false

/-- One round of a running retag: 16 granules in each of rounds n + 3 to n + 6; BUSY ends in round n + 7 (R305). -/
def retagTurn (s : State) : State :=
  match s.prot.retagAt with
  | some n =>
    if n + 7 ≤ s.round then { s with prot := { s.prot with retagAt := none } }
    else if n + 3 ≤ s.round then
      let a := areaAddr s.prot.retagLane + 4096 * s.prot.retagPage + 1024 * (s.round - (n + 3))
      tagGranules (store s a (zeros 1024)) (granule a) 16 s.prot.retagSuit
    else s
  | none => s

/-- Word i of the region array written by house firmware: in force from the next round. -/
def regionPut (s : State) (i : Nat) (w : Word) : State :=
  let p := s.prot
  let old := sget 0 p.regions i
  { s with prot := { p with
    regPrev := (match sget none p.regPrev i with | some _ => p.regPrev | none => sput none p.regPrev i (some old))
    regions := sput 0 p.regions i (regionStore i w) } }

/-- Word i of the region array as it decides accesses of this round. -/
def regionWord (s : State) (i : Nat) : Word :=
  match sget none s.prot.regPrev i with
  | some w => w
  | none => sget 0 s.prot.regions i

/-! ## BAR0 as a house core reaches it (R389) -/

/-- A word of BAR0, the house-only registers with their values. A reserved offset reads zero and raises nothing: R7 and R11
speak of the host's accesses (DESIGN CHOICE, log entry 139). -/
def barPeek (s : State) (off : Nat) : Word :=
  if off = 0xD0100 then retagWord s
  else match inArray off 0xD4000 4128 with
    | some i => sget 0 s.prot.regions i
    | none => (regView s func0 off).1

/-- Words whose bits act when written 1: a narrower write leaves their other bits 0. -/
def actsOnOnes (off : Nat) : Bool := off == 0xF0010 || off == 0x120000

/-- A word of BAR0 written by a house core, as the physical function of port 0, link 0 (DESIGN CHOICE, log entry 48). A write
of a reserved offset is dropped and raises nothing (DESIGN CHOICE, log entry 139). -/
def barPoke (s : State) (off : Nat) (v : Word) : State :=
  if off = 0xD0100 then retagWrite s v
  else match inArray off 0xD4000 4128 with
    | some i => regionPut s i v
    | none => if (regView s func0 off).2 then s else regWrite s func0 off v

/-- Bytes of BAR0. -/
def barBytes (s : State) (off n : Nat) : Bytes :=
  (List.range n).map fun i => BitVec.ofNat 8 (fld (barPeek s ((off + i) / 4 * 4)) (8 * ((off + i) % 4) + 7) (8 * ((off + i) % 4)))

/-- What a read of bytes of BAR0 by a house core or the debug master changes: the bytes of an RC register it reads are cleared
(R9; DESIGN CHOICE, log entry 48). -/
def barTouch (s : State) (off n : Nat) : State :=
  (List.range n).foldl (fun t i =>
    keepRc t func0 ((off + i) / 4 * 4) (~~~(mkWord (255 * 2 ^ (8 * ((off + i) % 4)))))) s

/-- Bytes within one word of BAR0 written: the word is written with its other bytes as they read, BUSY of PROT_RETAG and
bits that act on ones as 0. -/
def barStore (s : State) (off : Nat) (b : Bytes) : State :=
  let o := off / 4 * 4
  let cur := if actsOnOnes o then 0 else if o = 0xD0100 then barPeek s o &&& 0xFFFF7FFF else barPeek s o
  barPoke s o (mkWord (leNat (patch (natLe 4 cur.toNat) (off % 4) b)))

/-! ## PROT_RETAG and the requests of lane kernels (R390) -/

/-- PROT_RETAG (R305): house firmware's write. -/
def execProtRetag (v : Word) (s : State) : Out := .next (if houseUp s then retagWrite s v else s)

/-- A request served: its effect, and HOUSE_REQ back to the lane kernel (R281). Under a freeze house firmware serves only
ceremonies and quorum sessions (R329). -/
def order (s : State) (l : Nat) (act : State → State) : State :=
  if houseUp s && !s.aon.freeze then lanePend (act s) l pendHouse else s

/-- READY (R289, R390): a lane halted on a fault becomes IDLE once its core runs again. -/
def execReady (lane : Fin 128) (s : State) : Out :=
  .next (order s lane.val fun t => modLane t lane.val fun ln => if ln.core.stopped then ln else { ln with fault := false })

/-- RETAG (R305, R390). -/
def execRetag (lane : Fin 128) (page : Fin 16) (suit : BitVec 16) (s : State) : Out :=
  .next (order s lane.val fun t => retagWrite t (mkWord (2 ^ 16 * suit.toNat + 0x8000 + 16 * lane.val + page.val)))

/-- REGION_SET (R309, R390). -/
def execRegionSet (lane : Fin 128) (r : Fin 16) (w0 w1 : Word) (s : State) : Out :=
  .next (order s lane.val fun t =>
    regionPut (regionPut t (32 * lane.val + 2 * r.val) w0) (32 * lane.val + 2 * r.val + 1) w1)

/-- Play RAM of a lane written again from the accepted image (R318, R390). -/
def reloadPlay (s : State) (l : Nat) : State :=
  let base := if s.power.imageB then 0x800000 else 0
  let dir := rdN s (flashBase + base) 512
  let img := playImage (imageAt s base dir 2) ((appletPackage s base dir).getD [])
  modLane (store s (laneBase l + 0xA000) img) l fun ln => { ln with playFault := false }

/-- PT_RELOAD (R318, R390). -/
def execPtReload (lane : Fin 128) (s : State) : Out := .next (order s lane.val fun t => reloadPlay t lane.val)

/-- NOTE (R390, R397): the word and its lane stand in HOUSE_MSG. -/
def execNote (lane : Fin 128) (w : BitVec 16) (s : State) : Out :=
  .next (order s lane.val fun t =>
    raiseAll { t with house := { t.house with msg := mkWord (2 ^ 24 * lane.val + w.toNat) } } 22)

/-! ## Error correction (R314, R317) -/

/-- ECC_WRITE_BACK (R314): a corrected word is written back. -/
def execEccWriteBack (mem word : Nat) (s : State) : Out :=
  let k := wkey mem word
  if sget false s.prot.fix k then
    .next { s with prot := { s.prot with
      fix := sput false s.prot.fix k false
      bad := if sget none s.prot.bad k = some false then sput none s.prot.bad k none else s.prot.bad
      written := sput false s.prot.written k true } }
  else .next s

/-- LEAK_DECREMENT (R317): once in each round that is a multiple of MEM_LEAK_PERIOD. -/
def execLeakDecrement (s : State) : Out :=
  let per := s.prot.leakPer.at_ s.round
  if running s && !standbyHold s && decide (per ≠ 0) && decide (s.round % per = 0) && decide (s.prot.leakAt ≠ some s.round) then
    let bs := (s.prot.bucket.map fun e => (e.1, e.2 - 1)).filter fun e => decide (e.2 ≠ 0)
    .next { s with prot := { s.prot with bucket := bs, leakAt := some s.round } }
  else .next s

/-! ## The house physical space (R389) -/

/-- What an address of the house physical space selects. -/
inductive Place where
  /-- a byte of memory -/
  | cell (a : Nat)
  /-- a byte of memory that is only read -/
  | fixed (a : Nat)
  /-- monitor ROM -/
  | rom (i : Nat)
  /-- engine and play registers of a lane -/
  | laneReg (o : Nat)
  /-- house control registers -/
  | houseReg (o : Nat)
  /-- entry-area registers, from 0xF100 -/
  | entry (o : Nat)
  /-- BAR0 -/
  | bar (off : Nat)
  /-- fuses -/
  | fuse (i : Nat)
  /-- reserved: reads zero, writes discarded -/
  | void
  /-- no such address: BUS_ERROR -/
  | absent
  deriving DecidableEq, Repr

/-- The house physical space (R389). -/
def housePlace (a : Nat) : Place :=
  if a < 0xA000 then .cell a
  else if 0x0100000000 ≤ a ∧ a < 0x0102000000 then .bar (a - 0x0100000000)
  else if sessBase ≤ a ∧ a < sessBase + 16 * sliceBytes then .cell a
  else if laneBase 0 ≤ a ∧ a < laneBase 128 then
    let o := a % 65536
    if o < 0xA800 ∨ (0xC000 ≤ o ∧ o < 0xE000) then .cell a else .absent
  else if flashBase ≤ a ∧ a < flashBase + 0x10000000 then .fixed a
  else if 0x0500000000 ≤ a ∧ a < 0x0500000040 then .fuse (a - 0x0500000000)
  else if scoreBase ≤ a ∧ a < scoreBase + 0x1000 then .cell a
  else .absent

/-- Byte i of the fuses: their packing is not the manual's (free value). -/
def fuseByte (s : State) (i : Nat) : Byte :=
  Config.fuseByte s.fuses.lc.ctorIdx s.fuses.svn s.fuses.owner i

/-! ## The debug master (R311, R312) -/

/-- Registers that only house firmware reaches: PROT_RETAG and the region array (R305, R309). -/
def houseOnly (off : Nat) : Bool := off / 4 * 4 == 0xD0100 || (inArray off 0xD4000 4128).isSome

/-- The debug master may not touch a byte: no such address, a key register, a register only house firmware reaches, or a
granule that refuses DEBUG. -/
def debugBad (s : State) (write : Bool) (a : Nat) : Bool :=
  match housePlace a with
  | .cell b => decide (sessBase ≤ b) && decide (b < laneBase 0) && !suitOk s b 1 0xFFFE write false
  | .fixed _ | .fuse _ => write
  | .bar off => off / 0x10000 == 0x0B || houseOnly off
  | _ => true

/-- Granules with tags that a burst touches. -/
def debugGrans (addr len : Nat) : List Nat :=
  ((List.range len).flatMap fun i => match housePlace (addr + i) with
    | .cell b => if sessBase ≤ b ∧ b < laneBase 0 then [granule b] else []
    | _ => []).eraseDups

/-- A refused debug access (R310, R312, R318). -/
def debugRefused (s : State) (addr len : Nat) : State :=
  let s1 := { s with answer := .error, prot := { s.prot with debugCnt := satAdd s.prot.debugCnt 1 } }
  let s2 := if addr / 64 < (addr + len - 1) / 64 then spanRefused s1 else s1
  alarms (touchTags s2 (debugGrans addr len)) [25]

/-- A byte as the debug master reads it. -/
def debugByte (s : State) (a : Nat) : Byte :=
  match housePlace a with
  | .cell b | .fixed b => rd s b
  | .bar off => (barBytes s off 1).headD 0
  | .fuse i => fuseByte s i
  | _ => 0

/-- What a byte read by the debug master changes: an RC register's byte is cleared (R9). -/
def debugTouch (s : State) (a : Nat) : State :=
  match housePlace a with
  | .bar off => barTouch s off 1
  | _ => s

/-- A byte written by the debug master. -/
def debugPut (s : State) (a : Nat) (v : Byte) : State :=
  match housePlace a with
  | .cell b => store s b [v]
  | .bar off => barStore s off [v]
  | _ => s

/-- DEBUG_ACCESS (R311, R312, R318): a burst of 1 to 256 bytes, refused whole. -/
def execDebugAccess (addr len : Nat) (write : Option Bytes) (s : State) : Out :=
  if !debugOn s || !running s || decide (len = 0) || decide (256 < len) then .next s
  else if (List.range len).any fun i => debugBad s write.isSome (addr + i) then .next (debugRefused s addr len)
  else
    let ks := match write with
      | some _ => partKeys addr len
      | none => wkeys addr len
    let s1 := touchWords s ks
    if anyBad s ks then .next { s1 with answer := .error }
    else match write with
      | none =>
        .next ((List.range len).foldl (fun t i => debugTouch t (addr + i))
          { s1 with answer := .bytes ((List.range len).map fun i => debugByte s (addr + i)) })
      | some b =>
        .next ((List.range len).foldl (fun t i => debugPut t (addr + i) (byteAt b i)) { s1 with answer := .none })

end Sys2Proof.Machine
end

