-- ==== Sys2Proof/Machine/Side.lean ====
section
/-!
DEFINITION. The sideband (R391, R392) and the test access port (R387).
-/
namespace Sys2Proof.Machine

/-! ## The sideband -/

/-- The sideband is served (R375, R392). -/
def sidebandUp (s : State) : Bool :=
  decide (s.power.st = .run) || decide (s.power.st = .standby)
    || (decide (s.power.st = .aonOnly) && keepSideband s && s.power.main)

/-- A message answered while the sideband is served; otherwise nothing happens. -/
def sideband (s : State) (f : State → State) : Out := .next (if sidebandUp s then f s else s)

/-- The answer of the last command. -/
def reply (s : State) (a : Answer) : State := { s with answer := a }

/-- GET_STATUS (R392). -/
def execGetStatus (s : State) : Out :=
  sideband s fun t => reply t (.bytes ([cfgStatus t, lifeStatus t, pwrStatus t, tampStatus t, keysStatus t].flatMap (natLe 4)))

/-- Blocks a READ_REG may name. -/
def sideBlocks : List Nat := [0x00, 0x01, 0x0B, 0x0F, 0x11, 0x13]

/-- READ_REG (R392): a read of the physical function of port 0, link 0. -/
def execReadReg (off : Nat) (s : State) : Out :=
  sideband s fun t => if sideBlocks.contains (off / 0x10000) then barRead t func0 off 4 else reply t .error

/-- READ_LOG (R343, R392). -/
def execReadLog (k : Nat) (s : State) : Out :=
  sideband s fun t => reply t (if k < 64 then .bytes (logBytes (sget none t.aon.log k)) else .error)

/-- READ_SCORE (R392, R394). -/
def execReadScore (k : Nat) (s : State) : Out :=
  sideband s fun t => reply t (if k < 16 then .bytes (rdN t (sheetAddr k) 256) else .error)

/-- SET_POWER (R376, R392). -/
def execSetPower (v : BitVec 2) (s : State) : Out := sideband s fun t => powerRequest t func0 v

/-- Flash may not be changed in phases 3 to 6 of boot (R392). -/
def flashHeld (s : State) : Bool := decide (3 ≤ s.power.phase) && decide (s.power.phase ≤ 6)

/-- FLASH_ERASE (R392): a sector of the 4,096 (R389) reads as ones (PRESUMED, log entry 49). -/
def execFlashErase (sector : Nat) (s : State) : Out :=
  sideband s fun t =>
    if flashHeld t || decide (0x1000 ≤ sector) then reply t .error
    else reply (store t (flashBase + 65536 * sector) (List.replicate 65536 0xFF)) .none

/-- FLASH_WRITE (R392): 1 to 256 bytes within one page of 256 bytes. -/
def execFlashWrite (addr : Nat) (data : Bytes) (s : State) : Out :=
  sideband s fun t =>
    if flashHeld t || decide (data.length = 0) || decide (256 < addr % 256 + data.length) || decide (0x10000000 ≤ addr) then
      reply t .error
    else reply (store t (flashBase + addr) data) .none

/-- SET_ENDPOINT_ID (R391): 0x00 and 0xFF are no endpoint's (PRESUMED: DSP0236, log entry 10). -/
def execSetEndpointId (eid : Byte) (s : State) : Out :=
  sideband s fun t =>
    if eid = 0 ∨ eid = 0xFF then reply t .error else reply { t with power := { t.power with eid := eid } } (.bytes [eid])

/-- GET_ENDPOINT_ID (R391). -/
def execGetEndpointId (s : State) : Out := sideband s fun t => reply t (.bytes [t.power.eid])

/-- GET_MCTP_VERSION_SUPPORT (R391): versions of control messages and of the vendor-defined type; no other type is
supported. -/
def execGetMctpVersionSupport (msgType : Byte) (s : State) : Out :=
  sideband s fun t =>
    reply t (if msgType = 0 ∨ msgType = 0x7E then .bytes (Config.mctpAnswer 4 msgType.toNat) else .error)

/-- GET_MESSAGE_TYPE_SUPPORT (R391): one type, 0x7E. -/
def execGetMessageTypeSupport (s : State) : Out := sideband s fun t => reply t (.bytes [1, 0x7E])

/-- GET_VENDOR_DEFINED_MESSAGE_SUPPORT (R391): the identifier of LIFE_VDM_ID, most significant byte first (PRESUMED:
DSP0236, log entry 10). -/
def execGetVendorDefinedMessageSupport (s : State) : Out :=
  sideband s fun t => reply t (.bytes (natBe 4 t.fuses.vdm.toNat))

/-! ## The test access port (R387) -/

/-- TAP instructions: 0 BYPASS, 1 IDCODE, 2 SAMPLE/PRELOAD, 3 EXTEST, 4 DEBUG. -/
def tapOk (s : State) (n : Nat) : Bool :=
  match n with
  | 3 => decide (s.fuses.lc ≠ .sealed) || liveHands s == 0
  | 4 => debugOn s
  | _ => true

/-- An instruction loaded; one that is not available decodes as BYPASS. Without main power the port is dead. -/
def tapLoad (s : State) (n : Nat) (f : State → State) : Out :=
  if !s.power.main then .next s
  else if tapOk s n then .next (f { s with power := { s.power with tap := BitVec.ofNat 8 n } })
  else .next { s with power := { s.power with tap := 0 }, answer := .bytes [0] }

/-- BYPASS. -/
def execBypass (s : State) : Out := tapLoad s 0 fun t => reply t (.bytes [0])
/-- IDCODE. -/
def execIdcode (s : State) : Out := tapLoad s 1 fun t => reply t (.word (mkWord idCode))
/-- SAMPLE/PRELOAD: the pins are captured (free value) and the cells preloaded. -/
def execSamplePreload (pins : Bytes) (s : State) : Out :=
  tapLoad s 2 fun t => reply { t with power := { t.power with scan := pins } } (.bytes (Config.scanCells t.round))
/-- EXTEST: the preloaded cells drive the pins, and the inputs are captured (free value). -/
def execExtest (s : State) : Out := tapLoad s 3 fun t => reply t (.bytes (Config.scanCells t.round))
/-- DEBUG: the debug master's instruction. -/
def execDebug (s : State) : Out := tapLoad s 4 fun t => reply t .none

end Sys2Proof.Machine
end

