-- ==== Sys2Proof/Machine/Flags.lean ====
section
/-!
DEFINITION. The G8 instruction word (R253, R254), the flags (R252, R261) and the core registers by code (R256).
-/
namespace Sys2Proof.Machine

/-! ## The instruction word -/

/-- Fields of an instruction word (R253). -/
structure G8Word where
  opc  : BitVec 8
  am   : BitVec 4
  sc   : BitVec 2
  rs   : BitVec 2
  opnd : BitVec 16
  deriving DecidableEq, Repr

/-- The fields of a word (R253). -/
def g8Decode (w : BitVec 32) : G8Word where
  opc := w.extractLsb' 24 8
  am := w.extractLsb' 20 4
  sc := w.extractLsb' 18 2
  rs := w.extractLsb' 16 2
  opnd := w.extractLsb' 0 16

/-- The word of some fields (R254). -/
def g8Encode (i : G8Word) : BitVec 32 :=
  BitVec.ofNat 32 (0x01000000 * i.opc.toNat + 0x00100000 * i.am.toNat + 0x00040000 * i.sc.toNat + 0x00010000 * i.rs.toNat
    + i.opnd.toNat)

/-! ## F (R252) -/

/-- Level of a core (R252). -/
def level (k : Core) : Nat := fld k.f 7 6

/-- F.L of a core. -/
def loopOn (k : Core) : Bool := bit k.f 5

/-- F with its level replaced. -/
def withLevel (f : BitVec 8) (t : Nat) : BitVec 8 := BitVec.ofNat 8 (64 * t + fld f 5 0)

/-- F after entry to a level: I and L are 0, the arithmetic flags stand (R285, R288). -/
def entryFlags (f : BitVec 8) (t : Nat) : BitVec 8 := BitVec.ofNat 8 (64 * t + fld f 3 0)

/-- F after a write by ST, POP or MOV at a level (R252). -/
def writeFlags (f v : BitVec 8) (lv : Nat) : BitVec 8 :=
  BitVec.ofNat 8 (32 * fld f 7 5 + 16 * (if lv = 0 then fld f 4 4 else fld v 4 4) + fld v 3 0)

/-- Z and N of a result of some width (R252). -/
def putZN {w : Nat} (f : BitVec 8) (r : BitVec w) : BitVec 8 := setBit (setBit f 1 (r == 0)) 2 (bit r (w - 1))

/-- C, Z, N of a result. -/
def putCZN {w : Nat} (f : BitVec 8) (r : BitVec w) (c : Bool) : BitVec 8 := setBit (putZN f r) 0 c

/-- C, Z, N and V of a result. -/
def putCZNV {w : Nat} (f : BitVec 8) (r : BitVec w) (c v : Bool) : BitVec 8 := setBit (putCZN f r c) 3 v

/-- Addition with carry in: result, C and V (R252, R261). -/
def addW {w : Nat} (a b : BitVec w) (cin : Bool) : BitVec w × Bool × Bool :=
  let n := a.toNat + b.toNat + b2n cin
  let r := BitVec.ofNat w n
  (r, decide (2 ^ w ≤ n), bit a (w - 1) == bit b (w - 1) && bit r (w - 1) != bit a (w - 1))

/-- Subtraction with borrow in: result, C as the borrow, and V (R252, R261). -/
def subW {w : Nat} (a b : BitVec w) (cin : Bool) : BitVec w × Bool × Bool :=
  let n := b.toNat + b2n cin
  let r := BitVec.ofNat w (a.toNat + 2 ^ (w + 1) - n)
  (r, decide (a.toNat < n), bit a (w - 1) != bit b (w - 1) && bit r (w - 1) != bit a (w - 1))

/-- A condition (R257). -/
def cond (f : BitVec 8) (rs : BitVec 2) : Bool :=
  if rs = 0 then bit f 1 else if rs = 1 then bit f 0 else if rs = 2 then bit f 2 else bit f 2 != bit f 3

/-! ## Shifts (R261) -/

/-- A shifted left by n: result and C. -/
def shlW (a : BitVec 8) (n : Nat) (c : Bool) : BitVec 8 × Bool := (a <<< n, if n = 0 then c else bit a (8 - n))
/-- A shifted right with zero fill. -/
def shrW (a : BitVec 8) (n : Nat) (c : Bool) : BitVec 8 × Bool := (a >>> n, if n = 0 then c else bit a (n - 1))
/-- A shifted right with sign fill. -/
def sarW (a : BitVec 8) (n : Nat) (c : Bool) : BitVec 8 × Bool := (a.sshiftRight n, if n = 0 then c else bit a (n - 1))
/-- C and A rotated left as 9 bits. -/
def rolW (a : BitVec 8) (n : Nat) (c : Bool) : BitVec 8 × Bool :=
  let v : BitVec 9 := (BitVec.ofNat 9 (256 * b2n c + a.toNat)).rotateLeft n
  (v.setWidth 8, bit v 8)
/-- A and C rotated right as 9 bits. -/
def rorW (a : BitVec 8) (n : Nat) (c : Bool) : BitVec 8 × Bool :=
  let v : BitVec 9 := (BitVec.ofNat 9 (2 * a.toNat + b2n c)).rotateRight n
  (BitVec.ofNat 8 (v.toNat / 2), bit v 0)

/-! ## Registers by code (R256) -/

/-- The register of a REG code, zero-extended. -/
def regGet (k : Core) (code : Nat) : BitVec 16 :=
  if code = 0 then k.a.setWidth 16 else if code = 1 then k.x else if code = 2 then k.y else if code = 3 then k.sp
  else if code = 4 then k.f.setWidth 16 else if code = 5 then k.bk.setWidth 16 else if code = 6 then k.lc else k.le

/-- A register written; F under R252 with the core's level. -/
def regPut (k : Core) (code : Nat) (v : BitVec 16) : Core :=
  if code = 0 then { k with a := v.setWidth 8 } else if code = 1 then { k with x := v } else if code = 2 then { k with y := v }
  else if code = 3 then { k with sp := v } else if code = 4 then { k with f := writeFlags k.f (v.setWidth 8) (level k) }
  else if code = 5 then { k with bk := v.setWidth 8 } else if code = 6 then { k with lc := v } else { k with le := v }

/-- REG code of RS in PUSH and POP, where 0b11 names F (R256). -/
def stackCode (rs : BitVec 2) : Nat := if rs = 3 then 4 else rs.toNat

/-- Bytes of the register of a code: 1 for A and F, else 2. -/
def regBytes (code : Nat) : Nat := if code = 0 ∨ code = 4 then 1 else 2

/-! ## Addresses (R255) -/

/-- The effective address of a mode for an access of w bytes; registers as before the instruction. -/
def effAddr (k : Core) (i : G8Word) (w : Nat) : BitVec 16 :=
  let s : BitVec 16 := 1 <<< i.sc.toNat
  let n : BitVec 16 := BitVec.ofNat 16 w * s
  match i.am.toNat with
  | 2 => k.x + i.opnd
  | 3 => k.y + i.opnd
  | 4 => k.sp + i.opnd
  | 5 => k.x
  | 6 => k.y
  | 7 => k.x - n
  | 8 => k.y - n
  | 9 => i.opnd + k.x * s
  | 10 => i.opnd + k.y * s
  | _ => i.opnd

/-- The index update of modes 0x5 to 0x8. -/
def indexStep (i : G8Word) (w : Nat) (k : Core) : Core :=
  let n : BitVec 16 := BitVec.ofNat 16 w * (1 <<< i.sc.toNat)
  match i.am.toNat with
  | 5 => { k with x := k.x + n }
  | 6 => { k with y := k.y + n }
  | 7 => { k with x := k.x - n }
  | 8 => { k with y := k.y - n }
  | _ => k

/-! ## Which words are legal (R260-R262, R268, R269) -/

/-- What a row of the opcode table allows. -/
structure OpRow where
  modes  : List Nat
  rs     : List Nat
  /-- largest OPND in IMM mode -/
  imm    : Nat
  lane   : Bool
  levels : List Nat

def rowRd (rs : List Nat) : OpRow := { modes := (List.range 10).map (· + 1), rs := rs, imm := 0, lane := false, levels := [0, 1, 2] }
def rowRa (rs : List Nat) (imm : Nat) : OpRow := { modes := List.range 12, rs := rs, imm := imm, lane := false, levels := [0, 1, 2] }
def rowNone (rs levels : List Nat) : OpRow := { modes := [0], rs := rs, imm := 0, lane := false, levels := levels }
def rowOf (modes rs : List Nat) (imm : Nat) : OpRow := { modes := modes, rs := rs, imm := imm, lane := false, levels := [0, 1, 2] }

/-- The opcode table (R261), with the mode sets of R258. -/
def opRow (opc : Nat) (rs : Nat) : Option OpRow :=
  match opc with
  | 0x01 => some (rowRd [0, 1, 2, 3])
  | 0x02 => some (rowOf ((List.range 11).map (· + 1)) [0, 1, 2, 3] 0)
  | 0x03 => some (rowOf [1, 2, 3, 4, 9, 10] [1, 2, 3] 0)
  | 0x04 => some (rowOf [0, 11] [0, 1, 2, 3] (if rs = 0 then 0xFF else 0xFFFF))
  | 0x05 | 0x06 => some (rowNone [0, 1, 2, 3] [0, 1, 2])
  | 0x0F => some (rowNone [0] [0, 1, 2])
  | 0x10 | 0x11 | 0x12 | 0x13 | 0x14 | 0x15 | 0x16 | 0x17 | 0x18 => some (rowRa [0] 0xFF)
  | 0x20 | 0x21 | 0x22 | 0x23 | 0x24 => some (rowOf [0] [0] 7)
  | 0x25 | 0x26 => some (rowNone [0, 1, 2, 3] [0, 1, 2])
  | 0x27 => some (rowRa [1, 2, 3] 0xFFFF)
  | 0x28 => some (rowRa [0] 0xFF)
  | 0x29 | 0x2A => some (rowRa [1, 2, 3] 0xFFFF)
  | 0x30 | 0x31 => some (rowRa [0, 1, 2, 3] 0xFF)
  | 0x32 | 0x33 => some (rowNone [0, 1, 2, 3] [0, 1, 2])
  | 0x40 | 0x41 => some (rowOf [1] [0, 1, 2, 3] 0)
  | 0x42 | 0x43 => some (rowOf [1, 2, 3, 9, 10] [0] 0)
  | 0x44 => some (rowNone [0] [0, 1, 2])
  | 0x50 => some (rowOf [1] [0, 1, 2] 0)
  | 0x51 | 0x52 => some (rowNone [0] [0, 1, 2])
  | 0x53 => some { modes := [0, 11], rs := [0], imm := 0xFF, lane := true, levels := [0, 1, 2] }
  | 0x60 => some { modes := [0], rs := [0], imm := 0xFF, lane := false, levels := [0] }
  | 0x61 => some (rowNone [0] [1])
  | 0x62 => some (rowNone [0] [1, 2])
  | _ => none

/-- The fields a row or R255 requires to be zero are zero, and the codes named exist. -/
def fieldsOk (r : OpRow) (i : G8Word) : Bool :=
  let am := i.am.toNat
  r.modes.contains am && r.rs.contains i.rs.toNat && (i.sc == 0 || (decide (5 ≤ am) && decide (am ≤ 10)))
    && (am != 0 || decide (i.opnd.toNat ≤ r.imm))
    && (!(decide (5 ≤ am) && decide (am ≤ 8)) || i.opnd == 0)
    && (am != 11 || decide (i.opnd.toNat < (if r.lane then 1 else 8)))

/-- LD or ST names the index register its own mode updates (R262). -/
def selfIndexed (i : G8Word) : Bool :=
  (i.opc == 1 || i.opc == 2)
    && (((i.am == 5 || i.am == 7) && i.rs == 1) || ((i.am == 6 || i.am == 8) && i.rs == 2))

/-- What R269 forbids while a loop is active. -/
def loopForbids (k : Core) (i : G8Word) : Bool :=
  loopOn k && (i.opc == 0x50 || (i.opc == 2 && i.am == 11 && (i.opnd == 6 || i.opnd == 7))
    || (k.pc == k.le && [0x40, 0x41, 0x42, 0x43, 0x44, 0x50, 0x53, 0x60, 0x61, 0x62].contains i.opc.toNat))

/-- The count source of a LOOP (R268). -/
def loopCount (k : Core) (rs : BitVec 2) : Nat := if rs = 0 then k.x.toNat else if rs = 1 then k.y.toNat else k.a.toNat

/-- A LOOP's count and end are legal (R268). -/
def loopLegal (k : Core) (i : G8Word) : Bool :=
  i.opc != 0x50 || (decide (loopCount k i.rs ≤ 4095) && decide (i.opnd.toNat % 4 = 0)
    && decide (k.pc.toNat + 4 ≤ i.opnd.toNat) && decide (i.opnd.toNat ≤ k.pc.toNat + 64))

/-- The word raises no ILLEGAL on this core in this state (R262). -/
def legal (house : Bool) (k : Core) (i : G8Word) : Bool :=
  match opRow i.opc.toNat i.rs.toNat with
  | some r => fieldsOk r i && !selfIndexed i && !loopForbids k i && loopLegal k i && !(r.lane && house)
      && r.levels.contains (level k)
  | none => false

end Sys2Proof.Machine
end

