-- ==== Sys2Proof/Machine/Bus.lean ====
section
/-!
DEFINITION. Accesses of the G8 cores: the address map (R274, R389), rights (R278, R306-R308), the registers of the engine
and play window (R141, R202) and of the entry area (R286), the session window and its store buffer (R265, R297).
-/
namespace Sys2Proof.Machine

/-- Kinds of core access. -/
inductive Acc where
  | read | write | fetch
  deriving DecidableEq, Repr

/-- Why an instruction does not complete: a cause with its INFO, or a wait for a page under retag (R305). -/
inductive Stop where
  | exc (cause info : Nat)
  | hold
  deriving DecidableEq, Repr

/-! ## The core address map (R274, R389) -/

/-- A core of the house pair. -/
def isHouse : CoreId → Bool
  | .house => true
  | .lane _ => false

/-- Number of a lane. -/
def laneOf : CoreId → Nat
  | .lane l => l.val
  | .house => 0

/-- Where a core's own memory lies in the model's memory. -/
def ownAddr (c : CoreId) (a : Nat) : Nat :=
  match c with
  | .lane l => laneBase l.val + a
  | .house => a

/-- The session or house window. -/
def inWindow (a : Nat) : Bool := decide (0xB000 ≤ a) && decide (a < 0xC000)

/-- HWIN of a bank value, on a house core (R275). -/
def winOf (s : State) (c : CoreId) (bk : Nat) : BitVec 28 := if isHouse c then sget 0 s.house.hwin bk else 0

/-- What the window shows for a bank value and its HWIN. -/
def windowAt (c : CoreId) (win : BitVec 28) (bk a : Nat) : Place :=
  match c with
  | .lane l => if bk < 16 then .cell (areaAddr l.val + 4096 * bk + (a - 0xB000)) else .absent
  | .house => housePlace (4096 * win.toNat + (a - 0xB000))

/-- What the window shows for a bank value. -/
def windowPlace (s : State) (c : CoreId) (bk a : Nat) : Place := windowAt c (winOf s c bk) bk a

/-- What an address of a core selects. -/
def placeOf (s : State) (c : CoreId) (bk a : Nat) : Place :=
  if a < 0xA000 then .cell (ownAddr c a)
  else if a < 0xB000 then (if isHouse c then .houseReg (a - 0xA000) else .laneReg (a - 0xA000))
  else if a < 0xC000 then windowPlace s c bk a
  else if a < 0xE000 then .fixed (ownAddr c a)
  else if a < 0xF000 then .rom (if isHouse c then 65536 + a else a)
  else if 0xF100 ≤ a ∧ a < 0xF118 then .entry (a - 0xF100)
  else if (0xF080 ≤ a ∧ a < 0xF100) ∨ (0xF118 ≤ a ∧ a < 0xF800) then .void
  else .cell (ownAddr c a)

/-- Ranges an instruction may be fetched from (R274). -/
def fetchable (c : CoreId) (a : Nat) : Bool :=
  decide (a < 0x8000) || (isHouse c && decide (a < 0xA000)) || decide (0xC000 ≤ a)

/-! ## Regions and the default map (R306-R308) -/

/-- An enabled region matches an address (R306). -/
def regionMatch (w0 w1 : Word) (a : Nat) : Bool :=
  let o := fld w0 4 0
  bit w1 8 && decide (8 ≤ o) && decide (o ≤ 16) && decide (a / 2 ^ o = fld w0 31 16 / 2 ^ o) && bit w0 (8 + a % 2 ^ o / 2 ^ (o - 3))

/-- Attribute bit of a kind of access at APPLET or KERNEL (R309). -/
def attrBit (lv : Nat) (kind : Acc) : Nat :=
  (if lv = 0 then 3 else 0) + match kind with | .read => 0 | .write => 1 | .fetch => 2

/-- Key of word 0 of a core's region r. -/
def regionKey (c : CoreId) (r : Nat) : Nat := 32 * (match c with | .lane l => l.val | .house => 128) + 2 * r

/-- The regions that match an address, by their words 1. -/
def matching (s : State) (c : CoreId) (a : Nat) : List Word :=
  ((List.range 16).filter fun r => regionMatch (regionWord s (regionKey c r)) (regionWord s (regionKey c r + 1)) a).map
    fun r => regionWord s (regionKey c r + 1)

/-- The default map (R308). -/
def defaultMap (c : CoreId) (lv : Nat) (kind : Acc) (a : Nat) : Bool :=
  if a < 0x8000 ∨ (isHouse c = true ∧ a < 0xA000) then true
  else if a < 0xC000 then kind != .fetch
  else if a < 0xE000 then kind != .write
  else if a < 0xF000 then lv == 2 && kind != .write
  else true

/-- Steps 2 and 3 of R307. -/
def granted (s : State) (c : CoreId) (lv : Nat) (kind : Acc) (a : Nat) : Bool :=
  if lv = 2 then defaultMap c lv kind a
  else match matching s c a with
    | [] => lv == 1 && defaultMap c lv kind a
    | ws => ws.all fun w => bit w (attrBit lv kind)

/-! ## Rights to registers (R141, R278, R286) -/

/-- Registers of the engine and play window that APPLET may read or write (R141). -/
def appletReg (kind : Acc) (o : Nat) : Bool :=
  let rw := (decide (0xC0 ≤ o) && decide (o ≤ 0x120)) || (decide (0x58 ≤ o) && decide (o ≤ 0x5C))
  if kind = .read then rw || decide (o ≤ 0x53) || (decide (0x80 ≤ o) && decide (o < 0xC0)) || o == 0x121 else rw

/-- The right to an entry-area register, for an access of w bytes (R286). -/
def entryRight (lv : Nat) (kind : Acc) (o w : Nat) : Bool :=
  let wide := [0, 2, 6, 8, 10, 12, 16]
  let h := o / 2 * 2
  let void := [0xF, 0x13, 0x16, 0x17].contains o
  (w == 1 || wide.contains o)
    && (match kind with
      | .write => void || o == 0x14 || o == 0x15 || h == 8 || h == 10
          || (lv == 2 && (h == 0 || h == 2 || h == 12 || o == 4))
      | _ => o != 4 || lv == 2)

/-- Step 4 of R307. -/
def registerRight (c : CoreId) (lv : Nat) (kind : Acc) (a w : Nat) : Bool :=
  if 0xA000 ≤ a ∧ a < 0xB000 ∧ isHouse c = false ∧ lv = 0 then appletReg kind (a - 0xA000)
  else if 0xF100 ≤ a ∧ a < 0xF118 then entryRight lv kind (a - 0xF100) w
  else true

/-! ## The decision (R281, R307) -/

/-- Suit a core's access carries (R301). -/
def suitFor (s : State) (c : CoreId) : BitVec 16 :=
  match c with
  | .lane l => coreSuit s l.val
  | .house => 0

/-- Whether a place in the session store refuses an access by suit (R302). -/
def suitBad (s : State) (c : CoreId) (lv : Nat) (req : BitVec 16) (write : Bool) (p : Place) (w : Nat) : Bool :=
  match p with
  | .cell a => decide (sessBase ≤ a) && decide (a < laneBase 0) && !suitOk s a w req write (isHouse c || decide (1 ≤ lv))
  | _ => false

/-- Granules an access to a place touches. -/
def placeSpan (p : Place) (w : Nat) : List Nat :=
  match p with
  | .cell a => granules a w
  | _ => []

/-- Steps 1 to 4 of R307, MISALIGN first, and the reserved bank of R266. -/
def refuse (s : State) (c : CoreId) (k : Core) (lv : Nat) (kind : Acc) (a w : Nat) : Option Stop :=
  if kind = .fetch then
    if !fetchable c a || (decide (lv = 0) && decide (0xF000 ≤ a)) || !granted s c lv .fetch a then some (.exc 0x03 a) else none
  else if w = 2 ∧ a % 2 = 1 then some (.exc 0x08 a)
  else if w = 2 ∧ 0xA000 ≤ a ∧ a < 0xB000 then some (.exc 0x0B a)
  else if (lv = 0 ∧ 0xF000 ≤ a) ∨ granted s c lv kind a = false ∨ registerRight c lv kind a w = false then some (.exc 0x09 a)
  else if inWindow a then
    if !isHouse c && pageBusy s (laneOf c) k.bk.toNat then some .hold
    else if !isHouse c && decide (16 ≤ k.bk.toNat) then some (.exc 0x0B a)
    else none
  else none

/-! ## Registers of the engine and play window (R141, R202) -/

/-- The binding the window shows: the running segment's, else the next one's. -/
def shownBind (s : State) (ln : Lane) : Option Binding :=
  match curBind ln s.round with
  | some b => some b
  | none => ln.binds.find? fun b => !b.posted

/-- BIND (R141). -/
def bindBits (s : State) (b : Binding) : Nat :=
  let sq := match flightBySeq s b.seat b.seq with | some g => g.sq | none => 0
  2 ^ 44 * b.seg + 2 ^ 31 * b.seat + 2 ^ 24 * b.tricks + 2 ^ 23 * b2n b.firstSeg + 2 ^ 22 * b2n b.lastSeg + sq

/-- KEYSTAT (R141). -/
def keyStat (b : Banks) : Nat := 128 * b2n b.k0a.isSome + 64 * b2n b.k1a.isSome + 32 * b2n b.core + 16 * b2n b.denied

/-- A byte of the engine and play window. -/
def laneRegRead (s : State) (l o : Nat) : Byte :=
  let ln := getLane s l
  let b := shownBind s ln
  let le (n i : Nat) : Byte := BitVec.ofNat 8 (n / 2 ^ (8 * i))
  if o < 0x40 then (match b with | some x => byteAt (descBytes x.desc) o | none => 0)
  else if o < 0x48 then (match b with | some x => le (bindBits s x) (o - 0x40) | none => 0)
  else if o < 0x50 then (match b with | some x => le x.info.toNat (o - 0x48) | none => 0)
  else if o < 0x52 then le (segLeft ln s.round) (o - 0x50)
  else if o < 0x54 then le (playStat ln s.round) (o - 0x52)
  else if o = 0x54 then
    (match b.bind (·.refused) with | some f => BitVec.ofNat 8 f.1.code | none => 0)
  else if 0x58 ≤ o ∧ o < 0x5C then le ln.result.toNat (o - 0x58)
  else if o = 0x5C then BitVec.ofNat 8 (b2n ln.outz)
  else if 0x60 ≤ o ∧ o < 0x70 then byteAt ln.exports (o - 0x60)
  else if o = 0x70 then ln.ptIndex
  else if 0x78 ≤ o ∧ o < 0x80 then rd s (microAddr l ln.ptIndex.toNat + (o - 0x78))
  else if 0x80 ≤ o ∧ o < 0xC0 then byteAt ln.dp.cwa (o - 0x80)
  else if 0xC0 ≤ o ∧ o < 0x100 then byteAt ln.dp.cwb (o - 0xC0)
  else if o = 0x121 then BitVec.ofNat 8 (keyStat ln.banks)
  else if o = 0x400 then ln.pkr.op
  else if o = 0x401 then ln.pkr.words
  else if o = 0x402 then BitVec.ofNat 8 (128 * b2n ln.pkr.go)
  else if o = 0x403 then ln.pkr.stat
  else if 0x410 ≤ o ∧ o < 0x510 then byteAt ln.pkr.m (o - 0x410)
  else if 0x510 ≤ o ∧ o < 0x610 then byteAt ln.pkr.a (o - 0x510)
  else if 0x610 ≤ o ∧ o < 0x710 then byteAt ln.pkr.b (o - 0x610)
  else 0

/-- Codes an applet may store in RESULT.STATUS (R156). -/
def appletStatus (v : Byte) : Byte :=
  let ok : List Status := [.done, .mismatch, .rangeInvalid, .paramInvalid, .bounds, .policy]
  if ok.any fun t => t.code == v.toNat then v else BitVec.ofNat 8 Status.paramInvalid.code

/-- KEYIN_CTRL written (R140, R141): a GO names a bank and an AES size, and KEY0's hand must allow it. -/
def keyinWrite (s : State) (l : Nat) (v : Byte) : State :=
  let n := if fld v 1 0 = 0 then 16 else if fld v 1 0 = 1 then 24 else 32
  if bit v 7 = false ∨ 2 ≤ fld v 6 5 ∨ fld v 1 0 = 3 then s
  else
    let ok := match curBind (getLane s l) s.round with
      | some b => bit (getHand s (handleHand b.desc.key0)).policy 1
      | none => false
    modLane s l fun ln =>
      { ln with banks :=
        if ok then { ln.banks with keyin := some (fld v 6 5 == 1, n), denied := false } else { ln.banks with denied := true } }

/-- PKR_CTRL written (R202): GO is accepted before the final round of an applet's segment (R203). -/
def pkrGo (s : State) (l : Nat) (v : Byte) : State :=
  let ok := match curBind (getLane s l) s.round with
    | some b => b.applet && decide (s.round < b.final)
    | none => false
  modLane s l fun ln =>
    { ln with pkr := { ln.pkr with go := bit v 7, stat := if bit v 7 && ok then 1 else ln.pkr.stat } }

/-- A byte of the engine and play window written at a level. -/
def laneRegWrite (s : State) (l lv o : Nat) (v : Byte) : State :=
  if 0x58 ≤ o ∧ o < 0x5C then
    let b := if o = 0x5B ∧ lv = 0 then appletStatus v else v
    modLane s l fun ln =>
      { ln with result := if o = 0x5A then ln.result
          else BitVec.ofNat 32 (leNat (patch (natLe 4 ln.result.toNat) (o - 0x58) [b])) }
  else if o = 0x5C then modLane s l fun ln => { ln with outz := bit v 0 }
  else if 0x60 ≤ o ∧ o < 0x70 then modLane s l fun ln => { ln with exports := patch ln.exports (o - 0x60) [v] }
  else if o = 0x70 then modLane s l fun ln => { ln with ptIndex := v }
  else if 0x78 ≤ o ∧ o < 0x80 then store s (microAddr l (getLane s l).ptIndex.toNat + (o - 0x78)) [v]
  else if 0xC0 ≤ o ∧ o < 0x100 then
    modLane s l fun ln => { ln with dp := { ln.dp with cwb := patch ln.dp.cwb (o - 0xC0) [v] } }
  else if 0x100 ≤ o ∧ o < 0x120 then modLane s l fun ln => { ln with keyin := patch ln.keyin (o - 0x100) [v] }
  else if o = 0x120 then keyinWrite s l v
  else if o = 0x400 then modLane s l fun ln => { ln with pkr := { ln.pkr with op := v } }
  else if o = 0x401 then modLane s l fun ln => { ln with pkr := { ln.pkr with words := v } }
  else if o = 0x402 then pkrGo s l v
  else if 0x410 ≤ o ∧ o < 0x510 then
    modLane s l fun ln => { ln with pkr := { ln.pkr with m := patch ln.pkr.m (o - 0x410) [v] } }
  else if 0x510 ≤ o ∧ o < 0x610 then
    modLane s l fun ln => { ln with pkr := { ln.pkr with a := patch ln.pkr.a (o - 0x510) [v] } }
  else if 0x610 ≤ o ∧ o < 0x710 then
    modLane s l fun ln => { ln with pkr := { ln.pkr with b := patch ln.pkr.b (o - 0x610) [v] } }
  else s

/-! ## House control registers (R275) -/

/-- A byte of the house control registers: HWINi at 0xA000 + 4i (PRESUMED, log entry 8), the others free values. -/
def houseRegRead (s : State) (o : Nat) : Byte :=
  if o < 0x400 then BitVec.ofNat 8 ((sget 0 s.house.hwin (o / 4)).toNat / 2 ^ (8 * (o % 4))) else Config.houseReg o

/-- A byte of HWIN written. -/
def houseRegWrite (s : State) (o : Nat) (v : Byte) : State :=
  if o < 0x400 then
    let w := sget 0 s.house.hwin (o / 4)
    let n : BitVec 28 := BitVec.ofNat 28 (leNat (patch (natLe 4 w.toNat) (o % 4) [v]))
    { s with house := { s.house with hwin := sput 0 s.house.hwin (o / 4) n } }
  else s

/-! ## Entry-area registers (R286) -/

/-- A 16-bit register with one byte replaced. -/
def putByte (r : BitVec 16) (hi : Bool) (v : Byte) : BitVec 16 :=
  BitVec.ofNat 16 (if hi then 256 * v.toNat + fld r 7 0 else 256 * fld r 15 8 + v.toNat)

/-- ENTRY_F as read: LEVEL is 0b10, or 0b01 while a monitor call is open. -/
def entryF (k : Core) : BitVec 8 := withLevel k.entryF (if k.mc then 1 else 2)

/-- XSTAT. -/
def xstat (k : Core) : Nat := 128 * b2n k.mc + 64 * b2n k.latePend.isSome

/-- A byte of the entry area. -/
def entryRead (k : Core) (o : Nat) : Byte :=
  let half (r : BitVec 16) : Byte := BitVec.ofNat 8 (r.toNat / 2 ^ (8 * (o % 2)))
  match o / 2 with
  | 0 => half k.entryPc
  | 1 => half k.entrySp
  | 2 => if o = 4 then entryF k else BitVec.ofNat 8 (xstat k)
  | 3 => half k.mdepth
  | 4 => half k.splimA
  | 5 => half k.splimK
  | 6 => half k.splimM
  | 7 => if o = 0xE then k.excCause else 0
  | 8 => half k.lateAddr
  | 9 => if o = 0x12 then k.lateInfo else 0
  | 10 => if o = 0x14 then k.irqPend else k.irqMask
  | _ => 0

/-- What a read of the entry area changes: LATE_STORE_INFO clears. -/
def entryTouched (k : Core) (o w : Nat) : Core := if o = 0x12 ∧ w = 1 then { k with lateInfo := 0 } else k

/-- A byte of the entry area written with the right to. -/
def entryWrite (k : Core) (o : Nat) (v : Byte) : Core :=
  let hi := o % 2 == 1
  match o / 2 with
  | 0 => { k with entryPc := putByte k.entryPc hi v }
  | 1 => { k with entrySp := putByte k.entrySp hi v }
  | 2 => { k with entryF := BitVec.ofNat 8 (64 * fld k.entryF 7 6 + fld v 5 0) }
  | 4 => { k with splimA := putByte k.splimA hi v }
  | 5 => { k with splimK := putByte k.splimK hi v }
  | 6 => { k with splimM := putByte k.splimM hi v }
  | 10 =>
    if o = 0x14 then { k with irqPend := k.irqPend &&& ~~~(v &&& 6) }
    else if o = 0x15 then { k with irqMask := (v &&& 6) ||| 1 }
    else k
  | _ => k

/-! ## Reads and writes of a place -/

/-- Error keys of the word of play RAM behind PT_DATA, which a byte access of it reads (R141, R314, R318). -/
def microKeys (s : State) (l o : Nat) : List Nat :=
  if 0x78 ≤ o ∧ o < 0x80 then wkeys (microAddr l (getLane s l).ptIndex.toNat) 8 else []

/-- Value of w bytes read from a place; a read of uncorrectable data is a BUS_ERROR (R318). -/
def placeRead (s : State) (c : CoreId) (p : Place) (a w : Nat) : State × Except Stop Nat :=
  match p with
  | .cell m | .fixed m =>
    let ks := wkeys m w
    (touchWords s ks, if anyBad s ks then .error (.exc 0x0B a) else .ok (leNat (rdN s m w)))
  | .rom i => (s, .ok (leNat ((List.range w).map fun j => Config.romByte (i + j))))
  | .laneReg o =>
    let ks := microKeys s (laneOf c) o
    (touchWords s ks, if anyBad s ks then .error (.exc 0x0B a)
      else .ok (leNat ((List.range w).map fun j => laneRegRead s (laneOf c) (o + j))))
  | .houseReg o => (s, .ok (leNat ((List.range w).map fun j => houseRegRead s (o + j))))
  | .entry o =>
    let k := getCore s c
    (setCore s c (entryTouched k o w), .ok (leNat ((List.range w).map fun j => entryRead k (o + j))))
  | .bar off => (barTouch s off w, .ok (leNat (barBytes s off w)))
  | .fuse i => (s, .ok (leNat ((List.range w).map fun j => fuseByte s (i + j))))
  | .void => (s, .ok 0)
  | .absent => (s, .error (.exc 0x0B a))

/-- Bytes written to a place at a level. Memory that a core only reads takes none (R274). -/
def placeWrite (s : State) (c : CoreId) (lv : Nat) (p : Place) (a : Nat) (b : Bytes) : State × Except Stop Unit :=
  match p with
  | .cell m =>
    let ks := partKeys m b.length
    let s1 := touchWords s ks
    if anyBad s ks then (s1, .error (.exc 0x0B a)) else (store s1 m b, .ok ())
  | .laneReg o =>
    let ks := microKeys s (laneOf c) o
    let s1 := touchWords s ks
    if anyBad s ks then (s1, .error (.exc 0x0B a))
    else ((List.range b.length).foldl (fun t j => laneRegWrite t (laneOf c) lv (o + j) (byteAt b j)) s1, .ok ())
  | .houseReg o => ((List.range b.length).foldl (fun t j => houseRegWrite t (o + j) (byteAt b j)) s, .ok ())
  | .entry o =>
    (setCore s c ((List.range b.length).foldl (fun k j => entryWrite k (o + j) (byteAt b j)) (getCore s c)), .ok ())
  | .bar off => (barStore s off b, .ok ())
  | .fixed _ | .fuse _ => (s, if inWindow a then .error (.exc 0x0B a) else .ok ())
  | .rom _ | .void => (s, .ok ())
  | .absent => (s, .error (.exc 0x0B a))

/-! ## The store buffer (R265, R297) -/

/-- Core cycles since ROUND_COUNT 0. -/
def coreTime (s : State) (k : Core) : Nat := 16 * s.round + k.cyc

/-- A buffered store meets an error: it and every later one are discarded (R297). -/
def lateError (k : Core) (e : StoreEnt) (lost : Nat) (fabric : Bool) : Core :=
  let info := 128 + 32 * e.level.toNat + 16 * b2n fabric + min 3 lost
  let new := !bit k.lateInfo 7
  { k with
    latePend := some e.addr, sbuf := []
    lateAddr := if new then e.addr else k.lateAddr
    lateInfo := if new then BitVec.ofNat 8 info else k.lateInfo }

/-- The oldest store leaves the buffer. -/
def drainOne (s : State) (c : CoreId) : State :=
  let k := getCore s c
  match k.sbuf with
  | [] => s
  | e :: rest =>
    let p := windowAt c e.win e.bank.toNat e.addr.toNat
    if suitBad s c e.level.toNat e.suit true p e.data.length then
      setCore (suitRefused s (placeSpan p e.data.length)) c (lateError k e rest.length false)
    else match placeWrite s c e.level.toNat p e.addr.toNat e.data with
      | (s1, .ok _) => setCore s1 c { getCore s1 c with sbuf := rest }
      | (s1, .error _) => setCore s1 c (lateError (getCore s1 c) e rest.length true)

/-- The buffer emptied, with the cycles this takes. -/
def drainAll (s : State) (c : CoreId) : State × Nat :=
  let k := getCore s c
  let wait := match k.sbuf.getLast? with
    | some e => e.due - coreTime s k
    | none => 0
  (k.sbuf.foldl (fun t _ => drainOne t c) s, wait)

/-- A store put into the buffer, with the cycles it waits: a full buffer lets its oldest store leave first. -/
def bufferPush (s : State) (c : CoreId) (lv a : Nat) (b : Bytes) (after : Nat) : State × Nat :=
  let k := getCore s c
  let wait := if k.sbuf.length < 4 then after
    else match k.sbuf.head? with
      | some e => max after (e.due - coreTime s k)
      | none => after
  let s1 := if k.sbuf.length < 4 then s else drainOne s c
  let k1 := getCore s1 c
  (setCore s1 c { k1 with sbuf := k1.sbuf ++
    [{ addr := BitVec.ofNat 16 a, bank := k.bk, win := winOf s c k.bk.toNat, data := b, level := BitVec.ofNat 2 lv, suit := suitFor s c
       due := coreTime s k + wait + 33 }] }, wait)

/-! ## Data accesses of a core -/

/-- A value with the cycles its access adds to its opcode's (R259, R265). -/
abbrev Timed := Nat × Nat

/-- A load of w bytes at a level. Through the window it waits for the store buffer and occupies 33 cycles. -/
def coreRead (s : State) (c : CoreId) (lv a w : Nat) : State × Except Stop Timed :=
  let k := getCore s c
  match refuse s c k lv .read a w with
  | some x => (s, .error x)
  | none =>
    let p := placeOf s c k.bk.toNat a
    if inWindow a then
      let d := drainAll s c
      if suitBad d.1 c lv (suitFor d.1 c) false p w then (suitRefused d.1 (placeSpan p w), .error (.exc 0x0A a))
      else match placeRead d.1 c p a w with
        | (s1, .ok v) => (s1, .ok (v, d.2 + 32))
        | (s1, .error x) => (s1, .error x)
    else match placeRead s c p a w with
      | (s1, .ok v) => (s1, .ok (v, 0))
      | (s1, .error x) => (s1, .error x)

/-- A store of bytes at a level. Through the window it enters the store buffer. -/
def coreWrite (s : State) (c : CoreId) (lv a : Nat) (b : Bytes) : State × Except Stop Nat :=
  let k := getCore s c
  match refuse s c k lv .write a b.length with
  | some x => (s, .error x)
  | none =>
    if inWindow a then
      let r := bufferPush s c lv a b 0
      (r.1, .ok r.2)
    else match placeWrite s c lv (placeOf s c k.bk.toNat a) a b with
      | (s1, .ok _) => (s1, .ok 0)
      | (s1, .error x) => (s1, .error x)

end Sys2Proof.Machine
end

