-- ==== Sys2Proof/Machine/G8.lean ====
section
/-!
DEFINITION. The G8 cores at work: frames and entries (R281-R289), the load delay (R263, R264, R295), loops (R268, R269),
fetch and completion of an instruction, interrupts, and the cores' own registers as commands (R286, R297).
-/
namespace Sys2Proof.Machine

/-! ## Frames and entries (R280, R283, R287-R289) -/

/-- Level a cause taken at a level vectors to (R283). -/
def targetLevel (lv : Nat) : Nat := if lv = 2 then 2 else 1

/-- The stack limit of a level (R286). -/
def splim (k : Core) (t : Nat) : Nat := if t = 0 then k.splimA.toNat else if t = 1 then k.splimK.toNat else k.splimM.toNat

/-- Handler PC and SP of a vector (R280). -/
def vectorEntry (s : State) (c : CoreId) (t cause : Nat) : Nat × Nat :=
  let b := if t = 2 then (List.range 4).map fun j => Config.romByte ((if isHouse c then 65536 else 0) + 0xEF80 + 4 * cause + j)
    else rdN s (ownAddr c (0xF000 + 4 * cause)) 4
  (leField b 0 2 / 4 * 4, leField b 2 2)

/-- Error keys of a vector's word, in the core's own memory (R314, R318). -/
def vectorWords (c : CoreId) (t cause : Nat) : List Nat :=
  if t = 2 then [] else wkeys (ownAddr c (0xF000 + 4 * cause)) 4

/-- A 16-bit piece of a frame may be written (R288 step 4, R289). -/
def pushOk (s : State) (c : CoreId) (k : Core) (t a : Nat) : Bool :=
  let p := placeOf s c k.bk.toNat a
  (refuse s c k t .write a 2).isNone && !suitBad s c t (suitFor s c) true p 2
    && (match p with
      | .cell m => !anyBad s (partKeys m 2)
      | .absent => false
      | _ => true)

/-- One piece of a frame written; through the window it waits as a store does. -/
def framePut (c : CoreId) (t : Nat) (sp : Nat) (b : Bytes) (x : State × Nat) (j : Nat) : State × Nat :=
  let a := sp + 2 * j
  if inWindow a then bufferPush x.1 c t a (slice b (2 * j) 2) x.2
  else ((placeWrite x.1 c t (placeOf x.1 c (getCore x.1 c).bk.toNat a) a (slice b (2 * j) 2)).1, x.2)

/-- A frame of 24 bytes pushed at a level below a stack pointer: the state, the frame's address and the cycles it waits;
none where the push fails (R288, R289). -/
def pushFrame (s : State) (c : CoreId) (k : Core) (t top : Nat) (b : Bytes) : Option (State × Nat × Nat) :=
  let sp := top - 24
  if top < 24 ∨ sp < splim k t then none
  else if (List.range 12).all fun j => pushOk s c k t (sp + 2 * j) then
    let r := (List.range 12).foldl (framePut c t sp b) (s, 0)
    some (r.1, sp, r.2)
  else none

/-- A frame push whose stack lies in a page under retag waits as any access to it does (R289, R305). -/
def pushHeld (s : State) (c : CoreId) (k : Core) (t top : Nat) : Bool :=
  let sp := top - 24
  !(decide (top < 24) || decide (sp < splim k t))
    && (List.range 12).any fun j => refuse s c k t .write (sp + 2 * j) 2 == some .hold

/-- What a frame push that cannot be made leaves: its pieces refused by suit are one refusal, and the words it would read
are met (R303, R318). -/
def pushTried (s : State) (c : CoreId) (k : Core) (t top : Nat) : State :=
  let sp := top - 24
  if top < 24 ∨ sp < splim k t then s
  else
    let ps := ((List.range 12).filter fun j => (refuse s c k t .write (sp + 2 * j) 2).isNone).map fun j =>
      placeOf s c k.bk.toNat (sp + 2 * j)
    let bad := ps.filter fun p => suitBad s c t (suitFor s c) true p 2
    let s1 := if bad.isEmpty then s else suitRefused s (bad.flatMap fun p => placeSpan p 2).eraseDups
    touchWords s1 ((ps.flatMap fun p => match p with | .cell m => partKeys m 2 | _ => []).eraseDups)

/-- A core waits to the next round. -/
def holdCore (s : State) (c : CoreId) : State := setCore s c { getCore s c with cyc := 16 }

/-- A frame push that cannot be made (R289). -/
def collapse (s : State) (c : CoreId) : State :=
  match c with
  | .lane l => laneCollapse s l.val
  | .house => houseFatal s 5 (frameBytes s.house.core s.house.core.excCause.toNat 0) []

/-- The core after an entry to level t (R285, R288). -/
def enteredCore (k : Core) (t sp pc cause cycles : Nat) : Core :=
  { k with
    sp := BitVec.ofNat 16 sp, pc := BitVec.ofNat 16 pc, f := entryFlags k.f t, load := none
    excCause := BitVec.ofNat 8 cause, mdepth := if t = 2 then k.mdepth + 1 else k.mdepth
    cyc := k.cyc + cycles, oneFirst := false }

/-- The pointer an entry's frame is pushed below: the vector's where the level rises, else the live SP (R288 step 2). -/
def entryTop (s : State) (c : CoreId) (cause : Nat) : Nat :=
  let k := getCore s c
  let t := targetLevel (level k)
  if level k < t then (vectorEntry s c t cause).2 else k.sp.toNat

/-- The entry to a cause waits for a page under retag (R305). -/
def entryHeld (s : State) (c : CoreId) (cause : Nat) : Bool :=
  let k := getCore s c
  let t := targetLevel (level k)
  !anyBad s (vectorWords c t cause) && pushHeld s c k t (entryTop s c cause)

/-- Exception entry: a cause taken with its INFO and the PC its frame carries (R282, R288). A vector beyond correction leads
to no handler: the stack collapses (DEDUCED, log entry 154). -/
def takeCause (s : State) (c : CoreId) (cause info : Nat) (pc : BitVec 16) : State :=
  let k := { getCore s c with pc := pc }
  let t := targetLevel (level k)
  let v := vectorEntry s c t cause
  let top := entryTop s c cause
  let ks := vectorWords c t cause
  if entryHeld s c cause then holdCore s c
  else if anyBad s ks then collapse (touchWords s ks) c
  else match pushFrame s c k t top (frameBytes k cause info) with
  | none => collapse (touchWords (pushTried s c k t top) ks) c
  | some (s1, sp, w) =>
    let k1 := getCore s1 c
    let k2 := enteredCore k1 t sp v.1 cause (6 + w)
    touchWords (setCore s1 c
      (if cause = 1 then { k2 with latePend := none } else if cause = 0x0C then { k2 with playForm := none } else k2)) ks

/-! ## Pending interrupts (R281, R282, R293) -/

/-- The interrupt, late store error or refused first play (R134) the core takes at this boundary, with its INFO. -/
def pendingCause (k : Core) : Option (Nat × Nat) :=
  match k.latePend with
  | some a => some (0x01, a.toNat)
  | none =>
    let m := k.irqPend &&& k.irqMask
    if bit k.irqPend 0 && level k == 0 then some (0x10, 0)
    else if k.playForm.isSome then some (0x0C, (k.playForm.getD 0).toNat)
    else if bit k.f 4 && !k.oneFirst && bit m 1 then some (0x11, 0)
    else if bit k.f 4 && !k.oneFirst && bit m 2 then some (0x12, 0)
    else none

/-- The core may start an instruction or take an interrupt in this round. -/
def coreRuns (s : State) (c : CoreId) : Bool :=
  let k := getCore s c
  running s && !k.stopped && decide (k.cyc < 16)

/-! ## The house pair (R275) -/

/-- The house cores differ (R275, R393). -/
def lockstep (s : State) : State :=
  let h := s.house
  let fr (k : Core) := frameBytes k k.excCause.toNat 0
  houseFatal (alarms s [26]) 6 (fr h.core) (fr h.core ++ fr h.twin ++ natLe 1 h.core.cyc)

/-- A boundary action of a core. The house cores act as one, and any difference between them stops them. -/
def act (s : State) (c : CoreId) (f : State → State) : State :=
  if !coreRuns s c then s
  else match c with
    | .lane _ => f s
    | .house =>
      if s.house.core ≠ s.house.twin then lockstep s
      else
        let t := f s
        { t with house := { t.house with twin := t.house.core } }

/-! ## Completion of an instruction (R263, R269, R295) -/

/-- What an instruction that completes does to its core: the registers, the cycles, and where a transfer goes. -/
structure Act where
  upd    : Core → Core
  cycles : Nat
  jump   : Option (BitVec 16)

/-- An instruction's accesses, and its completion or the reason it has none. -/
abbrev Body := CoreId → G8Word → Core → State → State × Except Stop Act

/-- The next PC and the loop state after a completed instruction (R269). -/
def nextPc (k : Core) (pc : BitVec 16) (jump : Option (BitVec 16)) : Core :=
  let start := k.le - 4 * (k.lc >>> 12)
  match jump with
  | some t =>
    let a := t &&& 0xFFFC
    let inside := decide (start.toNat ≤ a.toNat) && decide (a.toNat ≤ k.le.toNat)
    { k with pc := a, f := if loopOn k && !inside then setBit k.f 5 false else k.f }
  | none =>
    if loopOn k && pc == k.le then
      let n := (k.lc.toNat + 4095) % 4096
      let lc := BitVec.ofNat 16 (k.lc.toNat / 4096 * 4096 + n)
      if n = 0 then { k with lc := lc, f := setBit k.f 5 false, pc := pc + 4 } else { k with lc := lc, pc := start }
    else { k with pc := pc + 4 }

/-- The pending value of a load written at the end of its slot (R263). -/
def commitLoad (old : Option (BitVec 4 × BitVec 16)) (k : Core) : Core :=
  match old with
  | some l => regPut k l.1.toNat l.2
  | none => k

/-- A fault, unless a late store error outranks it (R282, R298); a wait holds the core to the next round. -/
def stopped (s : State) (c : CoreId) (x : Stop) : State :=
  let k := getCore s c
  match x with
  | .hold => holdCore s c
  | .exc cause info =>
    match k.latePend with
    | some a => takeCause s c 0x01 a.toNat k.pc
    | none => takeCause s c cause info k.pc

/-- An instruction whose effect is a body. -/
def plain (b : Body) (c : CoreId) (i : G8Word) (s : State) : State :=
  let k := getCore s c
  match b c i { k with load := none } s with
  | (s1, .error x) => stopped s1 c x
  | (s1, .ok a) =>
    let k1 := a.upd { getCore s1 c with load := none, oneFirst := false }
    let k2 := commitLoad k.load (nextPc k1 k.pc a.jump)
    setCore s1 c { k2 with cyc := k2.cyc + a.cycles }

/-! ## Fetch (R274, R281) -/

/-- The word at the PC. -/
def fetch (s : State) (c : CoreId) : State × Except Stop (BitVec 32) :=
  let k := getCore s c
  let a := k.pc.toNat
  match refuse s c k (level k) .fetch a 4 with
  | some x => (s, .error x)
  | none =>
    match placeRead s c (placeOf s c k.bk.toNat a) a 4 with
    | (s1, .ok v) => (s1, .ok (BitVec.ofNat 32 v))
    | (s1, .error _) => (s1, .error (.exc 0x02 a))

/-- A refused fetch: an uncorrectable word stops the house pair (R393). -/
def fetchFault (s : State) (c : CoreId) (x : Stop) : State :=
  match c, x with
  | .house, .exc 0x02 _ => houseFatal s 7 (frameBytes s.house.core 0x02 s.house.core.pc.toNat) []
  | _, _ => stopped s c x

/-- One instruction: it runs when its opcode satisfies p and no interrupt is to be taken first. A word that is not legal
takes ILLEGAL. -/
def g8Row (p : Nat → Bool) (f : CoreId → G8Word → State → State) (c : CoreId) (s : State) : State :=
  if (pendingCause (getCore s c)).isSome then s
  else act s c fun t =>
    match fetch t c with
    | (t1, .error x) => fetchFault t1 c x
    | (t1, .ok w) =>
      let i := g8Decode w
      if !p i.opc.toNat then t
      else if legal (isHouse c) (getCore t1 c) i then f c i t1 else stopped t1 c (.exc 0x04 0)

/-- SEG_FINAL taken: the applet still runs, so its segment posts ABORTED (R156, R298). -/
def finalTaken (s : State) (c : CoreId) (cause : Nat) : State :=
  match c with
  | .lane l =>
    match (getLane s l.val).binds.find? fun b => !b.posted && b.applet && b.refused.isNone && decide (b.final ≤ s.round) with
    | some b => if cause = 0x10 then lateApplet s l.val b else s
    | none => s
  | .house => s

/-- INTERRUPT_ENTRY (R282): the core takes the pending cause of highest priority. -/
def execInterruptEntry (c : CoreId) (s : State) : Out :=
  match pendingCause (getCore s c) with
  | some x => .next (act s c fun t =>
    if entryHeld t c x.1 then holdCore t c else finalTaken (takeCause t c x.1 x.2 (getCore t c).pc) c x.1)
  | none => .next s

/-- STORE_DRAIN (R265, R275, R297): the oldest store leaves once it is acknowledged; on the house pair both cores' buffers
give it, and a difference between them stops the pair first. -/
def execStoreDrain (c : CoreId) (s : State) : Out :=
  match (getCore s c).sbuf with
  | e :: _ =>
    if running s && decide (e.due ≤ 16 * s.round + 15) then
      let t := drainOne s c
      let same := decide (s.house.core = s.house.twin)
      .next (match c with
        | .lane _ => t
        | .house =>
          if !same && !s.house.core.stopped then lockstep s
          else { t with house := { t.house with
            twin := if same then t.house.core else { t.house.twin with sbuf := t.house.core.sbuf } } })
    else .next s
  | [] => .next s

/-- LATE_STORE_INFO (R286): a read at KERNEL or MONITOR answers it and clears it. -/
def execLateStoreInfo (c : CoreId) (s : State) : Out :=
  if level (getCore s c) = 0 then .next s
  else .next (act s c fun t =>
    let k := getCore t c
    setCore { t with answer := .bytes [k.lateInfo] } c (entryTouched k 0x12 1))

/-- IRQ_PEND (R10, R286): a W1C write at KERNEL or MONITOR; causes raised in the same cycle stay. -/
def execIrqPend (c : CoreId) (v sameCycle : Byte) (s : State) : Out :=
  if level (getCore s c) = 0 then .next s
  else .next (act s c fun t =>
    let k := getCore t c
    setCore t c { k with irqPend := (k.irqPend &&& ~~~(v &&& 6)) ||| (sameCycle &&& 6) })

end Sys2Proof.Machine
end

