-- ==== Sys2Proof/Machine/Insns.lean ====
section
/-!
DEFINITION. The instructions of the G8 (R261): moves, arithmetic, selects, transfers, loops, round-bound instructions, gates,
monitor calls and returns.
-/
namespace Sys2Proof.Machine

/-! ## Operands (R255, R256) -/

/-- The operand of w bytes a mode selects. -/
def operand (w : Nat) (c : CoreId) (i : G8Word) (k : Core) (s : State) : State × Except Stop Timed :=
  if i.am = 0 then (s, .ok (i.opnd.toNat, 0))
  else if i.am = 11 then (s, .ok ((regGet k i.opnd.toNat).toNat % 2 ^ (8 * w), 0))
  else coreRead s c (level k) (effAddr k i w).toNat w

/-- The index update of a mode beside an instruction's own result; where both write one register the manual gives no order
(free value). dest: REG code of the result. -/
def indexed (dest : Nat) (i : G8Word) (w : Nat) (before after : Core) : Core :=
  let u := indexStep i w before
  if i.am = 5 ∨ i.am = 7 then { after with x := if dest = 1 then Config.indexClash after.x u.x else u.x }
  else if i.am = 6 ∨ i.am = 8 then { after with y := if dest = 2 then Config.indexClash after.y u.y else u.y }
  else after

/-- An instruction that reads an operand of w bytes. -/
def reading (w : Nat) (dest : G8Word → Nat) (g : G8Word → Nat → Core → Core) : Body := fun c i k s =>
  match operand w c i k s with
  | (s1, .error x) => (s1, .error x)
  | (s1, .ok v) =>
    (s1, .ok { upd := fun q => indexed (dest i) i w q (g i v.1 q), cycles := 1 + v.2, jump := none })

/-- An instruction on registers alone. -/
def local_ (g : G8Word → Core → Core) : Body := fun _ i _ s => (s, .ok { upd := g i, cycles := 1, jump := none })

/-! ## Moves -/

/-- LD: the register is written at the end of the load's slot (R263). -/
def opLd : Body := fun c i k s =>
  let w := regBytes i.rs.toNat
  match coreRead s c (level k) (effAddr k i w).toNat w with
  | (s1, .error x) => (s1, .error x)
  | (s1, .ok v) =>
    (s1, .ok { upd := fun q => { indexStep i w q with load := some (i.rs.setWidth 4, BitVec.ofNat 16 v.1) }
               cycles := 1 + v.2, jump := none })

/-- ST, to memory or to a register. -/
def opSt : Body := fun c i k s =>
  let w := regBytes i.rs.toNat
  let v := regGet k i.rs.toNat
  if i.am = 11 then (s, .ok { upd := fun q => regPut q i.opnd.toNat v, cycles := 1, jump := none })
  else match coreWrite s c (level k) (effAddr k i w).toNat (natLe w v.toNat) with
    | (s1, .error x) => (s1, .error x)
    | (s1, .ok n) => (s1, .ok { upd := indexStep i w, cycles := 1 + n, jump := none })

/-- LEA. -/
def opLea : Body := local_ fun i q => regPut q i.rs.toNat (effAddr q i 2)

/-- MOV. -/
def opMov : Body := local_ fun i q => regPut q i.rs.toNat (if i.am = 0 then i.opnd else regGet q i.opnd.toNat)

/-- PUSH. -/
def opPush : Body := fun c i k s =>
  let code := stackCode i.rs
  let sp := k.sp - BitVec.ofNat 16 (regBytes code)
  match coreWrite s c (level k) sp.toNat (natLe (regBytes code) (regGet k code).toNat) with
  | (s1, .error x) => (s1, .error x)
  | (s1, .ok n) => (s1, .ok { upd := fun q => { q with sp := sp }, cycles := 1 + n, jump := none })

/-- POP: the register is written at the end of the slot. -/
def opPop : Body := fun c i k s =>
  let code := stackCode i.rs
  match coreRead s c (level k) k.sp.toNat (regBytes code) with
  | (s1, .error x) => (s1, .error x)
  | (s1, .ok v) =>
    (s1, .ok { upd := fun q => { q with sp := k.sp + BitVec.ofNat 16 (regBytes code)
                                        load := some (BitVec.ofNat 4 code, BitVec.ofNat 16 v.1) }
               cycles := 1 + v.2, jump := none })

/-- NOP. -/
def opNop : Body := local_ fun _ q => q

/-! ## Arithmetic and logic -/

/-- An 8-bit operation on A: the new A and F. -/
def onA (g : BitVec 8 → BitVec 8 → BitVec 8 → BitVec 8 × BitVec 8) : Body :=
  reading 1 (fun _ => 0) fun _ v q =>
    let r := g q.a (BitVec.ofNat 8 v) q.f
    { q with a := r.1, f := r.2 }

/-- Result and flags of an addition or subtraction. -/
def withCZNV {w : Nat} (f : BitVec 8) (r : BitVec w × Bool × Bool) : BitVec w × BitVec 8 := (r.1, putCZNV f r.1 r.2.1 r.2.2)

def opAdd : Body := onA fun a m f => withCZNV f (addW a m false)
def opAdc : Body := onA fun a m f => withCZNV f (addW a m (bit f 0))
def opSub : Body := onA fun a m f => withCZNV f (subW a m false)
def opSbc : Body := onA fun a m f => withCZNV f (subW a m (bit f 0))
def opCmp : Body := onA fun a m f => (a, (withCZNV f (subW a m false)).2)
def opAnd : Body := onA fun a m f => (a &&& m, putZN f (a &&& m))
def opOr : Body := onA fun a m f => (a ||| m, putZN f (a ||| m))
def opXor : Body := onA fun a m f => (a ^^^ m, putZN f (a ^^^ m))
def opBit : Body := onA fun a m f => (a, putZN f (a &&& m))

/-- A shift of A by the count in OPND. -/
def shifting (g : BitVec 8 → Nat → Bool → BitVec 8 × Bool) : Body := local_ fun i q =>
  let r := g q.a i.opnd.toNat (bit q.f 0)
  { q with a := r.1, f := putCZN q.f r.1 r.2 }

def opShl : Body := shifting shlW
def opShr : Body := shifting shrW
def opSar : Body := shifting sarW
def opRol : Body := shifting rolW
def opRor : Body := shifting rorW

/-- INC and DEC: a register plus a step. -/
def stepping (d : BitVec 16) : Body := local_ fun i q =>
  let code := i.rs.toNat
  let r := regGet q code + d
  { regPut q code r with f := if code = 0 then putZN q.f (r.setWidth 8 : BitVec 8) else putZN q.f r }

def opInc : Body := stepping 1
def opDec : Body := stepping 0xFFFF

/-- CPR. -/
def opCpr : Body := reading 2 (fun _ => 0) fun i v q =>
  { q with f := (withCZNV q.f (subW (regGet q i.rs.toNat) (BitVec.ofNat 16 v) false)).2 }

/-- MUL: Z from the 16-bit product. -/
def opMul : Body := reading 1 (fun _ => 1) fun _ v q =>
  let p : BitVec 16 := BitVec.ofNat 16 (q.a.toNat * v)
  { q with x := p, f := setBit q.f 1 (p == 0) }

/-- ADW and SBW: a 16-bit operation on a register. -/
def onWord (g : BitVec 16 → BitVec 16 → BitVec 16 × Bool × Bool) : Body :=
  reading 2 (fun i => i.rs.toNat) fun i v q =>
    let r := withCZNV q.f (g (regGet q i.rs.toNat) (BitVec.ofNat 16 v))
    { regPut q i.rs.toNat r.1 with f := r.2 }

def opAdw : Body := onWord fun a m => addW a m false
def opSbw : Body := onWord fun a m => subW a m false

/-! ## Selects (R272) -/

/-- CSELT and CSELF: M is read in every case. -/
def selecting (want : Bool) : Body := reading 1 (fun _ => 0) fun i v q =>
  { q with a := if cond q.f i.rs = want then BitVec.ofNat 8 v else q.a }

def opCselt : Body := selecting true
def opCself : Body := selecting false

/-- MASKT and MASKF. -/
def masking (want : Bool) : Body := local_ fun i q => { q with a := if cond q.f i.rs = want then 0xFF else 0 }

def opMaskt : Body := masking true
def opMaskf : Body := masking false

/-! ## Transfers -/

/-- BT and BF. -/
def branching (want : Bool) : Body := fun _ i k s =>
  (s, .ok { upd := id, cycles := 2, jump := if cond k.f i.rs = want then some i.opnd else none })

def opBt : Body := branching true
def opBf : Body := branching false

/-- JMP. -/
def opJmp : Body := fun _ i k s => (s, .ok { upd := id, cycles := 2, jump := some (effAddr k i 2) })

/-- CALL. -/
def opCall : Body := fun c i k s =>
  let sp := k.sp - 2
  match coreWrite s c (level k) sp.toNat (natLe 2 (k.pc + 4).toNat) with
  | (s1, .error x) => (s1, .error x)
  | (s1, .ok n) => (s1, .ok { upd := fun q => { q with sp := sp }, cycles := 2 + n, jump := some (effAddr k i 2) })

/-- RET. -/
def opRet : Body := fun c _ k s =>
  match coreRead s c (level k) k.sp.toNat 2 with
  | (s1, .error x) => (s1, .error x)
  | (s1, .ok v) =>
    (s1, .ok { upd := fun q => { q with sp := k.sp + 2 }, cycles := 2 + v.2, jump := some (BitVec.ofNat 16 v.1) })

/-- LOOP (R268). -/
def opLoop : Body := fun _ i k s =>
  let n := loopCount k i.rs
  if n = 0 then (s, .ok { upd := id, cycles := 1, jump := some (i.opnd + 4) })
  else
    let body := (i.opnd.toNat - k.pc.toNat - 4) / 4
    (s, .ok { upd := fun q => { q with le := i.opnd, lc := BitVec.ofNat 16 (4096 * body + n), f := setBit q.f 5 true }
              cycles := 1, jump := none })

/-! ## Round-bound instructions (R270, R271, R273) -/

/-- WAIT. -/
def opWait : Body := fun _ _ k s => (s, .ok { upd := id, cycles := 16 - k.cyc, jump := none })

/-- FENCE: a late error met while the buffer drains is taken here. -/
def opFence : Body := fun c _ _ s =>
  let d := drainAll s c
  match (getCore d.1 c).latePend with
  | some a => (d.1, .error (.exc 0x01 a.toNat))
  | none => (d.1, .ok { upd := id, cycles := max 1 d.2, jump := none })

/-- A play is refused (R134, R136): a play runs, APPLET names an entry that is not exported, the table's form, or a duration
past the segment's end. -/
def playRefused (s : State) (l lv entry : Nat) : Bool :=
  let ln := getLane s l
  let b := curBind ln s.round
  ln.seqr.run || (decide (lv = 0) && (decide (entry = 0) || !ln.exports.any fun e => e.toNat == entry))
    || (match b.bind fun x => playLength s l x.tricks entry with
      | some n => decide (segLeft ln s.round < n + 1)
      | none => true)

/-- PLAY: the first microword runs in the next round. -/
def opPlay : Body := fun c i k s =>
  let l := laneOf c
  let e := if i.am = 0 then i.opnd.toNat else k.a.toNat
  if playRefused s l (level k) e then
    (modLane s l fun ln => { ln with seqr := { ln.seqr with form := true } }, .error (.exc 0x0C e))
  else
    (modLane s l fun ln => { ln with seqr :=
      { upc := e, run := true, form := false, loops := [], rep := none, from_ := s.round + 1 } },
     .ok { upd := id, cycles := 1, jump := none })

/-! ## Gates (R284, R285, R295) -/

/-- A byte is granted by the regions at APPLET for reading, and for writing where asked (R284). -/
def gateByte (s : State) (c : CoreId) (write : Bool) (a : Nat) : Bool :=
  granted s c 0 .read a && (!write || granted s c 0 .write a)

/-- A byte of the buffer lies in a granule of another suit. -/
def gateSuit (s : State) (c : CoreId) (k : Core) (a : Nat) : Bool :=
  match (if inWindow a then placeOf s c k.bk.toNat a else .void) with
  | .cell m =>
    decide (sessBase ≤ m) && decide (m < laneBase 0)
      && (sget false s.prot.badTags (granule m) || sget 0 s.prot.tags (granule m) != suitFor s c)
  | _ => false

/-- The buffer named by X and Y: inside the address space, and every byte of it allowed. -/
def gateSpan (s : State) (c : CoreId) (k : Core) (write : Bool) : Bool :=
  let x := k.x.toNat
  let n := k.y.toNat
  decide (x + n ≤ 0x10000)
    && (List.range n).all fun j => gateByte s c write (x + j) && !gateSuit s c k (x + j)

/-- The argument check of a gate (R284). -/
def gateCheck (s : State) (c : CoreId) (k : Core) (check : Nat) : Bool :=
  if bits check 30 30 = 0 then true
  else if k.y = 0 then bits check 28 28 == 1
  else decide (k.y.toNat ≤ bits check 15 0) && gateSpan s c k (bits check 29 29 == 1)

/-- A refused buffer of more than one granule is counted (R310). -/
def gateCount (s : State) (c : CoreId) (k : Core) (check : Nat) : State :=
  let x := k.x.toNat
  let n := k.y.toNat
  if bits check 30 30 = 1 ∧ n ≠ 0 ∧ n ≤ bits check 15 0 ∧ x + n ≤ 0x10000 ∧ gateSpan s c k (bits check 29 29 == 1) = false
      ∧ x / 64 < (x + n - 1) / 64 then spanRefused s
  else s

/-- GATE: the frame holds the values from before a load whose slot the GATE is, and the loaded value is written at KERNEL. -/
def runGate (c : CoreId) (i : G8Word) (s : State) : State :=
  let k := getCore s c
  let n := i.opnd.toNat
  let a := 0xF800 + 8 * n
  let ks := wkeys (ownAddr c a) 8
  let d := rdN s (ownAddr c a) 8
  let check := leField d 4 4
  if anyBad s ks then stopped (touchWords s ks) c (.exc 0x0B a)
  else if bits check 31 31 = 0 ∨ bits check 27 16 ≠ 0 then stopped (touchWords s ks) c (.exc 0x06 n)
  else if gateCheck s c k check then
    let kf := { k with pc := k.pc + 4, f := setBit k.f 5 false, load := none }
    match pushFrame s c kf 1 (leField d 2 2) (frameBytes kf 0x0D n) with
    | none =>
      if pushHeld s c kf 1 (leField d 2 2) then holdCore s c
      else collapse (touchWords (pushTried s c kf 1 (leField d 2 2)) ks) c
    | some (s1, sp, w) =>
      let k1 := enteredCore { getCore s1 c with load := none } 1 sp (leField d 0 2 / 4 * 4) 0x0D (6 + w)
      touchWords (setCore s1 c (commitLoad k.load k1)) ks
  else stopped (touchWords (gateCount s c k check) ks) c (.exc 0x07 n)

/-! ## Monitor calls and returns (R290-R293, R295) -/

/-- The three exchanges of R290. -/
def exchanged (k : Core) (mc : Bool) : Core :=
  { k with
    pc := k.entryPc &&& 0xFFFC, entryPc := k.pc + 4, sp := k.entrySp, entrySp := k.sp
    f := entryF k, entryF := setBit k.f 5 false, mc := mc, load := none, oneFirst := false, cyc := k.cyc + 2 }

/-- MCALL. -/
def runMcall (c : CoreId) (_ : G8Word) (s : State) : State :=
  let k := getCore s c
  setCore s c (commitLoad k.load (exchanged k true))

/-- A frame of 24 bytes read at an address, with the cycles its loads add. -/
def readFrame (s : State) (c : CoreId) (lv : Nat) (sp : BitVec 16) : State × Except Stop (Bytes × Nat) :=
  (List.range 12).foldl (fun x j =>
    match x with
    | (t, .error e) => (t, .error e)
    | (t, .ok (b, n)) =>
      match coreRead t c lv (sp + BitVec.ofNat 16 (2 * j)).toNat 2 with
      | (t1, .error e) => (t1, .error e)
      | (t1, .ok v) => (t1, .ok (b ++ natLe 2 v.1, n + v.2))) (s, .ok ([], 0))

/-- A forged frame (R292). -/
def forged (b : Bytes) (lv : Nat) : Bool :=
  let l := fld (byteAt b 2) 7 6
  let sh := byteAt b 15
  decide (l = 3) || decide (lv < l) || (bit sh 7 && (decide (4 < fld sh 3 0) || decide (fld sh 6 4 ≠ 0)))

/-- The core a frame restores (R291, R294). -/
def restored (k : Core) (b : Bytes) (lv : Nat) (cycles : Nat) : Core :=
  let h (o : Nat) : BitVec 16 := BitVec.ofNat 16 (leField b o 2)
  let sh := byteAt b 15
  { k with
    pc := h 0 &&& 0xFFFC, f := byteAt b 2, a := byteAt b 3, x := h 4, y := h 6, sp := h 8, lc := h 10, le := h 12
    bk := byteAt b 14
    load := if bit sh 7 then some (BitVec.ofNat 4 (fld sh 3 0), h 16) else none
    mdepth := if lv = 2 ∧ k.mdepth ≠ 0 then k.mdepth - 1 else k.mdepth
    oneFirst := decide (fld (byteAt b 2) 7 6 < lv), cyc := k.cyc + cycles }

/-- RETX: from a monitor call by exchange, else by popping a frame. -/
def runRetx (c : CoreId) (_ : G8Word) (s : State) : State :=
  let k := getCore s c
  let lv := level k
  if lv = 2 ∧ k.mc = true ∧ k.mdepth = 0 then
    let k1 := exchanged k false
    setCore s c (commitLoad k.load { k1 with oneFirst := true, cyc := k.cyc + 6 })
  else match readFrame s c lv k.sp with
    | (s1, .error x) => stopped s1 c x
    | (s1, .ok (b, n)) =>
      if forged b lv then stopped s1 c (.exc 0x05 k.sp.toNat)
      else setCore s1 c (commitLoad k.load (restored (getCore s1 c) b lv (6 + n)))

/-! ## The rows -/

/-- An instruction of one opcode. -/
def insn (opc : Nat) (f : CoreId → G8Word → State → State) (c : CoreId) (s : State) : Out := .next (g8Row (· == opc) f c s)

/-- LD (R263). -/
def execLd (c : CoreId) (s : State) : Out := insn 0x01 (plain opLd) c s
/-- ST (R252, R261). -/
def execSt (c : CoreId) (s : State) : Out := insn 0x02 (plain opSt) c s
/-- LEA (R261). -/
def execLea (c : CoreId) (s : State) : Out := insn 0x03 (plain opLea) c s
/-- MOV (R261). -/
def execMov (c : CoreId) (s : State) : Out := insn 0x04 (plain opMov) c s
/-- PUSH (R261). -/
def execPush (c : CoreId) (s : State) : Out := insn 0x05 (plain opPush) c s
/-- POP (R263). -/
def execPop (c : CoreId) (s : State) : Out := insn 0x06 (plain opPop) c s
/-- G8_NOP (R261). -/
def execG8Nop (c : CoreId) (s : State) : Out := insn 0x0F (plain opNop) c s
/-- ADD (R261). -/
def execAdd (c : CoreId) (s : State) : Out := insn 0x10 (plain opAdd) c s
/-- ADC (R261). -/
def execAdc (c : CoreId) (s : State) : Out := insn 0x11 (plain opAdc) c s
/-- SUB (R261). -/
def execSub (c : CoreId) (s : State) : Out := insn 0x12 (plain opSub) c s
/-- SBC (R261). -/
def execSbc (c : CoreId) (s : State) : Out := insn 0x13 (plain opSbc) c s
/-- CMP (R261). -/
def execCmp (c : CoreId) (s : State) : Out := insn 0x14 (plain opCmp) c s
/-- AND (R261). -/
def execAnd (c : CoreId) (s : State) : Out := insn 0x15 (plain opAnd) c s
/-- OR (R261). -/
def execOr (c : CoreId) (s : State) : Out := insn 0x16 (plain opOr) c s
/-- XOR (R261). -/
def execXor (c : CoreId) (s : State) : Out := insn 0x17 (plain opXor) c s
/-- BIT (R261). -/
def execBit (c : CoreId) (s : State) : Out := insn 0x18 (plain opBit) c s
/-- SHL (R261). -/
def execShl (c : CoreId) (s : State) : Out := insn 0x20 (plain opShl) c s
/-- SHR (R261). -/
def execShr (c : CoreId) (s : State) : Out := insn 0x21 (plain opShr) c s
/-- SAR (R261). -/
def execSar (c : CoreId) (s : State) : Out := insn 0x22 (plain opSar) c s
/-- ROL (R261). -/
def execRol (c : CoreId) (s : State) : Out := insn 0x23 (plain opRol) c s
/-- ROR (R261). -/
def execRor (c : CoreId) (s : State) : Out := insn 0x24 (plain opRor) c s
/-- INC (R261). -/
def execInc (c : CoreId) (s : State) : Out := insn 0x25 (plain opInc) c s
/-- DEC (R261). -/
def execDec (c : CoreId) (s : State) : Out := insn 0x26 (plain opDec) c s
/-- CPR (R261). -/
def execCpr (c : CoreId) (s : State) : Out := insn 0x27 (plain opCpr) c s
/-- MUL (R261). -/
def execMul (c : CoreId) (s : State) : Out := insn 0x28 (plain opMul) c s
/-- ADW (R261). -/
def execAdw (c : CoreId) (s : State) : Out := insn 0x29 (plain opAdw) c s
/-- SBW (R261). -/
def execSbw (c : CoreId) (s : State) : Out := insn 0x2A (plain opSbw) c s
/-- CSELT (R272). -/
def execCselt (c : CoreId) (s : State) : Out := insn 0x30 (plain opCselt) c s
/-- CSELF (R272). -/
def execCself (c : CoreId) (s : State) : Out := insn 0x31 (plain opCself) c s
/-- MASKT (R272). -/
def execMaskt (c : CoreId) (s : State) : Out := insn 0x32 (plain opMaskt) c s
/-- MASKF (R272). -/
def execMaskf (c : CoreId) (s : State) : Out := insn 0x33 (plain opMaskf) c s
/-- BT (R257, R261). -/
def execBt (c : CoreId) (s : State) : Out := insn 0x40 (plain opBt) c s
/-- BF (R257, R261). -/
def execBf (c : CoreId) (s : State) : Out := insn 0x41 (plain opBf) c s
/-- JMP (R261). -/
def execJmp (c : CoreId) (s : State) : Out := insn 0x42 (plain opJmp) c s
/-- CALL (R261). -/
def execCall (c : CoreId) (s : State) : Out := insn 0x43 (plain opCall) c s
/-- RET (R261). -/
def execRet (c : CoreId) (s : State) : Out := insn 0x44 (plain opRet) c s
/-- LOOP (R268). -/
def execLoop (c : CoreId) (s : State) : Out := insn 0x50 (plain opLoop) c s
/-- WAIT (R270). -/
def execWait (c : CoreId) (s : State) : Out := insn 0x51 (plain opWait) c s
/-- FENCE (R271). -/
def execFence (c : CoreId) (s : State) : Out := insn 0x52 (plain opFence) c s
/-- PLAY (R136, R273). -/
def execPlay (c : CoreId) (s : State) : Out := insn 0x53 (plain opPlay) c s

/-- GATE (R284, R285). -/
def execGate (c : CoreId) (s : State) : Out := insn 0x60 runGate c s
/-- MCALL (R290). -/
def execMcall (c : CoreId) (s : State) : Out := insn 0x61 runMcall c s
/-- RETX (R291-R293). -/
def execRetx (c : CoreId) (s : State) : Out := insn 0x62 runRetx c s
/-- RESERVED_OPC (R262): ILLEGAL, whatever its other fields. -/
def execReservedOpc (c : CoreId) (s : State) : Out :=
  .next (g8Row (fun o => (opRow o 0).isNone) (fun d _ t => stopped t d (.exc 0x04 0)) c s)

end Sys2Proof.Machine
end

