-- ==== Sys2Proof/Machine/Tick.lean ====
section
/-!
DEFINITION. The round boundary (R38, R39): what every round-timed unit does as a round ends and the next begins, the halts of
seats (R112, R199), upsets and the scrubber (R313-R318), and the life of an applet's segment (R155, R156).
-/
namespace Sys2Proof.Machine

/-! ## Halts of seats (R111, R112, R199) -/

/-- Requests of a halted seat in an engine, but for an operation that has ended (R199). -/
def haltEngine (s : State) (i : Nat) (d : BitVec 16) (k : Nat) : State :=
  abortEngine s k (fun t => decide (t.seat = i) && !opEnded s k t) .seatHalted d s.round

/-- DETAIL of SEAT_HALTED: the cause of the halt (R106). -/
def haltDetail (x : Seat) : BitVec 16 := BitVec.ofNat 16 x.cause.code

/-- Segments of a seat on the lanes, with their lanes. -/
def seatBinds (s : State) (i : Nat) : List (Nat × Binding) :=
  s.lanes.flatMap fun e => (e.2.binds.filter fun b => decide (b.seat = i)).map fun b => (e.1, b)

/-- Round h + 1 of a halt in round h: fetches under way are void, a latched enable is dropped, and the engines give up the
seat's requests. A segment whose first round is h + 1 runs to its end, and one bound for a later round is withdrawn (DESIGN
CHOICE, log entry 138). -/
def haltFirst (s : State) (i : Nat) : State :=
  let x := getSeat s i
  let s1 := setSeat s i { x with pend := false, fetches := x.fetches.map fun f => { f with stale := true } }
  let s2 := (seatBinds s1 i).foldl (fun t p => if !p.2.posted && decide (t.round < p.2.first) then unbind t p.1 p.2 else t) s1
  eachEngine s2 fun t k => haltEngine t i (haltDetail x) k

/-- A descriptor has a segment on a lane, or a request in an engine. -/
def atWork (s : State) (i seq : Nat) : Bool :=
  (seatBinds s i).any (fun p => !p.2.posted && p.2.seq == seq)
    || s.engines.any fun e => (ticketsOf e.2).any fun t => decide (t.seat = i) && t.seq == seq

/-- A descriptor of a halted seat that nothing else decides: its message closes, and its status is decided in round e. -/
def haltFlight (i : Nat) (d : BitVec 16) (e : Round) (t : State) (g : Flight) : State :=
  if g.decided.isSome || atWork t i g.seq then t
  else
    let f : Fail := match g.dmaErr with | some x => (.eccUncorrectable, x) | none => (.seatHalted, d)
    decide_ (closeBySeq t g.seq) i g.seq f.1 f.2 e g.begun.isSome

/-- The descriptors of a halted seat, once its running segments have reached their last final round e. -/
def haltRest (s : State) (i : Nat) : State :=
  let x := getSeat s i
  let bs := (seatBinds s i).map (·.2)
  let e := bs.foldl (fun m b => max m b.final) (x.haltAt + 1)
  if bs.any fun b => !b.posted && decide (s.round < b.final) then s
  else x.flights.foldl (haltFlight i (haltDetail x) e) s

/-- A seat in HALTED after the round of its halt. -/
def haltTurn (s : State) (i : Nat) : State :=
  let x := getSeat s i
  if seatState s x = .halted ∧ x.haltAt < s.round then
    haltRest (if x.haltAt + 1 = s.round then haltFirst s i else s) i
  else s

/-! ## Play RAM errors (R318) -/

/-- The sequencer met a word of play RAM beyond correction: every unit is driven with NONE to the segment's fixed end. -/
def playBad (s : State) (l : Nat) (b : Binding) : State :=
  let s1 := modBind s l b fun c =>
    { c with
      played := true, out := c.out.take (outReady c s.round), after := none, toHand := none
      outcome := some (.eccUncorrectable, 6) }
  let s2 := match flightBySeq s1 b.seat b.seq with
    | some g => dmaHalt s1 b.seat g 6
    | none => s1
  let s3 := queueScore s2 (laneScore s2 l 2 .eccUncorrectable 6)
  let s4 := modLane s3 l fun ln => { ln with playFault := true, faultAt := b.final }
  raiseAll s4 25

/-- The play of a segment's first round: the entry the binding carries, or the refusal entry (R136, R143). The sequencer walks
the table and refuses a play whose form is wrong or that outlasts the segment; the lane core then takes PLAY_FORM (R134). -/
def playStart (s : State) (l : Nat) (b : Binding) : State :=
  match (if b.refused.isSome then refusalEntry s else b.entry) with
  | some e =>
    if (playLength s l b.tricks e).all fun n => decide (b.final + 1 - s.round < n) then
      modLane s l fun ln =>
        { ln with
          seqr := { seqStop ln.seqr with form := true }
          core := { ln.core with playForm := some (BitVec.ofNat 8 e) } }
    else
      modLane s l fun ln => { ln with seqr :=
        { upc := e, run := true, form := false, loops := [], rep := none, from_ := s.round } }
  | none => modLane s l fun ln => { ln with seqr := seqStop ln.seqr }

/-- The trick halves after a round of a standard play: the trick it took and the one the fabric put behind it (R128), the
output tricks it wrote (R129). -/
def playHalves (r : Round) (b : Binding) (dp : Datapath) : Datapath :=
  let j := r - b.first - b.prologue
  let put := slice b.out (outReady b r) (min 64 (outReady b (r + 1) - outReady b r))
  let dp1 := if decide (b.first + b.prologue ≤ r) && decide (j < b.tricks) then
      { dp with inA := padTo 64 (slice b.input (64 * (j + 1)) 64), inB := padTo 64 (slice b.input (64 * j) 64) }
    else dp
  if put.isEmpty then dp1 else { dp1 with outA := dp1.outB, outB := padTo 64 put }

/-- A round of a standard play: the sequencer reads the word it runs, and the trick halves move. What the words do on the
rest of the datapath is the effect of the opcode's row (DESIGN CHOICE, log entry 144). -/
def standardRound (s : State) (l : Nat) (b : Binding) : State :=
  let s1 := modLane s l fun ln => { ln with dp := cwaTurn ln.dp, seqr := seqTurn s l ln.seqr }
  let s2 := if b.first = s.round then playStart s1 l b else s1
  let ln := getLane s2 l
  if ln.playFault then s2
  else if ln.seqr.run then
    let q := seqEnter s2 l b.tricks 256 ln.seqr
    let key := wkeys (microAddr l q.upc) 8
    if anyBad s2 key && b.refused.isNone then
      playBad (modLane (touchWords s2 key) l fun x => { x with seqr := seqStop x.seqr }) l b
    else modLane (touchWords s2 key) l fun x => { x with seqr := q, dp := playHalves s.round b x.dp }
  else modLane s2 l fun x => { x with dp := playHalves s.round b x.dp }

/-- The play of a lane in this round: an applet's own plays, or the standard play of its opcode. -/
def playRound (s : State) (l : Nat) : State :=
  match curBind (getLane s l) s.round with
  | some b =>
    if b.applet && b.refused.isNone then
      let r := microRound s l
      if r.2 then playBad r.1 l b else r.1
    else standardRound s l b
  | none => (microRound s l).1

/-! ## Segments at a boundary (R45) -/

/-- First rounds and key loads of a lane's segments. -/
def bindTurn (s : State) (l : Nat) : State :=
  (getLane s l).binds.foldl (fun t b =>
    if b.first = t.round then beginSeg t l b
    else if b.bound + 1 = t.round then loadSeg t l b
    else t) s

/-- A lane at the start of a round, before its segments begin. -/
def laneStart (s : State) (l : Nat) : State := laneTurn (clearLane (keyinTurn (maskTurn s l) l) l) l

/-- RESULT and the request window as they stand at the start of the round (R142, R203). -/
def holdResult (s : State) (l : Nat) : State := modLane s l fun ln => { ln with resultAt := ln.result, pkrAt := ln.pkr }

/-- An engine at the start of a round. -/
def engineTurn (s : State) (k : Nat) : State :=
  idleEngine (clearTurn (unloadTurn (loadStart (consumeStart (refuseStart s k) k) k) k) k) k

/-! ## Upsets and the scrubber (R299, R313-R318) -/

/-- One upset of a stored word or of a suit tag entry. A tag entry's single error is corrected as it is read. -/
def upset (s : State) (u : Upset) : State :=
  if u.tag then
    let g := if u.mem = 0x120 then storeTag u.word else 49152 * u.mem + u.word
    if u.double && decide (8 * u.word < memWords u.mem) && (decide (u.mem < 0x10) || u.mem == 0x120) then
      { s with prot := { s.prot with badTags := sput false s.prot.badTags g true } }
    else s
  else if wordThere u.mem u.word then
    let k := wkey u.mem u.word
    { s with prot := { s.prot with
      bad := sput none s.prot.bad k (some (u.double || sget none s.prot.bad k == some true)) } }
  else s

/-- Written bit of a word: the wipes write the key store, and each operation's end all of an operand memory (R177, R224,
R315). -/
def isWritten (s : State) (k : Nat) : Bool :=
  let mem := k / 0x200000
  sget false s.prot.written k || (mem == 0x120 && decide (k % 0x200000 < 8 * s.keys.wiped))
    || (decide (0x110 ≤ mem) && decide (mem < 0x120) && (getEngine s (mem - 0x110)).cleared)

/-- Words with an error that the scrubber visits in this round: those whose written bit is set. -/
def scrubHits (s : State) : List Nat :=
  (s.prot.bad.filter fun e =>
    let w := memWords (e.1 / 0x200000)
    decide (e.1 % 0x200000 = s.prot.scrubAt % w) && isWritten s e.1).map (·.1)

/-- One round of the scrubber. -/
def scrubTurn (s : State) : State :=
  if s.prot.scrubEn.at_ s.round then
    let s1 := touchWords s (scrubHits s)
    { s1 with prot := { s1.prot with scrubAt := (s1.prot.scrubAt + 1) % 15728640 } }
  else s

/-! ## Cores (R250, R275) -/

/-- A core after the 16 cycles of a round. -/
def coreTurn (k : Core) : Core := { k with cyc := k.cyc - 16 }

/-- Every core after the 16 cycles of a round, and a difference forced between the house cores. -/
def coresTurn (s : State) (upset : Byte) : State :=
  let s1 := eachLane s fun t l => modLane t l fun ln => { ln with core := coreTurn ln.core }
  { s1 with house := { s1.house with
    core := coreTurn s1.house.core
    twin := { coreTurn s1.house.twin with a := s1.house.twin.a ^^^ upset } } }

/-! ## The always-on domain and the session timer (R344, R370) -/

/-- 40 ns of what does not need CLK_CORE. -/
def quietTurn (s0 : State) : State :=
  let s := restartTurn s0
  { s with
    aon := if aonUp s then rtcStep s.aon else s.aon
    quorum := { s.quorum with timer := if s.quorum.st = .idle then s.quorum.timer else s.quorum.timer + 1 }
    power := { s.power with
      bootRounds := if 1 ≤ s.power.phase ∧ s.power.phase ≤ 7 then s.power.bootRounds + 1 else s.power.bootRounds } }

/-! ## The end of a round -/

/-- What closes round n: the records of its score causes, its deck clocks, the random bits of its samples, and the responses
of the sources that have qualified in it (R245, R328). -/
def endRound (s : State) (env : RoundEnv) : State :=
  let s1 := snapScores s
  let s2 := rngRoundEnd { s1 with power := { s1.power with deckClk := deckClocks s1 } } env.noise
  let s3 := tripTurn s2
  if s1.rng.st = .run ∧ s2.rng.st = .failed then rngAftermath s3 else s3

/-- A RESET response: main reset at the end of its round, and the boot sequence while PERST# is high. The rails stay
good (DESIGN CHOICE, log entry 50). -/
def resetTurn (s : State) : State :=
  if perstHigh s.power then bootFrom s true
  else { mainReset s with power := { (mainReset s).power with st := .run } }

/-- CLK_CORE stops at this boundary: round n + 2 of an accepted STANDBY request (R377). -/
def standbyDue (s : State) : Bool :=
  match s.power.stbyAt with
  | some m => decide (m + 2 ≤ s.round)
  | none => false

/-! ## The start of a round -/

/-- What depends on the last round alone: output drained, slots released, records of one round cleared. -/
def openRound (s : State) : State :=
  let s1 := eachLane (dropSheets s) drainLane
  let s2 := thawStep s1
  let s3 := { s2 with
    link := { s2.link with used := [] }
    prot := { s2.prot with regPrev := [], bucketWas := s2.prot.bucket }
    keys := { s2.keys with zeroing := [] } }
  let s4 := eachSeat s3 fun t i => modSeat t i fun x => { x with cqSeen := x.cqHead }
  shoeDeliver (eachLane s4 holdResult)

/-- Seats at the start of a round: the halts of earlier rounds, the state changes asked for in the last one, and then the
slots that decided descriptors release (R90, R112, R123). -/
def seatsRound (s : State) : State :=
  eachSeat (kittyRound (eachSeat (eachSeat s haltTurn) ctrlTurn)) seatIrqRound

/-- Lanes and engines at the start of a round. -/
def lanesRound (s : State) (differ : Bool) : State :=
  let s1 := refreshTurn (eachLane s laneStart)
  let s2 := eachEngine (eachLane s1 bindTurn) engineTurn
  let s3 := if differ then alarms s2 [27] else s2
  eachLane (dummies (eachLane s3 playRound)) segFinal

/-- The key store, the memories and the cores at the start of a round. -/
def storeRound (s : State) (env : RoundEnv) : State :=
  let s1 := match s.keys.zeroAt with
    | some r => if r ≤ s.round then eraseStore s false else s
    | none => s
  let s2 := wipeTurn s1 env.wipeBad
  let s3 := retagTurn (scrubTurn (env.upsets.foldl upset s2))
  coresTurn s3 env.houseUpset

/-- The sheet of this round, once the boot draws are made (R240, R379). -/
def sheetRound (s : State) : State :=
  let s1 := bootTurn s
  if s1.power.drawn.isSome then compose s1 else s1

/-- Round r begins. -/
def beginRound (s : State) (env : RoundEnv) : State :=
  let s1 := turnPointers { s with round := s.round + 1 }
  sheetRound (storeRound (lanesRound (slotTurn (seatsRound (openRound s1))) env.sheetsDiffer) env)

/-- One round boundary (R38, R39); with CLK_CORE stopped, 40 ns in which ROUND_COUNT holds. -/
def roundTick (s : State) (env : RoundEnv) : State :=
  if running s then
    let s1 := quietTurn (endRound s env)
    if s1.power.resetReq then resetTurn s1
    else if standbyDue s1 then standbyEnter s1
    else beginRound s1 env
  else
    let s1 := quietTurn (tripTurn s)
    if s1.power.resetReq then resetTurn s1 else s1

/-- ROUND_TICK (R38, R39). -/
def execRoundTick (env : RoundEnv) (s : State) : Out := .next (roundTick s env)

/-! ## Applets (R155, R156) -/

/-- APPLET (R155, R156): an applet's segment begins, or, once it has reached its final round, ends. What its code does
between is the work of the lane's core and sequencer. -/
def execApplet (lane : Fin 128) (s : State) : Out :=
  let l := lane.val
  match (getLane s l).binds.find? fun b =>
      !b.posted && b.applet && b.loaded && b.refused.isNone && decide (b.first ≤ s.round) with
  | some b =>
    if b.final ≤ s.round then .next (finalSeg s l b)
    else .next (modBind s l b fun c => { c with played := true })
  | none => .next s

end Sys2Proof.Machine
end

