-- ==== Sys2Proof/Machine/Dispatch.lean ====
section
/-!
DEFINITION. The dispatch: one arm for each command.
-/
namespace Sys2Proof.Machine

/-- The effect of a command on everything but the queue of waiting commands. -/
def exec (i : Instr) (s : State) : Host.Outcome State Fault Refusal :=
  match i with
  | .roundTick env => Sys2Proof.Machine.execRoundTick env s
  | .segmentFinalRound lane => Sys2Proof.Machine.execSegmentFinalRound lane s
  | .handWaitExpiry seat sq => Sys2Proof.Machine.execHandWaitExpiry seat sq s
  | .rngWaitExpiry who => Sys2Proof.Machine.execRngWaitExpiry who s
  | .completionWrite seat => Sys2Proof.Machine.execCompletionWrite seat s
  | .coalTimerExpiry seat => Sys2Proof.Machine.execCoalTimerExpiry seat s
  | .linkWriteDepart port link => Sys2Proof.Machine.execLinkWriteDepart port link s
  | .doorbell f off data => Sys2Proof.Machine.execDoorbell f off data s
  | .descriptorFetch seat => Sys2Proof.Machine.execDescriptorFetch seat s
  | .fetchReturn seat d => Sys2Proof.Machine.execFetchReturn seat d s
  | .fragmentListFetch seat sq => Sys2Proof.Machine.execFragmentListFetch seat sq s
  | .fragmentListReturn seat sq dst d => Sys2Proof.Machine.execFragmentListReturn seat sq dst d s
  | .kittyLock seat sq => Sys2Proof.Machine.execKittyLock seat sq s
  | .stagingReservation seat sq => Sys2Proof.Machine.execStagingReservation seat sq s
  | .payloadReadReturn seat sq expected d => Sys2Proof.Machine.execPayloadReadReturn seat sq expected d s
  | .drainEnd seat => Sys2Proof.Machine.execDrainEnd seat s
  | .arm f seat => Sys2Proof.Machine.execArm f seat s
  | .disarm f seat => Sys2Proof.Machine.execDisarm f seat s
  | .enable f seat => Sys2Proof.Machine.execEnable f seat s
  | .drain f seat => Sys2Proof.Machine.execDrain f seat s
  | .clearHalt f seat => Sys2Proof.Machine.execClearHalt f seat s
  | .forceHalt f seat => Sys2Proof.Machine.execForceHalt f seat s
  | .seatBind f seat v => Sys2Proof.Machine.execSeatBind f seat v s
  | .irqCfg f seat v => Sys2Proof.Machine.execIrqCfg f seat v s
  | .dealLaneEn f w v => Sys2Proof.Machine.execDealLaneEn f w v s
  | .irqStatus f v sameCycle => Sys2Proof.Machine.execIrqStatus f v sameCycle s
  | .registerWrite f off size v => Sys2Proof.Machine.execRegisterWrite f off size v s
  | .lowerWordRead f off size => Sys2Proof.Machine.execLowerWordRead f off size s
  | .upperWordRead f off size => Sys2Proof.Machine.execUpperWordRead f off size s
  | .dbDiscardCnt f whole => Sys2Proof.Machine.execDbDiscardCnt f whole s
  | .dealHandBusyCnt f whole => Sys2Proof.Machine.execDealHandBusyCnt f whole s
  | .kittyRefuseCnt f whole => Sys2Proof.Machine.execKittyRefuseCnt f whole s
  | .kittyDenyCnt f whole => Sys2Proof.Machine.execKittyDenyCnt f whole s
  | .laneMigWaitCnt f whole => Sys2Proof.Machine.execLaneMigWaitCnt f whole s
  | .pkeInvalidCnt f whole => Sys2Proof.Machine.execPkeInvalidCnt f whole s
  | .pkeDsaMax f whole => Sys2Proof.Machine.execPkeDsaMax f whole s
  | .keysDenyCnt f whole => Sys2Proof.Machine.execKeysDenyCnt f whole s
  | .rngUnavailCnt f whole => Sys2Proof.Machine.execRngUnavailCnt f whole s
  | .protSuitFaultCnt f whole => Sys2Proof.Machine.execProtSuitFaultCnt f whole s
  | .protSpanCnt f whole => Sys2Proof.Machine.execProtSpanCnt f whole s
  | .debugDenyCount f whole => Sys2Proof.Machine.execDebugDenyCount f whole s
  | .memUeCnt f whole => Sys2Proof.Machine.execMemUeCnt f whole s
  | .houseMsg f whole => Sys2Proof.Machine.execHouseMsg f whole s
  | .flagWrite f off data sameCycle => Sys2Proof.Machine.execFlagWrite f off data sameCycle s
  | .slotDataRead f off len => Sys2Proof.Machine.execSlotDataRead f off len s
  | .slotDataWrite f off data => Sys2Proof.Machine.execSlotDataWrite f off data s
  | .engineStart deck => Sys2Proof.Machine.execEngineStart deck s
  | .engineOperationEnd deck => Sys2Proof.Machine.execEngineOperationEnd deck s
  | .engineCollect deck => Sys2Proof.Machine.execEngineCollect deck s
  | .conditionedWord src => Sys2Proof.Machine.execConditionedWord src s
  | .sourceStartupEnd src => Sys2Proof.Machine.execSourceStartupEnd src s
  | .expanderInstantiate b => Sys2Proof.Machine.execExpanderInstantiate b s
  | .expanderReseed b => Sys2Proof.Machine.execExpanderReseed b s
  | .seedOperationEnd b => Sys2Proof.Machine.execSeedOperationEnd b s
  | .generateRequest b => Sys2Proof.Machine.execGenerateRequest b s
  | .reseedHalving => Sys2Proof.Machine.execReseedHalving s
  | .zeroise f => Sys2Proof.Machine.execZeroise f s
  | .wipeEnd => Sys2Proof.Machine.execWipeEnd s
  | .rearm f => Sys2Proof.Machine.execRearm f s
  | .rearmComplete => Sys2Proof.Machine.execRearmComplete s
  | .monitorSample src v => Sys2Proof.Machine.execMonitorSample src v s
  | .freezeClear f => Sys2Proof.Machine.execFreezeClear f s
  | .tampTest f v => Sys2Proof.Machine.execTampTest f v s
  | .tampTestEnd => Sys2Proof.Machine.execTampTestEnd s
  | .tampRtcSet f v => Sys2Proof.Machine.execTampRtcSet f v s
  | .tampTripped f v sameCycle => Sys2Proof.Machine.execTampTripped f v sameCycle s
  | .aonLoss => Sys2Proof.Machine.execAonLoss s
  | .vbatApplied => Sys2Proof.Machine.execVbatApplied s
  | .mainPowerLoss => Sys2Proof.Machine.execMainPowerLoss s
  | .perstAssert port => Sys2Proof.Machine.execPerstAssert port s
  | .perstRelease port railsGood => Sys2Proof.Machine.execPerstRelease port railsGood s
  | .flashReady => Sys2Proof.Machine.execFlashReady s
  | .bootPhaseLimit => Sys2Proof.Machine.execBootPhaseLimit s
  | .standbyRequest f => Sys2Proof.Machine.execStandbyRequest f s
  | .runRequest f => Sys2Proof.Machine.execRunRequest f s
  | .aonOnlyRequest f => Sys2Proof.Machine.execAonOnlyRequest f s
  | .configurationRequest f => Sys2Proof.Machine.execConfigurationRequest f s
  | .linkEvent port link => Sys2Proof.Machine.execLinkEvent port link s
  | .eccWriteBack mem word => Sys2Proof.Machine.execEccWriteBack mem word s
  | .leakDecrement => Sys2Proof.Machine.execLeakDecrement s
  | .protRetag v => Sys2Proof.Machine.execProtRetag v s
  | .debugAccess addr len write => Sys2Proof.Machine.execDebugAccess addr len write s
  | .scoreSheet => Sys2Proof.Machine.execScoreSheet s
  | .laneRestart lane => Sys2Proof.Machine.execLaneRestart lane s
  | .ready lane => Sys2Proof.Machine.execReady lane s
  | .retag lane page suit => Sys2Proof.Machine.execRetag lane page suit s
  | .regionSet lane r w0 w1 => Sys2Proof.Machine.execRegionSet lane r w0 w1 s
  | .ptReload lane => Sys2Proof.Machine.execPtReload lane s
  | .note lane w => Sys2Proof.Machine.execNote lane w s
  | .interruptEntry c => Sys2Proof.Machine.execInterruptEntry c s
  | .storeDrain c => Sys2Proof.Machine.execStoreDrain c s
  | .lateStoreInfo c => Sys2Proof.Machine.execLateStoreInfo c s
  | .irqPend c v sameCycle => Sys2Proof.Machine.execIrqPend c v sameCycle s
  | .ld c => Sys2Proof.Machine.execLd c s
  | .st c => Sys2Proof.Machine.execSt c s
  | .lea c => Sys2Proof.Machine.execLea c s
  | .mov c => Sys2Proof.Machine.execMov c s
  | .push c => Sys2Proof.Machine.execPush c s
  | .pop c => Sys2Proof.Machine.execPop c s
  | .g8Nop c => Sys2Proof.Machine.execG8Nop c s
  | .add c => Sys2Proof.Machine.execAdd c s
  | .adc c => Sys2Proof.Machine.execAdc c s
  | .sub c => Sys2Proof.Machine.execSub c s
  | .sbc c => Sys2Proof.Machine.execSbc c s
  | .cmp c => Sys2Proof.Machine.execCmp c s
  | .and c => Sys2Proof.Machine.execAnd c s
  | .or c => Sys2Proof.Machine.execOr c s
  | .xor c => Sys2Proof.Machine.execXor c s
  | .bit c => Sys2Proof.Machine.execBit c s
  | .shl c => Sys2Proof.Machine.execShl c s
  | .shr c => Sys2Proof.Machine.execShr c s
  | .sar c => Sys2Proof.Machine.execSar c s
  | .rol c => Sys2Proof.Machine.execRol c s
  | .ror c => Sys2Proof.Machine.execRor c s
  | .inc c => Sys2Proof.Machine.execInc c s
  | .dec c => Sys2Proof.Machine.execDec c s
  | .cpr c => Sys2Proof.Machine.execCpr c s
  | .mul c => Sys2Proof.Machine.execMul c s
  | .adw c => Sys2Proof.Machine.execAdw c s
  | .sbw c => Sys2Proof.Machine.execSbw c s
  | .cselt c => Sys2Proof.Machine.execCselt c s
  | .cself c => Sys2Proof.Machine.execCself c s
  | .maskt c => Sys2Proof.Machine.execMaskt c s
  | .maskf c => Sys2Proof.Machine.execMaskf c s
  | .bt c => Sys2Proof.Machine.execBt c s
  | .bf c => Sys2Proof.Machine.execBf c s
  | .jmp c => Sys2Proof.Machine.execJmp c s
  | .call c => Sys2Proof.Machine.execCall c s
  | .ret c => Sys2Proof.Machine.execRet c s
  | .loop c => Sys2Proof.Machine.execLoop c s
  | .wait c => Sys2Proof.Machine.execWait c s
  | .fence c => Sys2Proof.Machine.execFence c s
  | .play c => Sys2Proof.Machine.execPlay c s
  | .gate c => Sys2Proof.Machine.execGate c s
  | .mcall c => Sys2Proof.Machine.execMcall c s
  | .retx c => Sys2Proof.Machine.execRetx c s
  | .reservedOpc c => Sys2Proof.Machine.execReservedOpc c s
  | .nop seat sq => Sys2Proof.Machine.execNop seat sq s
  | .ecb lane => Sys2Proof.Machine.execEcb lane s
  | .cbc lane => Sys2Proof.Machine.execCbc lane s
  | .ctr lane => Sys2Proof.Machine.execCtr lane s
  | .xts lane => Sys2Proof.Machine.execXts lane s
  | .cmac lane => Sys2Proof.Machine.execCmac lane s
  | .gmac lane => Sys2Proof.Machine.execGmac lane s
  | .gcm lane => Sys2Proof.Machine.execGcm lane s
  | .ccm lane => Sys2Proof.Machine.execCcm lane s
  | .kwp lane => Sys2Proof.Machine.execKwp lane s
  | .hash lane => Sys2Proof.Machine.execHash lane s
  | .hmac lane => Sys2Proof.Machine.execHmac lane s
  | .kmac lane => Sys2Proof.Machine.execKmac lane s
  | .rsaPublic deck => Sys2Proof.Machine.execRsaPublic deck s
  | .rsaPrivate deck => Sys2Proof.Machine.execRsaPrivate deck s
  | .rsaOaepEncrypt deck => Sys2Proof.Machine.execRsaOaepEncrypt deck s
  | .rsaOaepDecrypt deck => Sys2Proof.Machine.execRsaOaepDecrypt deck s
  | .rsaPssSign deck => Sys2Proof.Machine.execRsaPssSign deck s
  | .rsaPssVerify deck => Sys2Proof.Machine.execRsaPssVerify deck s
  | .rsaV15Sign deck => Sys2Proof.Machine.execRsaV15Sign deck s
  | .rsaV15Verify deck => Sys2Proof.Machine.execRsaV15Verify deck s
  | .dhKeygen deck => Sys2Proof.Machine.execDhKeygen deck s
  | .dhDerive deck => Sys2Proof.Machine.execDhDerive deck s
  | .ecKeygen deck => Sys2Proof.Machine.execEcKeygen deck s
  | .ecdsaSign deck => Sys2Proof.Machine.execEcdsaSign deck s
  | .ecdsaVerify deck => Sys2Proof.Machine.execEcdsaVerify deck s
  | .ecdh deck => Sys2Proof.Machine.execEcdh deck s
  | .eddsaSign deck => Sys2Proof.Machine.execEddsaSign deck s
  | .eddsaVerify deck => Sys2Proof.Machine.execEddsaVerify deck s
  | .mlkemKeygen deck => Sys2Proof.Machine.execMlkemKeygen deck s
  | .mlkemEncaps deck => Sys2Proof.Machine.execMlkemEncaps deck s
  | .mlkemDecaps deck => Sys2Proof.Machine.execMlkemDecaps deck s
  | .mldsaKeygen deck => Sys2Proof.Machine.execMldsaKeygen deck s
  | .mldsaSign deck => Sys2Proof.Machine.execMldsaSign deck s
  | .mldsaVerify deck => Sys2Proof.Machine.execMldsaVerify deck s
  | .handAlloc seat sq => Sys2Proof.Machine.execHandAlloc seat sq s
  | .handFree seat sq => Sys2Proof.Machine.execHandFree seat sq s
  | .slotClear seat sq => Sys2Proof.Machine.execSlotClear seat sq s
  | .keyGen seat sq => Sys2Proof.Machine.execKeyGen seat sq s
  | .keyWrap lane => Sys2Proof.Machine.execKeyWrap lane s
  | .keyUnwrap lane => Sys2Proof.Machine.execKeyUnwrap lane s
  | .slotInfo seat sq => Sys2Proof.Machine.execSlotInfo seat sq s
  | .usageTighten seat sq => Sys2Proof.Machine.execUsageTighten seat sq s
  | .slotSave lane => Sys2Proof.Machine.execSlotSave lane s
  | .slotRestore lane => Sys2Proof.Machine.execSlotRestore lane s
  | .pubkeyRead seat sq => Sys2Proof.Machine.execPubkeyRead seat sq s
  | .slotRetype seat sq => Sys2Proof.Machine.execSlotRetype seat sq s
  | .random seat sq => Sys2Proof.Machine.execRandom seat sq s
  | .storeInit seat sq => Sys2Proof.Machine.execStoreInit seat sq s
  | .suitAssign seat sq => Sys2Proof.Machine.execSuitAssign seat sq s
  | .componentLoad seat sq => Sys2Proof.Machine.execComponentLoad seat sq s
  | .policyWiden seat sq => Sys2Proof.Machine.execPolicyWiden seat sq s
  | .ownerSet seat sq => Sys2Proof.Machine.execOwnerSet seat sq s
  | .tcrCommit seat sq bankBad => Sys2Proof.Machine.execTcrCommit seat sq bankBad s
  | .latchClear seat sq => Sys2Proof.Machine.execLatchClear seat sq s
  | .lifecycleSet seat sq fuseBad => Sys2Proof.Machine.execLifecycleSet seat sq fuseBad s
  | .applet lane => Sys2Proof.Machine.execApplet lane s
  | .slotInsertion n => Sys2Proof.Machine.execSlotInsertion n s
  | .slotRemoval n => Sys2Proof.Machine.execSlotRemoval n s
  | .slotOvercurrent n => Sys2Proof.Machine.execSlotOvercurrent n s
  | .activate f n => Sys2Proof.Machine.execActivate f n s
  | .eraseToken f n => Sys2Proof.Machine.execEraseToken f n s
  | .deactivate f n => Sys2Proof.Machine.execDeactivate f n s
  | .slotPwCtrl f n v => Sys2Proof.Machine.execSlotPwCtrl f n v s
  | .opcond n => Sys2Proof.Machine.execOpcond n s
  | .slotSleepTimer n => Sys2Proof.Machine.execSlotSleepTimer n s
  | .ryenoResponse n frame repeated => Sys2Proof.Machine.execRyenoResponse n frame repeated s
  | .responseTimeout n => Sys2Proof.Machine.execResponseTimeout n s
  | .busyLimit n => Sys2Proof.Machine.execBusyLimit n s
  | .atr n b => Sys2Proof.Machine.execAtr n b s
  | .atrTimeout n => Sys2Proof.Machine.execAtrTimeout n s
  | .ppsResponse n b => Sys2Proof.Machine.execPpsResponse n b s
  | .cardResponse n data sw => Sys2Proof.Machine.execCardResponse n data sw s
  | .waitingTimeExpiry n => Sys2Proof.Machine.execWaitingTimeExpiry n s
  | .quorumOpen f m => Sys2Proof.Machine.execQuorumOpen f m s
  | .quorumClose f => Sys2Proof.Machine.execQuorumClose f s
  | .quorumLimit => Sys2Proof.Machine.execQuorumLimit s
  | .challengeDraw n => Sys2Proof.Machine.execChallengeDraw n s
  | .getStatus => Sys2Proof.Machine.execGetStatus s
  | .readReg off => Sys2Proof.Machine.execReadReg off s
  | .readLog k => Sys2Proof.Machine.execReadLog k s
  | .readScore k => Sys2Proof.Machine.execReadScore k s
  | .setPower v => Sys2Proof.Machine.execSetPower v s
  | .flashErase sector => Sys2Proof.Machine.execFlashErase sector s
  | .flashWrite addr data => Sys2Proof.Machine.execFlashWrite addr data s
  | .setEndpointId eid => Sys2Proof.Machine.execSetEndpointId eid s
  | .getEndpointId => Sys2Proof.Machine.execGetEndpointId s
  | .getMctpVersionSupport msgType => Sys2Proof.Machine.execGetMctpVersionSupport msgType s
  | .getMessageTypeSupport => Sys2Proof.Machine.execGetMessageTypeSupport s
  | .getVendorDefinedMessageSupport => Sys2Proof.Machine.execGetVendorDefinedMessageSupport s
  | .bypass => Sys2Proof.Machine.execBypass s
  | .idcode => Sys2Proof.Machine.execIdcode s
  | .samplePreload pins => Sys2Proof.Machine.execSamplePreload pins s
  | .extest => Sys2Proof.Machine.execExtest s
  | .debug => Sys2Proof.Machine.execDebug s
  | .mainPowerGood => Sys2Proof.Machine.execMainPowerGood s
  | .characterRepetition n => Sys2Proof.Machine.execCharacterRepetition n s
  | .nullByte n => Sys2Proof.Machine.execNullByte n s
  | .vectorUnmask f vector => Sys2Proof.Machine.execVectorUnmask f vector s

end Sys2Proof.Machine
end

