-- ==== Sys2Proof/Machine/Pins.lean ====
section
/-!
DEFINITION. The states of the pins (R347, R348, R351, R402, R403) as views of the state: no pin holds state of its own.
-/
namespace Sys2Proof.Machine

/-- What drives a pin. -/
inductive PinState where
  | unpowered | low | high | highZ | openDrain
  /-- driven by the interface it belongs to -/
  | driven
  deriving DecidableEq, Repr

/-- The column of the table of R402. -/
inductive PinPhase where
  | boot | run | aonOnly
  deriving DecidableEq, Repr

/-- The column the device is in: without main power, and in AON_ONLY, the last one; from main reset to the end of the
boot the first one. -/
def pinPhase (s : State) : PinPhase :=
  if !s.power.main || decide (s.power.st = .aonOnly) || decide (s.power.st = .off) then .aonOnly
  else if s.power.phase < 8 then .boot
  else .run

/-- The link and the flash interface are reset until phase 3 of the boot (R379, R402). -/
def beforeFlash (s : State) : Bool := decide (s.power.phase < 3)

/-- PEn_TX (R402). -/
def peTxPin (s : State) : PinState :=
  match pinPhase s with
  | .boot => .highZ
  | .run => .driven
  | .aonOnly => .unpowered

/-- XSPI_CS#: high by its pull-up until the boot drives it. -/
def xspiCsPin (s : State) : PinState :=
  match pinPhase s with
  | .boot => .high
  | .run => .driven
  | .aonOnly => .unpowered

/-- XSPI_CLK, XSPI_DQ, XSPI_DQS. -/
def xspiDataPin (s : State) : PinState :=
  match pinPhase s with
  | .boot => if beforeFlash s then .low else .driven
  | .run => .driven
  | .aonOnly => .unpowered

/-- XSPI_RST#. -/
def xspiRstPin (s : State) : PinState :=
  match pinPhase s with
  | .boot => if beforeFlash s then .low else .high
  | .run => .high
  | .aonOnly => .unpowered

/-- SMB_SCL, SMB_SDA, SMB_ALERT#. -/
def smbPin (s : State) : PinState :=
  match pinPhase s with
  | .boot => .highZ
  | .run => .openDrain
  | .aonOnly => if keepSideband s && s.power.main then .openDrain else .highZ

/-- TDO: driven while the port shifts, which the commands of the TAP take as one event each. -/
def tdoPin (s : State) (shifting : Bool) : PinState :=
  match pinPhase s with
  | .boot => .highZ
  | .run => if shifting then .driven else .highZ
  | .aonOnly => .unpowered

/-- FATAL#: low while HOUSE_STATUS.FATAL is 1. -/
def fatalPin (s : State) : PinState :=
  match pinPhase s with
  | .run => if s.house.fatal then .low else .openDrain
  | .boot | .aonOnly => .highZ

/-- Supply of a slot in millivolts: 0 is off; token class C is 1.8 V, B 3.0 V, A 5.0 V (R347, R348, R374). -/
def slotSupply (s : State) (n : Nat) : Nat :=
  let x := getSlot s n
  if pinPhase s ≠ .run ∨ x.present = false ∨ x.st = .off ∨ x.st = .fault then 0
  else match x.cls.toNat with
    | 1 => 1800
    | 2 => 3000
    | 3 => 5000
    | _ => 0

/-- Signals of a slot (R347). -/
inductive SlotSignal where
  | rst | clk | io0
  /-- IO1-IO3 -/
  | io13
  deriving DecidableEq, Repr

/-- A slot is working with a T=0 card: a known one, or one being reset or asked for its parameters (R349, R365, R367). -/
def cardSide (x : Slot) : Bool :=
  x.kind == 2 || decide (x.step = .coldReset) || decide (x.step = .warmReset) || decide (x.step = .pps)

/-- The token has been given 4-line width or a higher clock (R347, R355). -/
def busSet (x : Slot) : Bool := x.width4 || decide (x.clk ≠ 0)

/-- SLOTn_RST, SLOTn_CLK, SLOTn_IO0-IO3: low while the slot has no supply (R348). With a token RST is held low; with a card
IO1-IO3 are, by their pull-downs; IO lines are open-drain until SETBUS gives a token more than one line at 400 kHz, and
push-pull after that (R347). -/
def slotPin (s : State) (n : Nat) (g : SlotSignal) : PinState :=
  let x := getSlot s n
  if slotSupply s n = 0 then .low
  else match g with
    | .clk => .driven
    | .rst => if cardSide x then .driven else .low
    | .io0 => if !cardSide x && busSet x then .driven else .openDrain
    | .io13 => if cardSide x then .low else if busSet x then .driven else .openDrain

/-- The levels of the data lines in the beats of one character of the Ryeno link, IO0 first (R351): a start, the data bits
least significant first, even parity, and two guard beats in which every line is released. -/
def charBeats (wide : Bool) (b : Byte) : List (List Bool) :=
  let d (i : Nat) : Bool := b.getLsbD i
  if wide then
    [List.replicate 4 false, (List.range 4).map d, (List.range 4).map fun j => d (j + 4)
    , (List.range 4).map fun j => d j != d (j + 4), List.replicate 4 true, List.replicate 4 true]
  else
    [[false]] ++ ((List.range 8).map fun i => [d i])
      ++ [[(List.range 8).foldl (fun p i => p != d i) false], [true], [true]]

/-- TAMP_OUTi: a dynamic loop drives its pattern, a static one 0; the always-on rail keeps it (R338, R402). -/
def tampOutPin (s : State) (i : Fin 4) : PinState :=
  if s.power.st = .off then .unpowered
  else if tcrMode s (18 + i.val) = 1 then .driven
  else .low

/-- TAMP_INi: an input with its pull-up from the always-on rail (R402). -/
def tampInPin (s : State) : PinState := if s.power.st = .off then .unpowered else .highZ

end Sys2Proof.Machine
end

