-- ==== Sys2Proof/WellFormed.lean ====
section
/-!
DEFINITION. Well-formed commands: the ranges of the operands that Syntax.lean holds as plain numbers or byte
strings. A command outside them names nothing the device has.
-/
namespace Sys2Proof

/-- A submission index is a 16-bit number (R101, R106). -/
def sqOk (sq : Nat) : Bool := decide (sq < 65536)

/-- An access to BAR0 lies inside its 32 MiB and touches 1 to 8 bytes (R6, R84). -/
def accessOk (off size : Nat) : Bool := decide (0 < size ∧ size ≤ 8 ∧ off + size ≤ 0x2000000)

/-- An access to BAR4 lies inside its 32 MiB and touches 1 to 4,096 bytes (R84). -/
def bar4Ok (off n : Nat) : Bool := decide (0 < n ∧ n ≤ 4096 ∧ off + n ≤ 0x2000000)

/-- A memory identifier runs from 0 to 0x121 (R313). -/
def memOk (mem : Nat) : Bool := decide (mem < 0x122)

/-- What a read returns is at most 4,096 bytes (R81). -/
def HostData.wf : HostData → Bool
  | .data b => decide (b.length ≤ 4096)
  | .poisoned | .refused | .timeout => true

/-- An upset names a word of a memory. -/
def Upset.wf (u : Upset) : Bool := memOk u.mem && decide (u.word < 0x200000)

/-- A round brings eight samples of each of the four noise sources (R231). -/
def RoundEnv.wf (e : RoundEnv) : Bool := decide (e.noise.length = 4) && e.upsets.all Upset.wf

/-- A waiter is a descriptor in flight or an engine (R243). -/
def RngWaiter.wf : RngWaiter → Bool
  | .flight _ sq => sqOk sq
  | .engine _ => true

/-- Whether a command's operands lie in their ranges. -/
def Instr.wf : Instr → Bool
  | .roundTick env => env.wf
  | .handWaitExpiry _ sq => sqOk sq
  | .rngWaitExpiry who => who.wf
  | .doorbell _ off data => decide (off + data.length ≤ 0x10000)
  | .fetchReturn _ d => d.wf
  | .fragmentListFetch _ sq => sqOk sq
  | .fragmentListReturn _ sq _ d => sqOk sq && d.wf
  | .kittyLock _ sq => sqOk sq
  | .stagingReservation _ sq => sqOk sq
  | .payloadReadReturn _ sq _ d => sqOk sq && d.wf
  | .registerWrite _ off size _ => accessOk off size
  | .lowerWordRead _ off size => accessOk off size
  | .upperWordRead _ off size => accessOk off size
  | .flagWrite _ off data _ => bar4Ok off data.length
  | .slotDataRead _ off len => bar4Ok off len
  | .slotDataWrite _ off data => bar4Ok off data.length
  | .eccWriteBack mem word => memOk mem && decide (word < 0x200000)
  | .debugAccess addr len _ => decide (addr + len ≤ 2 ^ 40)
  | .nop _ sq => sqOk sq
  | .handAlloc _ sq => sqOk sq
  | .handFree _ sq => sqOk sq
  | .slotClear _ sq => sqOk sq
  | .keyGen _ sq => sqOk sq
  | .slotInfo _ sq => sqOk sq
  | .usageTighten _ sq => sqOk sq
  | .pubkeyRead _ sq => sqOk sq
  | .slotRetype _ sq => sqOk sq
  | .random _ sq => sqOk sq
  | .storeInit _ sq => sqOk sq
  | .suitAssign _ sq => sqOk sq
  | .componentLoad _ sq => sqOk sq
  | .policyWiden _ sq => sqOk sq
  | .ownerSet _ sq => sqOk sq
  | .tcrCommit _ sq _ => sqOk sq
  | .latchClear _ sq => sqOk sq
  | .lifecycleSet _ sq _ => sqOk sq
  | .ryenoResponse _ frame _ => decide (frame.length ≤ 4096)
  | .atr _ b => decide (b.length ≤ 33)
  | .ppsResponse _ b => decide (b.length ≤ 6)
  | .cardResponse _ data _ => decide (data.length ≤ 256)
  | .readReg off => decide (off < 0x2000000)
  | .readLog k => decide (k < 64)
  | .readScore k => decide (k < 16)
  | .flashErase sector => decide (sector < 0x1000)
  | .flashWrite addr data => decide (addr + data.length ≤ 0x10000000)
  | .linkEvent _ up => up.mode.wf
  | .samplePreload pins => decide (pins.length ≤ 4096)
  | .segmentFinalRound _ | .completionWrite _ | .coalTimerExpiry _ | .linkWriteDepart _ _
  | .descriptorFetch _ | .drainEnd _ | .arm _ _ | .disarm _ _ | .enable _ _ | .drain _ _
  | .clearHalt _ _ | .forceHalt _ _ | .seatBind _ _ _ | .irqCfg _ _ _ | .dealLaneEn _ _ _
  | .irqStatus _ _ _ | .dbDiscardCnt _ _ | .dealHandBusyCnt _ _ | .kittyRefuseCnt _ _
  | .kittyDenyCnt _ _ | .laneMigWaitCnt _ _ | .pkeInvalidCnt _ _ | .pkeDsaMax _ _
  | .keysDenyCnt _ _ | .rngUnavailCnt _ _ | .protSuitFaultCnt _ _ | .protSpanCnt _ _
  | .debugDenyCount _ _ | .memUeCnt _ _ | .houseMsg _ _ | .engineStart _ | .engineOperationEnd _
  | .engineCollect _ | .conditionedWord _ | .sourceStartupEnd _ | .expanderInstantiate _
  | .expanderReseed _ | .seedOperationEnd _ | .generateRequest _ | .reseedHalving | .zeroise _
  | .wipeEnd | .rearm _ | .rearmComplete | .monitorSample _ _ | .freezeClear _ | .tampTest _ _
  | .tampTestEnd | .tampRtcSet _ _ | .tampTripped _ _ _ | .aonLoss | .vbatApplied | .mainPowerLoss
  | .perstAssert _ | .perstRelease _ _ | .flashReady | .bootPhaseLimit | .standbyRequest _
  | .runRequest _ | .aonOnlyRequest _ | .configurationRequest _ | .leakDecrement
  | .protRetag _ | .scoreSheet | .laneRestart _ | .ready _ | .retag _ _ _ | .regionSet _ _ _ _
  | .ptReload _ | .note _ _ | .interruptEntry _ | .storeDrain _ | .lateStoreInfo _ | .irqPend _ _ _
  | .ld _ | .st _ | .lea _ | .mov _ | .push _ | .pop _ | .g8Nop _ | .add _ | .adc _ | .sub _
  | .sbc _ | .cmp _ | .and _ | .or _ | .xor _ | .bit _ | .shl _ | .shr _ | .sar _ | .rol _ | .ror _
  | .inc _ | .dec _ | .cpr _ | .mul _ | .adw _ | .sbw _ | .cselt _ | .cself _ | .maskt _ | .maskf _
  | .bt _ | .bf _ | .jmp _ | .call _ | .ret _ | .loop _ | .wait _ | .fence _ | .play _ | .gate _
  | .mcall _ | .retx _ | .reservedOpc _ | .ecb _ | .cbc _ | .ctr _ | .xts _ | .cmac _ | .gmac _
  | .gcm _ | .ccm _ | .kwp _ | .hash _ | .hmac _ | .kmac _ | .rsaPublic _ | .rsaPrivate _
  | .rsaOaepEncrypt _ | .rsaOaepDecrypt _ | .rsaPssSign _ | .rsaPssVerify _ | .rsaV15Sign _
  | .rsaV15Verify _ | .dhKeygen _ | .dhDerive _ | .ecKeygen _ | .ecdsaSign _ | .ecdsaVerify _
  | .ecdh _ | .eddsaSign _ | .eddsaVerify _ | .mlkemKeygen _ | .mlkemEncaps _ | .mlkemDecaps _
  | .mldsaKeygen _ | .mldsaSign _ | .mldsaVerify _ | .keyWrap _ | .keyUnwrap _ | .slotSave _
  | .slotRestore _ | .applet _ | .slotInsertion _ | .slotRemoval _ | .slotOvercurrent _
  | .activate _ _ | .eraseToken _ _ | .deactivate _ _ | .slotPwCtrl _ _ _ | .opcond _
  | .slotSleepTimer _ | .responseTimeout _ | .busyLimit _ | .atrTimeout _ | .waitingTimeExpiry _
  | .quorumOpen _ _ | .quorumClose _ | .quorumLimit | .challengeDraw _ | .getStatus | .setPower _
  | .setEndpointId _ | .getEndpointId | .getMctpVersionSupport _ | .getMessageTypeSupport
  | .getVendorDefinedMessageSupport | .bypass | .idcode | .extest | .debug | .mainPowerGood
  | .characterRepetition _ | .nullByte _ | .vectorUnmask _ _ => true

end Sys2Proof
end

