-- ==== Sys2Proof/Safety.lean ====
section
/-!
DEFINITION. Safe runs: every waiting command is well formed and the step answers a next state; and the canonical
form of a state, which every step keeps.
-/
namespace Sys2Proof.Safety

open Sys2Proof.Machine

/-- An outcome that is a next state. -/
def isNext : Host.Outcome State Fault Refusal → Prop
  | .next _ => True
  | .fault _ => False
  | .refused _ => False

/-- Every waiting command is well formed. -/
def queueWf (s : State) : Prop := ∀ c ∈ s.pending, c.wf = true

/-- A state whose step goes on. -/
def safe (s : State) : Prop := isNext (step s)

end Sys2Proof.Safety

namespace Sys2Proof.Machine

/-- The tables of the state are in canonical form. -/
structure Tables (s : State) : Prop where
  irq : swf IrqBlock.reset s.irq = true
  seats : swf Seat.reset s.seats = true
  lanes : swf Lane.reset s.lanes = true
  records : swf (none : Option MigRec) s.records = true
  engines : swf Engine.reset s.engines = true
  slots : swf Slot.reset s.slots = true

/-- The canonical form of a state: memory and every table list their entries by rising key, and no entry that equals
what an unlisted key reads as; the SVN count is a 6-bit one. -/
structure Canonical (s : State) : Prop where
  mem : Memory.wf s.mem
  tables : Tables s
  svn : s.fuses.svn ≤ 63

end Sys2Proof.Machine

namespace Sys2Proof.Machine

/-- Core c is due to complete the instruction word i: it runs, no interrupt or late error comes first, the house cores
agree, and the word fetched at its PC is i, legal there. s1: the state after the fetch, in which a correctable error
met by it is counted. -/
structure Due (s s1 : State) (c : CoreId) (i : G8Word) : Prop where
  quiet : pendingCause (getCore s c) = none
  runs : coreRuns s c = true
  alike : c = .house → s.house.core = s.house.twin
  word : ∃ w, fetch s c = (s1, .ok w) ∧ g8Decode w = i
  legal : legal (isHouse c) (getCore s1 c) i = true

/-- The core with which an instruction computes: the load whose slot it is stands apart. -/
def slotFree (k : Core) : Core := { k with load := none }

/-- The second house core holds what the first holds (R275). -/
def mirrored (c : CoreId) (t : State) : State :=
  match c with
  | .lane _ => t
  | .house => { t with house := { t.house with twin := t.house.core } }

/-- The state after an instruction that completes. k: the core before it; t: the state after its accesses; upd: what it
does to the registers; cycles: what it takes; jump: where it transfers. Then the PC moves on (R269), and the load whose
slot it is takes effect (R263). -/
def retired (c : CoreId) (k : Core) (t : State) (upd : Core → Core) (cycles : Nat) (jump : Option (BitVec 16)) : State :=
  let k1 := upd { getCore t c with load := none, oneFirst := false }
  let k2 := commitLoad k.load (nextPc k1 k.pc jump)
  mirrored c (setCore t c { k2 with cyc := k2.cyc + cycles })

/-- F with C, Z, N and V replaced (R252). -/
def flagsCZNV (f : BitVec 8) (c z n v : Bool) : BitVec 8 :=
  BitVec.ofNat 8 (16 * (f.toNat / 16) + 8 * b2n v + 4 * b2n n + 2 * b2n z + b2n c)

/-- F after a sum or difference n of unsigned values, v of signed ones, in w bits (R252): carry or borrow, zero, sign,
signed overflow. -/
def sumFlags (w : Nat) (f : BitVec 8) (n v : Int) : BitVec 8 :=
  flagsCZNV f (decide (n < 0 ∨ (2 : Int) ^ w ≤ n)) (decide (n % 2 ^ w = 0)) (decide ((2 : Int) ^ (w - 1) ≤ n % 2 ^ w))
    (decide (v < -(2 : Int) ^ (w - 1) ∨ (2 : Int) ^ (w - 1) ≤ v))

/-- F after a logical result (R252, R261): Z and N alone. -/
def logicFlags (f : BitVec 8) (r : BitVec 8) : BitVec 8 :=
  flagsCZNV f (bit f 0) (decide (r = 0)) (decide (128 ≤ r.toNat)) (bit f 3)

end Sys2Proof.Machine

namespace Sys2Proof.Machine

/-- A write of function f reaches BAR0: f reaches the device, and no STANDBY request holds writes off (R83, R377). -/
def Reaches (s : State) (f : Func) : Prop := hostOk s f = true ∧ standbyHold s = false

/-- Function f writes the context of seat i: the write reaches the device and the seat is bound to f (R88). -/
def Commands (s : State) (f : Func) (i : Nat) : Prop := Reaches s f ∧ boundTo s i f = true

/-- The conditions on which ARM takes a seat to ARMED (R90, R92): ring sizes of 2^4 to 2^16, and a tenant suit, or suit
HOUSE with a binding to a physical function; and the device is not in recovery (R396). -/
def ArmLegal (s : State) (x : Seat) : Prop :=
  (4 ≤ x.sqLog2.toNat ∧ x.sqLog2.toNat ≤ 16 ∧ 4 ≤ x.cqLog2.toNat ∧ x.cqLog2.toNat ≤ 16)
  ∧ ((x.suit = 0 ∧ x.bind.vf = 0) ∨ (1 ≤ x.suit.toNat ∧ x.suit.toNat ≤ 0xFFFD)) ∧ s.power.phase ≠ 9

/-- A SEAT_CTRL write of this round to seat i waits for the next round, in which it takes effect (R90). -/
def seatAsks (s : State) (i : Nat) (v : Word) (rows : List SeatState) : State :=
  setSeat s i { getSeat s i with ctrl := (getSeat s i).ctrl ++ [.write v rows] }

/-- Seat i takes a new state in this round (R90), and is otherwise x. -/
def seatMoves (s : State) (i : Nat) (x : Seat) (st : SeatState) : State :=
  setSeat s i { x with prevSt := seatState s (getSeat s i), st := st, stFrom := s.round }

/-- The oldest flight of a seat with a submission index, where it is the descriptor a command names. -/
def Names (s : State) (i sq : Nat) (g : Flight) (p : Flight → Bool) : Prop :=
  (getSeat s i).flights.find? (fun h => decide (h.sq = sq) && p h) = some g

end Sys2Proof.Machine

namespace Sys2Proof.Machine

/-- Seat i after the status d of descriptor seq of its flights is decided (R107, R98, R109): that flight carries the
status, its fragment lists and staging reservations are gone, and everything else of the seat stands. -/
def endedSeat (x : Seat) (seq : Nat) (d : Decided) : Seat :=
  { x with flights := x.flights.map fun g =>
      if g.seq = seq ∧ g.decided = none then
        { g with decided := some d, listPool := [], resvIn := [], resvOut := [], reserved := false, running := false }
      else g }

/-- From s to t, descriptor seq of seat i ends with d: its seat holds that, no other seat changes, a status but INTERNAL
leaves house firmware's queue, DONE leaves the key store, and no other part of the state changes. -/
structure Ends (s t : State) (i seq : Nat) (d : Decided) : Prop where
  seat : getSeat t i = endedSeat (getSeat s i) seq d
  seats : ∀ j, j ≠ i → getSeat t j = getSeat s j
  house : d.status ≠ .internal → t.house = s.house
  keys : d.status = .done → t.keys = s.keys
  hands : { t.keys with hands := s.keys.hands } = s.keys
  rest : { t with seats := s.seats, keys := s.keys, house := s.house } = s

/-- The real-time clock in 25,000,000ths of a tick of 1/32,768 s (R344). -/
def rtcTotal (a : Aon) : Nat := (a.rtcSec.toNat * 32768 + a.rtcFrac.toNat) * 25000000 + a.rtcAcc

end Sys2Proof.Machine

namespace Sys2Proof.Machine

/-- The registers that a read clears, by the command that reads them (R9, R29). -/
def clearedByRead (f : Func) (whole : Bool) : List (Instr × Nat) :=
  [(.dbDiscardCnt f whole, 0x70004), (.dealHandBusyCnt f whole, 0x2010C), (.kittyRefuseCnt f whole, 0x80008),
   (.kittyDenyCnt f whole, 0x8000C), (.laneMigWaitCnt f whole, 0x90008), (.pkeInvalidCnt f whole, 0xA0080),
   (.pkeDsaMax f whole, 0xA0084), (.keysDenyCnt f whole, 0xB0028), (.rngUnavailCnt f whole, 0xC0010),
   (.protSuitFaultCnt f whole, 0xD0000), (.protSpanCnt f whole, 0xD0004), (.debugDenyCount f whole, 0xD0008),
   (.memUeCnt f whole, 0xE0008), (.houseMsg f whole, 0x110004)]

/-- State t with the registers that a read clears, and the answer, as they are in s. -/
def countersOf (s t : State) : State :=
  { t with
    answer := s.answer
    cnt := { t.cnt with
      dbDiscard := s.cnt.dbDiscard, migWait := s.cnt.migWait, pkeInvalid := s.cnt.pkeInvalid, dsaMax := s.cnt.dsaMax }
    dealer := { t.dealer with busyCnt := s.dealer.busyCnt }
    kitty := { t.kitty with refused := s.kitty.refused, deniedC := s.kitty.deniedC }
    keys := { t.keys with deny := s.keys.deny }
    rng := { t.rng with unavail := s.rng.unavail }
    prot := { t.prot with
      suitCnt := s.prot.suitCnt, spanCnt := s.prot.spanCnt, debugCnt := s.prot.debugCnt, ueCnt := s.prot.ueCnt }
    house := { t.house with msg := s.house.msg } }

end Sys2Proof.Machine

namespace Sys2Proof.Machine

/-- The engine opcodes: the command, the opcode, and what its operation works out. -/
def engineOps (deck : Fin 16) : List (Instr × Nat × (Running → PkOut)) :=
  [(.rsaPublic deck, 0x30, opRsaPublic), (.rsaPrivate deck, 0x31, opRsaPrivate),
   (.rsaOaepEncrypt deck, 0x32, opOaepEncrypt), (.rsaOaepDecrypt deck, 0x33, opOaepDecrypt),
   (.rsaPssSign deck, 0x34, opPssSign), (.rsaPssVerify deck, 0x35, opPssVerify), (.rsaV15Sign deck, 0x36, opV15Sign),
   (.rsaV15Verify deck, 0x37, opV15Verify), (.dhKeygen deck, 0x38, opDhKeygen), (.dhDerive deck, 0x39, opDhDerive),
   (.ecKeygen deck, 0x3A, opEcKeygen), (.ecdsaSign deck, 0x3B, opEcdsaSign), (.ecdsaVerify deck, 0x3C, opEcdsaVerify),
   (.ecdh deck, 0x3D, opEcdh), (.eddsaSign deck, 0x3E, opEddsaSign), (.eddsaVerify deck, 0x3F, opEddsaVerify),
   (.mlkemKeygen deck, 0x40, opKemKeygen), (.mlkemEncaps deck, 0x41, opKemEncaps),
   (.mlkemDecaps deck, 0x42, opKemDecaps), (.mldsaKeygen deck, 0x43, opDsaKeygen), (.mldsaSign deck, 0x44, opDsaSign),
   (.mldsaVerify deck, 0x45, opDsaVerify)]

end Sys2Proof.Machine

namespace Sys2Proof.Machine

/-- The lane opcodes whose effect is worked out by a function of what the segment works on: command, opcode, function. -/
def laneRows (lane : Fin 128) : List (Instr × Nat × (SegCtx → SegOut)) :=
  [(.ecb lane, 0x01, segEcb), (.cbc lane, 0x02, segCbc), (.ctr lane, 0x03, segCtr), (.xts lane, 0x04, segXts),
   (.cmac lane, 0x08, segCmac), (.gmac lane, 0x09, segGmac), (.gcm lane, 0x0C, segGcm), (.ccm lane, 0x0D, segCcm),
   (.kwp lane, 0x10, segKwp), (.hash lane, 0x20, segHash), (.hmac lane, 0x21, segHmac), (.kmac lane, 0x22, segKmac),
   (.keyWrap lane, 0x54, segWrapKey), (.slotSave lane, 0x58, segWrapKey)]

/-- The lane opcodes that recover a key: command, opcode, whether the key is an archive. -/
def unwrapRows (lane : Fin 128) : List (Instr × Nat × Bool) :=
  [(.keyUnwrap lane, 0x55, false), (.slotRestore lane, 0x59, true)]

/-- From s to t only lane l changed: one segment of it by f, and its datapath to dp. -/
def LaneMoved (s t : State) (l : Nat) (b : Binding) (f : Binding → Binding) (dp : Datapath) : Prop :=
  getLane t l = { getLane s l with
    dp := dp, binds := (getLane s l).binds.map fun c => if c.seq = b.seq ∧ c.seg = b.seg then f c else c }
  ∧ (∀ k, k ≠ l → getLane t k = getLane s k) ∧ { t with lanes := s.lanes } = s

/-- From s to t these words of the memories were written: they hold no error and count as written, and of the error logic
nothing else changed (R313-R315). -/
def WordsWritten (s t : State) (ks : List Nat) : Prop :=
  (∀ k ∈ ks, sget none t.prot.bad k = none ∧ sget false t.prot.fix k = false ∧ sget false t.prot.written k = true)
  ∧ (∀ k, k ∉ ks → sget none t.prot.bad k = sget none s.prot.bad k ∧ sget false t.prot.fix k = sget false s.prot.fix k
    ∧ sget false t.prot.written k = sget false s.prot.written k)
  ∧ { t.prot with bad := s.prot.bad, fix := s.prot.fix, written := s.prot.written } = s.prot

/-- The words of these granules of the key store hold no error. -/
def SoundGranules (s : State) (gs : List Nat) : Prop := ∀ k ∈ gs.flatMap storeWords, sget none s.prot.bad k = none

/-- House firmware may take up the flight g for opcode op, and its output pieces follow suit. -/
def Turn (s : State) (i sq op : Nat) (g : Flight) : Prop :=
  houseTurn s i sq op = some g ∧ spanFails s (getSeat s i).suit [] (dstSpans g) g.resvOut = []

/-- A command that commits the state u and answers these bytes: they go to the destination, and the descriptor ends with
DONE, or with ECC_UNCORRECTABLE and a halt where a word they cover in part could not be read (R318). -/
def Answers (c : Instr) (s u : State) (i : Nat) (g : Flight) (out : Bytes) : Prop :=
  let r := putTricks u i g 0 out
  ∃ t, exec c s = .next t
    ∧ Ends (if r.2 then dmaHalt r.1 i g 6 else r.1) t i g.seq
      ⟨if r.2 then .eccUncorrectable else .done, if r.2 then 6 else 0, s.round, true⟩

/-- A command that commits the state u and writes nothing to a destination. -/
def Commits (c : Instr) (s u : State) (i : Nat) (g : Flight) : Prop :=
  ∃ t, exec c s = .next t ∧ Ends u t i g.seq ⟨.done, 0, s.round, true⟩

/-- What every ceremony needs holds (R222, R226, R387). -/
def GateOpen (s : State) (i : Nat) : Prop := quorumOk s i = true ∧ s.keys.ready = true ∧ s.fuses.lc ≠ .retired

/-- Hand h holds in t what it held in s, its reservations aside. -/
def SameHand (s t : State) (h : Nat) : Prop := { getHand t h with resv := (getHand s h).resv } = getHand s h

end Sys2Proof.Machine

namespace Sys2Proof.Machine

/-- From s to t only slot n changed, to x, with the event's interrupts and messages. -/
def SlotMoved (s t : State) (n : Nat) (x : Slot) : Prop :=
  getSlot t n = x ∧ (∀ k, k ≠ n → getSlot t k = getSlot s k)
  ∧ { t with slots := s.slots, irq := s.irq, link := s.link } = s

/-- Slot n as a slot with an error leaves it (R348, R356, R362): deactivated in FAULT. LAST_ERR is the error, or for a write
under way its outcome. -/
def faulted (s : State) (x : Slot) (e : Byte) : Slot :=
  { slotOff x .fault with
    lastErr := if x.step = .writeUse ∨ x.step = .erase then (if dataSent s x then 0x08 else 0x09) else e }

/-- Slot n ends in FAULT with an error. -/
def SlotFaults (s t : State) (n : Nat) (e : Byte) : Prop :=
  getSlot t n = faulted s (getSlot s n) e
  ∧ ∀ pl ∈ pfs s, bit (getIrq t pl).status 23 = true

end Sys2Proof.Machine
end

