-- ==== Sys2Proof/Certificates/Slice0/Obligations.lean ====
section
/-!
DEFINITION. The statements about the model, for the provers. The terms they are written in stand in Safety.lean.
-/
open Sys2Proof Sys2Proof.Machine

/-- A step takes the command at the front of the queue and runs it with the queue's rest; with no command waiting the
block idles (the model's choice, log entry 11). -/
def Obligations.StepRunsFrontCommand : Prop :=
  (∀ (c : Instr) (rest : List Instr) (s : State),
    step { s with pending := c :: rest } = exec c { s with pending := rest })
  ∧ ∀ s : State, s.pending = [] → step s = .next s

/-- No command stops the machine: every command, well formed or not, in every state, is answered by a next state, and
leaves the queue of waiting commands as it was. Where the manual leaves a point open the clauses rest on the model's
own choices: log entry 56. -/
def Obligations.EveryCommandGoesOn : Prop :=
  ∀ (c : Instr) (s : State), ∃ t, exec c s = .next t ∧ t.pending = s.pending

/-- Every step keeps the canonical form of memory and tables, and the bound of the SVN count. -/
def Obligations.CanonicalKept : Prop :=
  ∀ s t : State, Canonical s → step s = .next t → Canonical t

/-- The state after reset is canonical. -/
def Obligations.CanonicalAtReset : Prop := Canonical State.reset

/-- Fuses move one way (R386, R388): over every step the lifecycle code and the SVN count do not fall, OWNER_HASH is
written only out of BLANK, and DIE_ID, TRIM and the vendor identifier stand. -/
def Obligations.FusesMoveOneWay : Prop :=
  ∀ s t : State, step s = .next t →
    s.fuses.lc.code ≤ t.fuses.lc.code ∧ s.fuses.svn ≤ t.fuses.svn
    ∧ (s.fuses.lc = .blank ∨ t.fuses.owner = s.fuses.owner)
    ∧ t.fuses.dieId = s.fuses.dieId ∧ t.fuses.trim = s.fuses.trim ∧ t.fuses.vdm = s.fuses.vdm

/-- ROUND_COUNT (R39): over every step it holds, or goes to 0, or counts one; it counts only at a round boundary. -/
def Obligations.RoundCountMoves : Prop :=
  ∀ s t : State, step s = .next t →
    t.round = s.round ∨ t.round = 0
    ∨ (t.round = s.round + 1 ∧ ∃ env rest, s.pending = .roundTick env :: rest)

/-- The values the manual gives for main reset (R12, and the register tables it refers to), read through the words
that BAR0 shows. Where the manual leaves a point open the clauses rest on the model's own choices: log entries 1, 126.
-/
def Obligations.ResetValues : Prop :=
  State.reset.round = 0 ∧ State.reset.mem = [] ∧ State.reset.pending = []
  ∧ pwrStatus State.reset = 0xC0000000 ∧ cfgStatus State.reset = 0 ∧ idCode = 0x17128A5F
  ∧ (getSeat State.reset 0).st = .off ∧ (getSeat State.reset 0).sqLog2 = 4 ∧ (getSeat State.reset 0).weight = 1
  ∧ (getSeat State.reset 0).decks = 0xFFFF
  ∧ getLimit State.reset 0 = 4096 ∧ State.reset.house.count = 0 ∧ State.reset.house.running = false
  ∧ State.reset.keys.ready = false ∧ State.reset.rng.level = 0 ∧ State.reset.quorum.st = .idle
  ∧ level (getCore State.reset (.lane 0)) = 2 ∧ loopOn (getCore State.reset .house) = false

/-! ## Memory -/

/-- A byte of memory after a store: inside the stored bytes it reads what was stored, everywhere else what it read
before. A memory in canonical form is known by what its addresses read as: equal reads are equal data. -/
def Obligations.MemoryReadsStores : Prop :=
  (∀ (s : State) (a : Nat) (b : Bytes) (x : Nat),
      rd (store s a b) x = (if h : a ≤ x ∧ x - a < b.length then b[x - a] else rd s x))
  ∧ (∀ s t : State, Memory.wf s.mem → Memory.wf t.mem → (∀ a, rd s a = rd t a) → s.mem = t.mem)

/-! ## The G8 cores (chapters 10 and 11) -/

/-- The instruction word (R253, R254): decoding the word assembled from any fields gives the fields, the word is the
sum R254 states, and every 32-bit word is the word of its own fields. A legal word that takes an 8-bit immediate has
zeros above it. -/
def Obligations.G8WordsDecode : Prop :=
  (∀ i : G8Word, g8Decode (g8Encode i) = i)
  ∧ (∀ i : G8Word, (g8Encode i).toNat = i.opc.toNat * 0x01000000 + i.am.toNat * 0x00100000 + i.sc.toNat * 0x00040000
      + i.rs.toNat * 0x00010000 + i.opnd.toNat)
  ∧ (∀ w : BitVec 32, g8Encode (g8Decode w) = w)
  ∧ ∀ (house : Bool) (k : Core) (i : G8Word), legal house k i = true → i.am = 0 →
      (i.opc = 0x04 ∧ i.rs = 0) ∨ i.opc.toNat ∈ [0x10, 0x11, 0x12, 0x13, 0x14, 0x15, 0x16, 0x17, 0x18, 0x20, 0x21, 0x22, 0x23,
        0x24, 0x28, 0x30, 0x31, 0x53, 0x60] →
      bits i.opnd.toNat 15 8 = 0

/-- Effective addresses and index updates (R255), for an access of 1 or 2 bytes: all arithmetic is modulo 2^16; the
modes with a side effect move their own register by the width times the scale, the others move none. -/
def Obligations.G8Addressing : Prop :=
  ∀ (k : Core) (i : G8Word) (w : Nat), w = 1 ∨ w = 2 →
    let n := w * 2 ^ i.sc.toNat
    let ea := (effAddr k i w).toNat
    (i.am = 1 → ea = i.opnd.toNat)
    ∧ (i.am = 2 → ea = (k.x.toNat + i.opnd.toNat) % 65536) ∧ (i.am = 3 → ea = (k.y.toNat + i.opnd.toNat) % 65536)
    ∧ (i.am = 4 → ea = (k.sp.toNat + i.opnd.toNat) % 65536)
    ∧ (i.am = 5 → ea = k.x.toNat ∧ indexStep i w k = { k with x := BitVec.ofNat 16 (k.x.toNat + n) })
    ∧ (i.am = 6 → ea = k.y.toNat ∧ indexStep i w k = { k with y := BitVec.ofNat 16 (k.y.toNat + n) })
    ∧ (i.am = 7 → ea = (k.x.toNat + 65536 - n) % 65536 ∧ indexStep i w k = { k with x := effAddr k i w })
    ∧ (i.am = 8 → ea = (k.y.toNat + 65536 - n) % 65536 ∧ indexStep i w k = { k with y := effAddr k i w })
    ∧ (i.am = 9 → ea = (i.opnd.toNat + k.x.toNat * 2 ^ i.sc.toNat) % 65536)
    ∧ (i.am = 10 → ea = (i.opnd.toNat + k.y.toNat * 2 ^ i.sc.toNat) % 65536)
    ∧ (i.am.toNat < 5 ∨ 8 < i.am.toNat → indexStep i w k = k)

/-- ADD, ADC, SUB, SBC, CMP (R252, R261): with the operand read, the instruction completes; A takes the sum or
difference modulo 256 (CMP keeps it), and C, Z, N and V are those of the exact result. What else happens is the index
update, the PC, the load slot and the cycles; the accesses of the operand apart, nothing else changes. -/
def Obligations.G8AddAndSubtract : Prop :=
  ∀ (c : CoreId) (s s1 s2 : State) (i : G8Word) (v n : Nat), Due s s1 c i →
    operand 1 c i (slotFree (getCore s1 c)) s1 = (s2, .ok (v, n)) →
    let out (keep : Bool) (g : Int → Int → Int → Int) : Out :=
      .next (retired c (getCore s1 c) s2 (fun q => indexed 0 i 1 q
        (let u := g q.a.toNat (v % 256) (b2n (bit q.f 0))
         { q with a := if keep then q.a else BitVec.ofInt 8 u
                  f := sumFlags 8 q.f u (g q.a.toInt (BitVec.ofNat 8 v).toInt (b2n (bit q.f 0))) })) (1 + n) none)
    (i.opc = 0x10 → exec (.add c) s = out false fun a m _ => a + m)
    ∧ (i.opc = 0x11 → exec (.adc c) s = out false fun a m cf => a + m + cf)
    ∧ (i.opc = 0x12 → exec (.sub c) s = out false fun a m _ => a - m)
    ∧ (i.opc = 0x13 → exec (.sbc c) s = out false fun a m cf => a - m - cf)
    ∧ (i.opc = 0x14 → exec (.cmp c) s = out true fun a m _ => a - m)

/-- AND, OR, XOR, BIT (R261): A takes the bitwise result (BIT keeps it), Z and N are those of the result, C and V
stand. CSELT, CSELF, MASKT, MASKF (R257, R261, R272): the operand is read and its cycles taken whatever the condition;
no flag changes. -/
def Obligations.G8LogicAndSelects : Prop :=
  (∀ (c : CoreId) (s s1 s2 : State) (i : G8Word) (v n : Nat), Due s s1 c i →
      operand 1 c i (slotFree (getCore s1 c)) s1 = (s2, .ok (v, n)) →
      let out (keep : Bool) (g : BitVec 8 → BitVec 8 → BitVec 8) : Out :=
        .next (retired c (getCore s1 c) s2 (fun q => indexed 0 i 1 q
          (let r := g q.a (BitVec.ofNat 8 v)
           { q with a := if keep then q.a else r, f := logicFlags q.f r })) (1 + n) none)
      (i.opc = 0x15 → exec (.and c) s = out false (· &&& ·)) ∧ (i.opc = 0x16 → exec (.or c) s = out false (· ||| ·))
      ∧ (i.opc = 0x17 → exec (.xor c) s = out false (· ^^^ ·)) ∧ (i.opc = 0x18 → exec (.bit c) s = out true (· &&& ·)))
  ∧ (∀ (c : CoreId) (s s1 s2 : State) (i : G8Word) (v n : Nat), Due s s1 c i →
      operand 1 c i (slotFree (getCore s1 c)) s1 = (s2, .ok (v, n)) →
      let test (q : Core) : Bool :=
        if i.rs = 0 then bit q.f 1 else if i.rs = 1 then bit q.f 0 else if i.rs = 2 then bit q.f 2
        else bit q.f 2 != bit q.f 3
      let sel (want : Bool) : Out := .next (retired c (getCore s1 c) s2 (fun q => indexed 0 i 1 q
        { q with a := if test q = want then BitVec.ofNat 8 v else q.a }) (1 + n) none)
      let mask (want : Bool) : Out := .next (retired c (getCore s1 c) s1 (fun q =>
        { q with a := if test q = want then 0xFF else 0 }) 1 none)
      (i.opc = 0x30 → exec (.cselt c) s = sel true) ∧ (i.opc = 0x31 → exec (.cself c) s = sel false)
      ∧ (i.opc = 0x32 → exec (.maskt c) s = mask true) ∧ (i.opc = 0x33 → exec (.maskf c) s = mask false))

/-- Shifts and rotates (R261), for a count of 0 to 7: A holds the shifted value, C the last bit shifted out (unchanged
for a count of 0), Z and N those of A, and V stands. ROL and ROR turn A and C as one number of 9 bits. INC, DEC, CPR,
MUL, ADW, SBW (R261). Where the manual leaves a point open the clauses rest on the model's own choices: log entry 23.
-/
def Obligations.G8ShiftsAndWide : Prop :=
  (∀ (c : CoreId) (s s1 : State) (i : G8Word), Due s s1 c i →
      let n := i.opnd.toNat
      let out (g : Nat → Nat → Nat × Nat) : Out :=
        .next (retired c (getCore s1 c) s1 (fun q =>
          let r := g q.a.toNat (b2n (bit q.f 0))
          { q with a := BitVec.ofNat 8 r.1
                   f := flagsCZNV q.f (r.2 % 2 == 1) (r.1 % 256 == 0) (decide (128 ≤ r.1 % 256)) (bit q.f 3) }) 1 none)
      (i.opc = 0x20 → exec (.shl c) s = out fun a cf => (a * 2 ^ n, if n = 0 then cf else a * 2 ^ n / 256))
      ∧ (i.opc = 0x21 → exec (.shr c) s = out fun a cf => (a / 2 ^ n, if n = 0 then cf else a / 2 ^ (n - 1)))
      ∧ (i.opc = 0x22 → exec (.sar c) s = out fun a cf =>
          ((a + 0xFF00 * (a / 128)) / 2 ^ n, if n = 0 then cf else a / 2 ^ (n - 1)))
      ∧ (i.opc = 0x23 → exec (.rol c) s = out fun a cf =>
          let t := (256 * cf + a) * 2 ^ n
          ((t + t / 512) % 512, (t + t / 512) % 512 / 256))
      ∧ (i.opc = 0x24 → exec (.ror c) s = out fun a cf =>
          let t := 2 * a + cf
          let u := t / 2 ^ n + t % 2 ^ n * 2 ^ (9 - n)
          (u % 512 / 2, u % 2)))
  ∧ (∀ (c : CoreId) (s s1 s2 : State) (i : G8Word) (v n w : Nat), Due s s1 c i →
      operand w c i (slotFree (getCore s1 c)) s1 = (s2, .ok (v, n)) →
      let out (t : State) (n : Nat) (u : Core → Core) : Out := .next (retired c (getCore s1 c) t u (1 + n) none)
      let code := i.rs.toNat
      let step (d : BitVec 16) : Core → Core := fun q =>
        let r := regGet q code + d
        let z : Nat := if code = 0 then r.toNat % 256 * 256 else r.toNat
        { regPut q code r with f := flagsCZNV q.f (bit q.f 0) (decide (z = 0)) (decide (32768 ≤ z)) (bit q.f 3) }
      let wide (keep : Bool) (g : Int → Int → Int) : Core → Core := fun q =>
        let r := regGet q code
        let u := g r.toNat (v % 65536)
        { (if keep then q else regPut q code (BitVec.ofInt 16 u)) with
          f := sumFlags 16 q.f u (g r.toInt (BitVec.ofNat 16 v).toInt) }
      (i.opc = 0x25 → exec (.inc c) s = out s1 0 (step 1)) ∧ (i.opc = 0x26 → exec (.dec c) s = out s1 0 (step 0xFFFF))
      ∧ (i.opc = 0x27 → w = 2 → exec (.cpr c) s = out s2 n fun q => indexed 0 i 2 q (wide true (· - ·) q))
      ∧ (i.opc = 0x28 → w = 1 → exec (.mul c) s = out s2 n fun q => indexed 1 i 1 q
          { q with x := BitVec.ofNat 16 (q.a.toNat * v)
                   f := flagsCZNV q.f (bit q.f 0) (decide (q.a.toNat * v % 65536 = 0)) (bit q.f 2) (bit q.f 3) })
      ∧ (i.opc = 0x29 → w = 2 → exec (.adw c) s = out s2 n fun q => indexed code i 2 q (wide false (· + ·) q))
      ∧ (i.opc = 0x2A → w = 2 → exec (.sbw c) s = out s2 n fun q => indexed code i 2 q (wide false (· - ·) q)))

/-- LD, POP, LEA, MOV, G8_NOP (R261, R263): a load leaves its value to be written at the end of its slot; LEA and MOV
write at once, MOV without delay; NOP changes no register. ST, PUSH, CALL (R255, R261): the bytes stored are the
register's, little-endian, at the effective address or below SP; CALL stores the address of the next instruction. ST
to a register in REG mode stores nothing. Where the manual leaves a point open the clauses rest on the model's own
choices: log entries 23, 28. -/
def Obligations.G8LoadsAndStores : Prop :=
  (∀ (c : CoreId) (s s1 s2 : State) (i : G8Word) (v n : Nat), Due s s1 c i →
      let k := slotFree (getCore s1 c)
      let w := regBytes i.rs.toNat
      let out (t : State) (n : Nat) (u : Core → Core) : Out := .next (retired c (getCore s1 c) t u (1 + n) none)
      let popped := if i.rs = 3 then 4 else i.rs.toNat
      (i.opc = 0x01 → coreRead s1 c (level k) (effAddr k i w).toNat w = (s2, .ok (v, n)) →
        exec (.ld c) s = out s2 n fun q =>
          { indexStep i w q with load := some (i.rs.setWidth 4, BitVec.ofNat 16 v) })
      ∧ (i.opc = 0x06 → coreRead s1 c (level k) k.sp.toNat (regBytes popped) = (s2, .ok (v, n)) →
        exec (.pop c) s = out s2 n fun q =>
          { q with sp := k.sp + BitVec.ofNat 16 (regBytes popped)
                   load := some (BitVec.ofNat 4 popped, BitVec.ofNat 16 v) })
      ∧ (i.opc = 0x03 → exec (.lea c) s = out s1 0 fun q => regPut q i.rs.toNat (effAddr q i 2))
      ∧ (i.opc = 0x04 → exec (.mov c) s = out s1 0 fun q =>
          regPut q i.rs.toNat (if i.am = 0 then i.opnd else regGet q i.opnd.toNat))
      ∧ (i.opc = 0x0F → exec (.g8Nop c) s = out s1 0 id))
  ∧ (∀ (c : CoreId) (s s1 s2 : State) (i : G8Word) (n : Nat), Due s s1 c i →
      let k := slotFree (getCore s1 c)
      let w := regBytes i.rs.toNat
      let pushed := if i.rs = 3 then 4 else i.rs.toNat
      (i.opc = 0x02 → i.am ≠ 11 →
        coreWrite s1 c (level k) (effAddr k i w).toNat (natLe w (regGet k i.rs.toNat).toNat) = (s2, .ok n) →
        exec (.st c) s = .next (retired c (getCore s1 c) s2 (indexStep i w) (1 + n) none))
      ∧ (i.opc = 0x02 → i.am = 11 →
        exec (.st c) s = .next (retired c (getCore s1 c) s1 (fun q => regPut q i.opnd.toNat (regGet k i.rs.toNat)) 1 none))
      ∧ (i.opc = 0x05 →
        coreWrite s1 c (level k) (k.sp - BitVec.ofNat 16 (regBytes pushed)).toNat
          (natLe (regBytes pushed) (regGet k pushed).toNat) = (s2, .ok n) →
        exec (.push c) s = .next (retired c (getCore s1 c) s2
          (fun q => { q with sp := k.sp - BitVec.ofNat 16 (regBytes pushed) }) (1 + n) none))
      ∧ (i.opc = 0x43 → coreWrite s1 c (level k) (k.sp - 2).toNat (natLe 2 (k.pc + 4).toNat) = (s2, .ok n) →
        exec (.call c) s = .next (retired c (getCore s1 c) s2 (fun q => { q with sp := k.sp - 2 }) (2 + n)
          (some (effAddr k i 2)))))

/-- BT, BF, JMP, RET, LOOP, WAIT, FENCE (R261, R267-R271): a branch takes 2 cycles whether it is taken or not, WAIT
the rest of the round, FENCE the time its stores need and one cycle at least. Where the manual leaves a point open the
clauses rest on the model's own choices: log entries 23, 25. -/
def Obligations.G8Transfers : Prop :=
  ∀ (c : CoreId) (s s1 s2 : State) (i : G8Word) (v n : Nat), Due s s1 c i →
    let k := slotFree (getCore s1 c)
    let out := fun t u cycles jump => (.next (retired c (getCore s1 c) t u cycles jump) : Out)
    let count := if i.rs = 0 then k.x.toNat else if i.rs = 1 then k.y.toNat else k.a.toNat
    (i.opc = 0x40 → exec (.bt c) s = out s1 id 2 (if cond k.f i.rs then some i.opnd else none))
    ∧ (i.opc = 0x41 → exec (.bf c) s = out s1 id 2 (if cond k.f i.rs then none else some i.opnd))
    ∧ (i.opc = 0x42 → exec (.jmp c) s = out s1 id 2 (some (effAddr k i 2)))
    ∧ (i.opc = 0x44 → coreRead s1 c (level k) k.sp.toNat 2 = (s2, .ok (v, n)) →
      exec (.ret c) s = out s2 (fun q => { q with sp := k.sp + 2 }) (2 + n) (some (BitVec.ofNat 16 v)))
    ∧ (i.opc = 0x50 → count = 0 → exec (.loop c) s = out s1 id 1 (some (i.opnd + 4)))
    ∧ (i.opc = 0x50 → count ≠ 0 → exec (.loop c) s = out s1 (fun q =>
        { q with le := i.opnd, f := q.f ||| 0x20
                 lc := BitVec.ofNat 16 (4096 * ((i.opnd.toNat - k.pc.toNat - 4) / 4) + count) }) 1 none)
    ∧ (i.opc = 0x51 → exec (.wait c) s = out s1 id (16 - k.cyc) none)
    ∧ (i.opc = 0x52 → (getCore (drainAll s1 c).1 c).latePend = none →
      exec (.fence c) s = out (drainAll s1 c).1 id (max 1 (drainAll s1 c).2) none)

/-- PLAY, GATE, MCALL, RETX and a reserved opcode (R134, R136, R273, R284-R292). A play not refused starts in the next
round. A GATE that passes its checks enters KERNEL over its frame, and one whose descriptor is beyond correction raises cause
0x0B; MCALL makes its exchanges; a RETX at MONITOR in a
monitor call reverses them; any other RETX restores the frame it reads, unless it is forged. A reserved opcode raises
ILLEGAL, cause 0x04. Where the manual leaves a point open the clauses rest on the model's own choices: log entries 23,
25, 27. -/
def Obligations.G8Gates : Prop :=
  ∀ (c : CoreId) (s s1 s2 : State) (i : G8Word) (b : Bytes) (n sp : Nat), Due s s1 c i →
    let k := getCore s1 c
    let entry := if i.am = 0 then i.opnd.toNat else k.a.toNat
    let gate := rdN s1 (ownAddr c (0xF800 + 8 * i.opnd.toNat)) 8
    let gw := wkeys (ownAddr c (0xF800 + 8 * i.opnd.toNat)) 8
    let framed : Core := { k with pc := k.pc + 4, f := k.f &&& 0xDF, load := none }
    (i.opc = 0x53 → playRefused s1 (laneOf c) (level k) entry = false →
      exec (.play c) s = .next (retired c k (modLane s1 (laneOf c) fun ln =>
        { ln with seqr := { upc := entry, run := true, form := false, loops := [], rep := none, from_ := s1.round + 1 } })
        id 1 none))
    ∧ (i.opc = 0x60 → (∀ w ∈ gw, sget none s1.prot.bad w ≠ some true) →
      bits (leField gate 4 4) 31 31 = 1 → bits (leField gate 4 4) 27 16 = 0 → gateCheck s1 c k (leField gate 4 4) = true →
      pushFrame s1 c framed 1 (leField gate 2 2) (frameBytes framed 0x0D i.opnd.toNat) = some (s2, sp, n) →
      exec (.gate c) s = .next (mirrored c (touchWords (setCore s2 c (commitLoad k.load
        (enteredCore { getCore s2 c with load := none } 1 sp (leField gate 0 2 / 4 * 4) 0x0D (6 + n)))) gw)))
    ∧ (i.opc = 0x60 → (∃ w ∈ gw, sget none s1.prot.bad w = some true) →
      exec (.gate c) s = .next (mirrored c (stopped (touchWords s1 gw) c (.exc 0x0B (0xF800 + 8 * i.opnd.toNat)))))
    ∧ (i.opc = 0x61 → exec (.mcall c) s = .next (mirrored c (setCore s1 c (commitLoad k.load
        { k with pc := k.entryPc &&& 0xFFFC, entryPc := k.pc + 4, sp := k.entrySp, entrySp := k.sp
                 f := entryF k, entryF := k.f &&& 0xDF, mc := true, load := none, oneFirst := false
                 cyc := k.cyc + 2 }))))
    ∧ (i.opc = 0x62 → level k = 2 → k.mc = true → k.mdepth = 0 →
      exec (.retx c) s = .next (mirrored c (setCore s1 c (commitLoad k.load
        { k with pc := k.entryPc &&& 0xFFFC, entryPc := k.pc + 4, sp := k.entrySp, entrySp := k.sp
                 f := entryF k, entryF := k.f &&& 0xDF, mc := false, load := none, oneFirst := true
                 cyc := k.cyc + 6 }))))
    ∧ (i.opc = 0x62 → (level k ≠ 2 ∨ k.mc = false ∨ k.mdepth ≠ 0) →
      readFrame s1 c (level k) k.sp = (s2, .ok (b, n)) → forged b (level k) = false →
      exec (.retx c) s = .next (mirrored c (setCore s2 c (commitLoad k.load
        (restored (getCore s2 c) b (level k) (6 + n))))))

/-- A reserved opcode (R262, R281): whatever the word's other fields, ILLEGAL (cause 0x04) is pending when the
instruction ends, and no other command of the core runs the word. Exception entry (R282, R283, R288): the frame of the
core as it stood goes below the handler's SP or the live SP; the core continues at the handler at the target level
with I and L clear and C, Z, N, V as they were, EXC_CAUSE written, and MDEPTH counted when the target is MONITOR.
Where the manual leaves a point open the clauses rest on the model's own choices: log entry 25. -/
def Obligations.G8Exceptions : Prop :=
  (∀ (c : CoreId) (s s1 : State) (w : BitVec 32),
      pendingCause (getCore s c) = none → coreRuns s c = true → (c = .house → s.house.core = s.house.twin) →
      fetch s c = (s1, .ok w) → opRow (g8Decode w).opc.toNat 0 = none →
      exec (.reservedOpc c) s = .next (mirrored c (stopped s1 c (.exc 0x04 0)))
      ∧ exec (.add c) s = .next (mirrored c s) ∧ exec (.ld c) s = .next (mirrored c s))
  ∧ (∀ (c : CoreId) (s s2 : State) (cause info sp n : Nat) (pc : BitVec 16),
      let k : Core := { getCore s c with pc := pc }
      let t := if level k = 2 then 2 else 1
      let v := vectorEntry s c t cause
      (∀ w ∈ vectorWords c t cause, sget none s.prot.bad w ≠ some true) →
      pushFrame s c k t (if level k < t then v.2 else k.sp.toNat) (frameBytes k cause info) = some (s2, sp, n) →
      (getCore s2 c).f = k.f → cause ≠ 1 →
      let q := getCore (takeCause s c cause info pc) c
      q.pc = BitVec.ofNat 16 v.1 ∧ q.sp = BitVec.ofNat 16 sp ∧ level q = t
      ∧ bit q.f 5 = false ∧ bit q.f 4 = false ∧ fld q.f 3 0 = fld k.f 3 0
      ∧ q.excCause = BitVec.ofNat 8 cause
      ∧ q.mdepth = (if t = 2 then (getCore s2 c).mdepth + 1 else (getCore s2 c).mdepth)
      ∧ q.cyc = (getCore s2 c).cyc + 6 + n
      ∧ (q.a, q.x, q.y, q.lc, q.le, q.bk) = ((getCore s2 c).a, (getCore s2 c).x, (getCore s2 c).y, (getCore s2 c).lc,
          (getCore s2 c).le, (getCore s2 c).bk))

/-- INTERRUPT_ENTRY, STORE_DRAIN, LATE_STORE_INFO, IRQ_PEND as commands of a lane core (R265, R282, R286, R297): the
cause of highest priority is taken, unless its frame's page is under retag, when the core waits for the next round; the oldest store leaves the buffer, a read at KERNEL or MONITOR answers
LATE_STORE_INFO and clears it, and a write of ones to IRQ_PEND clears SEG_BOUND and HOUSE_REQ, but a bit the device
sets in that cycle is left set (R10). The order in which causes are taken at a boundary (R281, R282): a late store
error first, then SEG_FINAL at APPLET, then the PLAY_FORM of a refused first play, then the two maskable interrupts while
F.I is 1. Where the manual leaves a point open the clauses rest on the model's own choices: log entries 24, 110, 144. -/
def Obligations.G8Events : Prop :=
  (∀ (l : Fin 128) (s : State) (cause info : Nat) (e : StoreEnt) (rest : List StoreEnt) (v same : Byte),
      let c := CoreId.lane l
      let k := getCore s c
      (pendingCause k = some (cause, info) → coreRuns s c = true → entryHeld s c cause = false →
        exec (.interruptEntry c) s = .next (finalTaken (takeCause s c cause info k.pc) c cause))
      ∧ (pendingCause k = some (cause, info) → coreRuns s c = true → entryHeld s c cause = true →
        exec (.interruptEntry c) s = .next (setCore s c { k with cyc := 16 }))
      ∧ (k.sbuf = e :: rest → running s = true → e.due ≤ 16 * s.round + 15 →
        exec (.storeDrain c) s = .next (drainOne s c))
      ∧ (level k ≠ 0 → coreRuns s c = true →
        exec (.lateStoreInfo c) s = .next (setCore { s with answer := .bytes [k.lateInfo] } c { k with lateInfo := 0 }))
      ∧ (level k ≠ 0 → coreRuns s c = true →
        exec (.irqPend c v same) s = .next (setCore s c { k with irqPend := (k.irqPend &&& ~~~(v &&& 6)) ||| (same &&& 6) })))
  ∧ (∀ k : Core,
      (∀ a, k.latePend = some a → pendingCause k = some (1, a.toNat))
      ∧ (k.latePend = none → bit k.irqPend 0 = true → level k = 0 → pendingCause k = some (0x10, 0))
      ∧ (∀ e, k.latePend = none → ¬(bit k.irqPend 0 = true ∧ level k = 0) → k.playForm = some e →
          pendingCause k = some (0x0C, e.toNat))
      ∧ (k.latePend = none → ¬(bit k.irqPend 0 = true ∧ level k = 0) → k.playForm = none → bit k.f 4 = false →
          pendingCause k = none)
      ∧ (k.latePend = none → ¬(bit k.irqPend 0 = true ∧ level k = 0) → k.playForm = none → bit k.irqPend 1 = true →
          bit k.irqMask 1 = false → bit k.irqMask 2 = false → pendingCause k = none))

/-! ## Seats and the ring engine (chapter 03) -/

/-- SEAT_CTRL by a function the seat is bound to (R88, R90): the write waits for the next round, and no state changes in
its own. FORCE_HALT (R88, R111) waits so for a physical function of the seat's port and link; any other function's is
discarded with REG_ACCESS_ERR. What the next round makes of a lone write: every row of the table of transitions, in a
seat state that the row names; a write that matches no row changes no state. Nothing but the seat changes, but for the
halt's interrupt and message and for REG_ACCESS_ERR of a CLEAR_HALT with descriptors in flight. Where the manual leaves
a point open the clauses rest on the model's own choices: log entries 65, 134. -/
def Obligations.SeatTransitions : Prop :=
  (∀ (f : Func) (seat : Fin 8192) (s : State),
      let i := seat.val
      (Commands s f i →
        exec (.arm f seat) s = .next (seatAsks s i 1 [.off])
        ∧ exec (.disarm f seat) s = .next (seatAsks s i 0 [.armed])
        ∧ exec (.enable f seat) s = .next (seatAsks s i 3 [.armed, .draining])
        ∧ exec (.drain f seat) s = .next (seatAsks s i 1 [.run, .draining])
        ∧ exec (.clearHalt f seat) s = .next (seatAsks s i 4 [.halted]))
      ∧ (Reaches s f → f.vf = 0 → f.port = (getSeat s i).bind.port → f.link = (getSeat s i).bind.link →
        exec (.forceHalt f seat) s = .next (seatAsks s i 0x80000000 [.off, .armed, .run, .draining, .halted]))
      ∧ (Reaches s f → ¬(f.vf = 0 ∧ f.port = (getSeat s i).bind.port ∧ f.link = (getSeat s i).bind.link) →
        exec (.forceHalt f seat) s = .next (regErr s f (seatOff i 0x1C)))
      ∧ ∀ v rows, seatState (seatAsks s i v rows) (getSeat (seatAsks s i v rows) i) = seatState s (getSeat s i)
        ∧ ∀ j, j ≠ i → getSeat (seatAsks s i v rows) j = getSeat s j)
  ∧ (∀ (s : State) (i : Nat) (v : Word) (rows : List SeatState), (getSeat s i).ctrl = [.write v rows] →
      let x := { getSeat s i with ctrl := [] }
      let st := seatState s x
      let t := ctrlTurn s i
      (rows = [.off] → v = 1 → st = .off → ArmLegal s x → t = seatMoves s i
        { x with sqHead := 0, sqTail := 0, cqHead := 0, cqTail := 0, cqSeen := 0, phase := true, cfgErr := false } .armed)
      ∧ (rows = [.off] → v = 1 → st = .off → ¬ArmLegal s x → t = setSeat s i { x with cfgErr := true })
      ∧ (rows = [.armed] → v = 0 → st = .armed → t = seatMoves s i x .off)
      ∧ (rows = [.armed, .draining] → v = 3 → st = .armed → standbyHold s = false → t = seatMoves s i x .run)
      ∧ (rows = [.armed, .draining] → v = 3 → st = .draining → t = setSeat s i { x with pend := true })
      ∧ (rows = [.run, .draining] → v = 1 → st = .run → t = seatMoves s i x .draining)
      ∧ (rows = [.run, .draining] → v = 1 → st = .draining → t = setSeat s i { x with pend := false })
      ∧ (rows = [.halted] → v = 4 → st = .halted → x.flights = [] → t = seatMoves s i x .armed)
      ∧ (rows = [.halted] → v = 4 → st = .halted → x.flights ≠ [] → t = regErr (setSeat s i x) x.bind (seatOff i 0x1C))
      ∧ (v = 0x80000000 → st ∈ rows → st = .run ∨ st = .draining → t = enterHalt (setSeat s i x) i .forced none)
      ∧ (v = 0x80000000 → st ≠ .run → st ≠ .draining → t = setSeat s i x)
      ∧ (st ∉ rows → t = setSeat s i x)
      ∧ ∀ j, j ≠ i → getSeat t j = getSeat s j)
  ∧ (∀ (s : State) (i : Nat) (x : Seat) (st : SeatState),
      seatState (seatMoves s i x st) (getSeat (seatMoves s i x st) i) = st
      ∧ seatState (enterHalt s i .forced none) (getSeat (enterHalt s i .forced none) i) = .halted
      ∧ (getSeat (enterHalt s i .forced none) i).cause = .forced ∧ (getSeat (enterHalt s i .forced none) i).haltAt = s.round)

/-- A function that a seat is not bound to changes none of its context (R88): ARM, DISARM, ENABLE, DRAIN, CLEAR_HALT
and IRQ_CFG are discarded and set REG_ACCESS_ERR; a function that does not reach the device changes nothing at all
(R83). SEAT_BIND and IRQ_CFG (R87, R89, R110): a physical function rebinds an OFF seat of its own port and link, and
only the binding changes; any other write of SEAT_BIND is discarded with REG_ACCESS_ERR. IRQ_CFG is in force from the
next round, and a COUNT of 0 stores 1. -/
def Obligations.SeatBinding : Prop :=
  (∀ (f : Func) (seat : Fin 8192) (v : Word) (s : State),
      let i := seat.val
      let cs : List (Instr × Nat) := [(.arm f seat, 0x1C), (.disarm f seat, 0x1C), (.enable f seat, 0x1C),
        (.drain f seat, 0x1C), (.clearHalt f seat, 0x1C), (.irqCfg f seat v, 0x2C)]
      (∀ c ∈ cs, Reaches s f → boundTo s i f = false → exec c.1 s = .next (regErr s f (seatOff i c.2)))
      ∧ ∀ c ∈ cs, hostOk s f = false → exec c.1 s = .next s)
  ∧ (∀ (f : Func) (seat : Fin 8192) (v : Word) (s : State), Reaches s f →
      let i := seat.val
      let x := getSeat s i
      let own := f.vf = 0 ∧ f.port = x.bind.port ∧ f.link = x.bind.link ∧ seatState s x = .off
      (own → exec (.seatBind f seat v) s = .next (setSeat s i { x with bind := funcOf (v.toNat % 1024) }))
      ∧ (¬own → exec (.seatBind f seat v) s = .next (regErr s f (bindOff i)))
      ∧ (boundTo s i f = true → ∃ t, exec (.irqCfg f seat v) s = .next t
        ∧ t = setSeat s i (getSeat t i)
        ∧ (getSeat t i).irqEn.at_ s.round = x.irqEn.at_ s.round
        ∧ (getSeat t i).irqEn.at_ (s.round + 1) = v.getLsbD 31
        ∧ (getSeat t i).irqVec.at_ (s.round + 1) = BitVec.ofNat 11 (v.toNat / 65536)
        ∧ (getSeat t i).irqCount.at_ (s.round + 1) = (if v.toNat % 256 = 0 then 1 else BitVec.ofNat 8 v.toNat)))

/-- DOORBELL (R99-R101). A doorbell of 8 aligned bytes from the function its seat is bound to, with SEAT matching and
no reserved bit, for a seat that is not OFF: within R101 it moves the indices it carries and nothing else; beyond it
the seat halts in RUN or DRAINING, and in ARMED or HALTED the doorbell is discarded. A discarded doorbell (R100)
changes no seat, and adds one to the writing function's DB_DISCARD_CNT, which saturates; in each of the cases of R100.
-/
def Obligations.Doorbells : Prop :=
  (∀ (f : Func) (off : Nat) (data : Bytes) (s : State),
      let v := leNat data
      let i := off / 8
      let x := getSeat s i
      let sqv := bits v 63 63 = 1
      let cqv := bits v 62 62 = 1
      let n := bits v 15 0
      let m := bits v 31 16
      let sz := 2 ^ x.sqLog2.toNat
      let cz := 2 ^ x.cqLog2.toNat
      let sqOk := n < sz ∧ (x.sqTail + sz - x.sqHead) % sz + (n + sz - x.sqTail) % sz ≤ sz - 1
      let cqOk := m < cz ∧ (m + cz - x.cqHead) % cz ≤ (x.cqTail + cz - x.cqHead) % cz
      hostOk s f = true → data.length = 8 → off % 8 = 0 → bits v 44 32 = i → bits v 61 45 = 0 →
      boundTo s i f = true → seatState s x ≠ .off →
      ((sqv → sqOk) → (cqv → cqOk) → exec (.doorbell f off data) s = .next (setSeat s i { x with
        sqTail := if sqv then n else x.sqTail, cqHead := if cqv then m else x.cqHead }))
      ∧ (¬((sqv → sqOk) ∧ (cqv → cqOk)) → seatState s x = .armed ∨ seatState s x = .halted →
        exec (.doorbell f off data) s = .next (discardDoorbell s f))
      ∧ (¬((sqv → sqOk) ∧ (cqv → cqOk)) → seatState s x = .run ∨ seatState s x = .draining →
        exec (.doorbell f off data) s = .next (enterHalt s i (if sqv ∧ ¬sqOk then .sqDoorbell else .cqDoorbell) none)))
  ∧ (∀ (f : Func) (off : Nat) (data : Bytes) (s : State),
      let v := leNat data
      hostOk s f = true →
      (data.length ≠ 8 ∨ off % 8 ≠ 0 ∨ bits v 44 32 ≠ off / 8 ∨ bits v 61 45 ≠ 0 ∨ boundTo s (off / 8) f = false
        ∨ seatState s (getSeat s (off / 8)) = .off) →
      ∃ t, exec (.doorbell f off data) s = .next t ∧ t.seats = s.seats ∧ t.mem = s.mem ∧ t.kitty = s.kitty
        ∧ sget 0 t.cnt.dbDiscard (fkey f) = satAdd (sget 0 s.cnt.dbDiscard (fkey f)) 1
        ∧ bit (getIrq t (plKey f)).status 30 = true)

/-- DESCRIPTOR_FETCH (R104): the fetch reads entries from SQ_HEAD on, beyond those asked for by fetches still good, no more than the
unfetched entries, the free places of the 32 in flight, the entries before the end of the ring, and Max Read Request
Size / 64. SQ_HEAD stands, and no byte of memory changes. -/
def Obligations.DescriptorFetchReads : Prop :=
  ∀ (seat : Fin 8192) (s : State),
    let i := seat.val
    let x := getSeat s i
    let sz := 2 ^ x.sqLog2.toNat
    let ahead := ((x.fetches.filter fun q => !q.stale).map (·.count)).sum
    let start := (x.sqHead + ahead) % sz
    let n := min (min ((x.sqTail + sz - x.sqHead) % sz - ahead) (32 - x.flights.length - ahead))
      (min (sz - start) (Config.maxReadUnits (fkey x.bind)))
    let ft : Fetch :=
      { start := start, count := n, addr := x.sqBase + BitVec.ofNat 64 (64 * start), func := x.bind, issued := s.round
        stale := false }
    running s = true → seatState s x = .run → 0 < n →
    ∃ t, exec (.descriptorFetch seat) s = .next t
      ∧ getSeat t i = { x with fetches := x.fetches ++ [ft] }
      ∧ (∀ j, j ≠ i → getSeat t j = getSeat s j) ∧ t.mem = s.mem ∧ t.link = s.link ∧ t.lanes = s.lanes

/-- FETCH_RETURN (R91, R95, R104, R105): a fetch that a halt has made void, or that comes back in a state that takes none,
is discarded whole: it leaves the seat's list and nothing else changes. Any other that returned data brings its
descriptors into flight, in their order and with the bytes read, and SQ_HEAD advances past them; one whose read failed
brings in its first entry alone, with the DETAIL of the error, and halts a seat in RUN or DRAINING, which the entry's
index names. What a descriptor taken into flight is: the last flight of its seat holds the 64 bytes read, SQ_HEAD
advances past it modulo the ring, and the bytes lie in its prefetch place. Where the manual leaves a point open the
clauses rest on the model's own choices: log entries 12, 77. -/
def Obligations.FetchReturns : Prop :=
  (∀ (seat : Fin 8192) (s : State) (ft : Fetch) (rest : List Fetch) (b : Bytes) (d : HostData) (e : BitVec 16),
      let i := seat.val
      let x := getSeat s i
      let sz := 2 ^ x.sqLog2.toNat
      let takes := seatState s x = .run ∨ seatState s x = .draining ∨ (seatState s x = .halted ∧ x.haltAt = s.round)
      x.fetches = ft :: rest → running s = true →
      (ft.stale = true ∨ ¬takes ∨ ft.start ≠ x.sqHead →
        exec (.fetchReturn seat d) s = .next (setSeat s i { x with fetches := rest }))
      ∧ (ft.stale = false → takes → ft.start = x.sqHead → 0 < ft.count →
        ∃ t, exec (.fetchReturn seat (.data b)) s = .next t
          ∧ (getSeat t i).fetches = rest ∧ (getSeat t i).sqHead = (ft.start + ft.count) % sz
          ∧ (getSeat t i).flights.map (fun g => (g.sq, g.desc, g.fetched)) =
            x.flights.map (fun g => (g.sq, g.desc, g.fetched))
              ++ (List.range ft.count).map (fun j => (ft.start + j, parseDesc (padTo 64 (slice b (64 * j) 64)), s.round))
          ∧ ∀ j, j ≠ i → getSeat t j = getSeat s j)
      ∧ (ft.stale = false → takes → ft.start = x.sqHead → (d, e) ∈ [(.poisoned, 1), (.refused, 4), (.timeout, 5)] →
        ∃ t, exec (.fetchReturn seat d) s = .next t
          ∧ (getSeat t i).fetches = rest ∧ (getSeat t i).sqHead = (ft.start + 1) % sz
          ∧ (getSeat t i).flights.map (·.sq) = x.flights.map (·.sq) ++ [ft.start]
          ∧ (∃ g, (getSeat t i).flights.getLast? = some g ∧ g.dmaErr = some e ∧ g.decided = none)
          ∧ (seatState s x ≠ .halted → seatState t (getSeat t i) = .halted ∧ (getSeat t i).cause = .dmaData
            ∧ (getSeat t i).idxValid = true ∧ (getSeat t i).haltIdx = ft.start ∧ (getSeat t i).haltAt = s.round)
          ∧ ∀ j, j ≠ i → getSeat t j = getSeat s j))
  ∧ (∀ (s : State) (i sq : Nat) (b : Bytes), b.length = 64 →
      let x := getSeat s i
      let t := takeDesc s i sq b
      (getSeat t i).sqHead = (sq + 1) % 2 ^ x.sqLog2.toNat
      ∧ (getSeat t i).flights.length = x.flights.length + 1
      ∧ rdN t (prefetchAddr i sq) 64 = b
      ∧ ∀ a, a < prefetchAddr i sq ∨ prefetchAddr i sq + 64 ≤ a → rd t a = rd s a)

/-- FRAGMENT_LIST_FETCH and FRAGMENT_LIST_RETURN (R85, R97, R98, R111, R112): when the pool can hold both lists of a
descriptor, and it is its seat's turn, both are asked for by the seat's function and their tricks of the pool taken, under
the seat's suit. A list that returns lies in its tricks and is held, in entries of 16 bytes, and its reads are gone; once
every list is there a ceremony's payload is asked for, and a failed check decides the descriptor in that round, unless its seat halted in an earlier one. A read that fails halts the seat. Where
the manual leaves a point open the clauses rest on the model's own choices: log entries 12, 18, 136. -/
def Obligations.FragmentLists : Prop :=
  ∀ (seat : Fin 8192) (sq : Nat) (s : State) (g : Flight) (b : Bytes) (dst : Bool) (d : HostData) (e : BitVec 16),
    let i := seat.val
    let f := (getSeat s i).bind
    let tricks := (if g.desc.srcFrag then (g.desc.srcFrags.toNat + 3) / 4 else 0)
      + (if g.desc.dstFrag then (g.desc.dstFrags.toNat + 3) / 4 else 0)
    let reads := (if g.desc.srcFrag then readReqs s f .srcList g.desc.src (16 * g.desc.srcFrags.toNat) else [])
      ++ (if g.desc.dstFrag then readReqs s f .dstList g.desc.dst (16 * g.desc.dstFrags.toNat) else [])
    let n := if dst then g.desc.dstFrags.toNat else g.desc.srcFrags.toNat
    let kind : ReadKind := if dst then .dstList else .srcList
    let frags := parseFrags (padTo (16 * n) b)
    let g1 : Flight := if dst then { g with dstList := some frags } else { g with srcList := some frags }
    let left := (g.reads.filter fun r => decide (r.kind ≠ kind)) ++ (if listsIn g1 then ceremonyReads s i g1 else [])
    let first := if g.desc.srcFrag then (g.desc.srcFrags.toNat + 3) / 4 else 0
    let placed := stagePut s (if dst then g.listPool.drop first else g.listPool.take first) (padTo (16 * n) b)
    running s = true →
    (Names s i sq g (fun h => h.decided.isNone && !h.listsAsked && (h.desc.srcFrag || h.desc.dstFrag)) →
      seatState s (getSeat s i) = .run ∨ seatState s (getSeat s i) = .draining →
      tricks ≤ poolFree s → poolTurn s i tricks = true →
      exec (.fragmentListFetch seat sq) s = .next (modFlight (tagPlaces s (poolTake s tricks) (getSeat s i).suit) i g.seq fun x =>
        { x with listsAsked := true, listPool := poolTake s tricks, reads := x.reads ++ reads }))
    ∧ (Names s i sq g (fun h => h.decided.isNone && h.listsAsked
        && (if dst then h.desc.dstFrag && h.dstList.isNone else h.desc.srcFrag && h.srcList.isNone)) →
      (listsIn g1 = false ∨ worst (listFails g.desc g1.srcList g1.dstList) = none ∨ haltPast s i = true →
        exec (.fragmentListReturn seat sq dst (.data b)) s = .next (modFlight placed i g.seq fun x =>
          { x with
            srcList := g1.srcList, dstList := g1.dstList, lockFrom := s.round + 1, dealFrom := s.round, reads := left }))
      ∧ (∀ o, listsIn g1 = true → worst (listFails g.desc g1.srcList g1.dstList) = some o → haltPast s i = false →
        ∃ t, exec (.fragmentListReturn seat sq dst (.data b)) s = .next t
          ∧ Ends (modFlight placed i g.seq fun x =>
            { x with
              srcList := g1.srcList, dstList := g1.dstList, lockFrom := s.round + 1, dealFrom := s.round, reads := left })
            t i g.seq ⟨o.1, o.2, s.round, false⟩)
      ∧ ((d, e) ∈ [(.poisoned, 2), (.refused, 4), (.timeout, 5)] →
        exec (.fragmentListReturn seat sq dst d) s = .next (dmaHalt (modFlight s i g.seq fun x =>
          { x with reads := g.reads.filter fun r => decide (r.kind ≠ kind) }) i g e)))

/-- STAGING_RESERVATION and PAYLOAD_READ_RETURN (R43, R56, R57, R85, R109, R111, R171, R183): a segment's tricks are
reserved when the order and the limit of its seat, the pool and the rotation allow, and its host input is asked for; an
engine reservation above the limit completes with BOUNDS 0xFFFE; host input that returns is staged in the reserved
tricks, an expected value in the last of them; a read that fails halts the seat. A descriptor read from and written to
host memory reserves two tricks for each trick it carries. Where the manual leaves a point open the clauses rest on the
model's own choices: log entries 12, 18, 74. -/
def Obligations.Staging : Prop :=
  (∀ (seat : Fin 8192) (sq : Nat) (s : State) (g : Flight) (b : Bytes) (d : HostData) (e : BitVec 16),
    let i := seat.val
    let a := needIn g g.nextSeg
    let n := a + needOut g g.nextSeg
    let v := padTo (hostBytes (segSpans g g.nextSeg)) b
    let w := padTo (expectBytes g) b
    let without (k : ReadKind) := g.reads.filter fun r => decide (r.kind ≠ k)
    running s = true →
    (Names s i sq g (fun h => h.decided.isNone && stages h.desc && listsIn h && !h.reserved
        && decide (h.nextSeg < segCount h.desc)) → seatLive s i = true →
      (opClass g.desc.op = .engine → (getSeat s i).stageLim < n →
        ∃ t, exec (.stagingReservation seat sq) s = .next t ∧ Ends s t i g.seq ⟨.bounds, 0xFFFE, s.round, false⟩)
      ∧ (¬(opClass g.desc.op = .engine ∧ (getSeat s i).stageLim < n) →
        n = 0 ∨ (n ≤ poolFree s ∧ seatLets s i g n = true ∧ poolTurn s i n = true) →
        exec (.stagingReservation seat sq) s =
          .next (modFlight (tagPlaces s (poolTake s n) (getSeat s i).suit) i g.seq fun x =>
            { x with
              resvIn := (poolTake s n).take a, resvOut := (poolTake s n).drop a, reserved := true
              reads := x.reads ++ stageReqs s (getSeat s i).bind g g.nextSeg })))
    ∧ (Names s i sq g (fun h => h.decided.isNone && (h.reserved || isCeremony h.desc.op)
        && (decide (0 < hostBytes (segSpans h h.nextSeg)) && h.input.isNone)) →
      exec (.payloadReadReturn seat sq false (.data b)) s = .next (modFlight (stagePut s g.resvIn v) i g.seq
        fun x => { x with input := some v, dealFrom := s.round, reads := without .payload })
      ∧ ((d, e) ∈ [(.poisoned, 3), (.refused, 4), (.timeout, 5)] → exec (.payloadReadReturn seat sq false d) s =
        .next (dmaHalt (modFlight s i g.seq fun x => { x with reads := without .payload }) i g e)))
    ∧ (Names s i sq g (fun h => h.decided.isNone && (h.reserved || isCeremony h.desc.op)
        && (wantsExpected h && h.expected.isNone)) →
      exec (.payloadReadReturn seat sq true (.data b)) s =
        .next (modFlight (stagePut s (g.resvIn.drop (g.resvIn.length - 1)) w) i g.seq
          fun x => { x with expected := some w, dealFrom := s.round, reads := without .expected })
      ∧ ((d, e) ∈ [(.poisoned, 3), (.refused, 4), (.timeout, 5)] → exec (.payloadReadReturn seat sq true d) s =
        .next (dmaHalt (modFlight s i g.seq fun x => { x with reads := without .expected }) i g e))))
  ∧ ∀ g : Flight, opClass g.desc.op = .cipher → g.srcList = none → g.dstList = none → g.desc.srcKitty = false →
      g.desc.dstKitty = false → g.desc.result = 0 → 0 < g.desc.l → g.desc.l ≤ g.desc.cap → g.nextSeg < segCount g.desc →
      needIn g g.nextSeg + needOut g g.nextSeg = 2 * segTricks g.desc g.nextSeg

/-- COMPLETION_WRITE (R86, R106, R107): in a round after its status was decided, with its slots released, its output
issued and room in the completion ring, and no entry before it still to come, the next descriptor leaves flight; its 16-byte entry goes to CQ base + 16 x CQ_TAIL; CQ_TAIL moves on
modulo the ring; PHASE inverts when it wraps to 0. Where the manual leaves a point open the clauses rest on the
model's own choices: log entry 66. -/
def Obligations.CompletionEntry : Prop :=
  ∀ (seat : Fin 8192) (s : State) (g : Flight) (d : Decided),
    let i := seat.val
    let x := getSeat s i
    let tail := (x.cqTail + 1) % 2 ^ x.cqLog2.toNat
    let entry : LinkWrite :=
      { func := x.bind, addr := x.cqBase + BitVec.ofNat 64 (16 * x.cqTail)
        data := natLe 2 g.sq ++ natLe 2 x.sqHead ++ natLe 1 d.status.code
          ++ natLe 1 ((if x.phase then 1 else 0) + 2 * (if d.house then 1 else 0)) ++ natLe 2 d.detail.toNat
          ++ natLe 8 d.round
        kind := .completion, issued := s.round }
    nextDone x.flights = some g → g.decided = some d → running s = true → d.round < s.round →
    released s g = true → tail ≠ x.cqSeen → undrained s i g.seq = false → inTurn s i g d.round = true →
    ∃ t, exec (.completionWrite seat) s = .next t
      ∧ (getSeat t i).cqTail = tail
      ∧ (getSeat t i).phase = (if tail = 0 then !x.phase else x.phase)
      ∧ (getSeat t i).flights = x.flights.filter (fun h => h.seq != g.seq)
      ∧ (∀ j, j ≠ i → getSeat t j = getSeat s j)
      ∧ (∃ more, sget [] t.link.queue (plKey x.bind) = sget [] s.link.queue (plKey x.bind) ++ entry :: more)
      ∧ t.mem = s.mem

/-- COAL_TIMER_EXPIRY, DRAIN_END, LINK_WRITE_DEPART and VECTOR_UNMASK (R76, R86, R90, R110). Where the manual leaves a
point open the clauses rest on the model's own choices: log entries 85, 125, 156. -/
def Obligations.RingEvents : Prop :=
  ∀ (seat : Fin 8192) (port link : Fin 2) (f : Func) (vec : BitVec 11) (a : BitVec 64) (dw : BitVec 32) (s : State)
    (w : LinkWrite) (rest : List LinkWrite) (o : Round),
    let i := seat.val
    let x := getSeat s i
    let k := 2 * port.val + link.val
    let key := 2048 * fkey f + vec.toNat
    (running s = true → standbyHold s = false → x.irqEn.at_ s.round = true → x.oldest = some o → 0 < x.coalTime.at_ s.round →
      o + x.coalTime.at_ s.round ≤ s.round →
      exec (.coalTimerExpiry seat) s =
        .next (sendMsi (setSeat s i { x with unsig := 0, oldest := none }) x.bind (x.irqVec.at_ s.round)))
    ∧ (seatState s x = .draining → x.flights = [] → x.fetches = [] →
      exec (.drainEnd seat) s = .next (setSeat s i { x with ctrl := x.ctrl ++ [.drained] }))
    ∧ (x.ctrl = [.drained] → seatState s x = .draining → ctrlTurn s i = setSeat s i { x with
        ctrl := [], prevSt := .draining, st := (if x.pend then .run else .armed), stFrom := s.round, pend := false })
    ∧ (sget [] s.link.queue k = w :: rest → sget 0 s.link.used k + writeSize w ≤ linkRoom s port.val link.val →
      ∃ t, exec (.linkWriteDepart port link) s = .next t ∧ sget [] t.link.queue k = rest
        ∧ sget none t.link.left k = some w ∧ (∀ j, j ≠ k → sget [] t.link.queue j = sget [] s.link.queue j)
        ∧ { t with link := s.link } = s)
    ∧ (hostOk s f = true → vec.toNat < msixSize s f → sget false s.link.msiPend key = false →
      exec (.vectorUnmask f ⟨vec, a, dw⟩) s = .next { s with link := { s.link with
        unmasked := sput false s.link.unmasked key true, msix := sput ⟨0, 0⟩ s.link.msix key ⟨a, dw⟩ } })
    ∧ (hostOk s f = true → vec.toNat < msixSize s f → sget false s.link.msiPend key = true →
      ∃ t, exec (.vectorUnmask f ⟨vec, a, dw⟩) s = .next t ∧ sget false t.link.msiPend key = false
        ∧ sget [] t.link.queue (plKey f) = sget [] s.link.queue (plKey f)
          ++ [{ func := f, addr := a, data := natLe 4 dw.toNat, kind := .msix vec, issued := s.round }])

/-! ## Rounds, waits and locks (chapters 02, 03, 04) -/

/-- ROUND_TICK (R38, R39, R344, R377): a round boundary counts one round; two rounds after an accepted STANDBY request
CLK_CORE stops with the shoe flushed; with CLK_CORE stopped ROUND_COUNT holds, and, where no tamper source has
qualified and none is to start afresh, only the always-on clock, the session timer and the boot timer go on. -/
def Obligations.RoundBoundary : Prop :=
  ∀ (env : RoundEnv) (s : State),
    let u := quietTurn (endRound s env)
    (running s = true → u.power.resetReq = false → standbyDue u = false →
      ∃ t, exec (.roundTick env) s = .next t ∧ t.round = s.round + 1)
    ∧ (running s = true → u.power.resetReq = false → standbyDue u = true →
      ∃ t, exec (.roundTick env) s = .next t ∧ t.round = s.round ∧ t.power.st = .standby ∧ running t = false
        ∧ t.rng.level = 0 ∧ t.rng.st = .startup)
    ∧ (running s = false → (quietTurn (tripTurn s)).power.resetReq = false →
      ∃ t, exec (.roundTick env) s = .next t ∧ t.round = s.round)
    ∧ (running s = false → s.power.resetReq = false → s.aon.due = 0 → s.aon.restart = 0 → s.aon.rearm = 0 → s.aon.test = none →
      exec (.roundTick env) s = .next { s with
        aon := (if s.power.main ∨ s.power.cell then rtcStep s.aon else s.aon)
        quorum := { s.quorum with timer := (if s.quorum.st = .idle then s.quorum.timer else s.quorum.timer + 1) }
        power := { s.power with
          bootRounds := (if 1 ≤ s.power.phase ∧ s.power.phase ≤ 7 then s.power.bootRounds + 1 else s.power.bootRounds) } })
    ∧ (s.aon.rtcAcc < 25000000 → s.aon.rtcFrac.toNat < 32768 → rtcTotal s.aon + 32768 < 2 ^ 47 * 25000000 →
      rtcTotal (rtcStep s.aon) = rtcTotal s.aon + 32768 ∧ (rtcStep s.aon).rtcAcc < 25000000)

/-- HAND_WAIT_EXPIRY and RNG_WAIT_EXPIRY (R63, R192, R243): a hold still on when HAND_WAIT_LIMIT rounds have passed since
its first fails its descriptor with HAND_BUSY, decided in the last of them; a wait for blocks that began in round w ends
in round w + limit - 1 with RNG_UNAVAILABLE; a request queued in an engine leaves it. -/
def Obligations.WaitsExpire : Prop :=
  ∀ (seat : Fin 8192) (sq : Nat) (deck : Fin 16) (s : State) (g : Flight) (w : Round) (tk : Ticket) (rest : List Ticket),
    let i := seat.val
    let k := deck.val
    let lim := s.rng.waitLim.at_ s.round
    let e := getEngine s k
    (Names s i sq g (fun h => h.decided.isNone && h.expired.isSome) → g.expired = some w → running s = true →
      ∃ t, exec (.handWaitExpiry seat sq) s = .next t
        ∧ Ends (releaseFlight s g.seq) t i g.seq ⟨.handBusy, 0, w, isService g.desc.op⟩)
    ∧ (∀ h r, h ∈ (getSeat s i).flights → h.heldFrom = some r → h.expired = none →
      isHeld s i h = true ∨ haltedHeld s i h = true →
      { h with expired := if r + s.dealer.waitLim ≤ s.round then some (s.round - 1) else none }
        ∈ (getSeat (dropHolds s i) i).flights)
    ∧ (Names s i sq g (fun h => h.decided.isNone && h.granted.isNone && h.waitFrom.isSome) → g.waitFrom = some w →
      w + lim - 1 ≤ s.round →
      ∃ t, exec (.rngWaitExpiry (.flight seat sq)) s = .next t
        ∧ Ends s t i g.seq ⟨.rngUnavailable, 0, w + lim - 1, decide (g.desc.op ≠ 0x60)⟩)
    ∧ (e.queue = tk :: rest → tk.waitFrom = some w → w + lim - 1 ≤ s.round →
      ∃ t, exec (.rngWaitExpiry (.engine deck)) s = .next t
        ∧ Ends (setEngine s k { e with queue := rest, tickets := e.tickets - 1 }) t tk.seat tk.seq
          ⟨.rngUnavailable, 0, w + lim - 1, false⟩)

/-- SEGMENT_FINAL_ROUND (R45, R61, R153, R154): the oldest segment of a lane in its final round ends. A refused one,
and the last of its descriptor, post a status decided in the final round; one that is not the last lets the next be
dealt two rounds later; one that handed its request to an engine posts nothing. APPLET (R142, R155, R156): an applet's
segment begins in its first round; in its final round it posts ABORTED where the kernel had to take the core (its
outcome then), and else the status and DETAIL that RESULT held at the start of the round; with GO at 1 and DONE as the
round began it issues the request in its window instead (R203). Where the manual leaves a point open the clauses rest on
the model's own choices: log entries 70, 144. -/
def Obligations.SegmentsEnd : Prop :=
  (∀ (lane : Fin 128) (s : State) (b : Binding) (f : Status × BitVec 16),
        let l := lane.val
        let u := modBind s l b fun c => { c with posted := true }
        (getLane s l).binds.find? (fun c => !c.posted && decide (c.final ≤ s.round)) = some b → b.toHand = none →
        (b.refused = some f → ∃ t v, exec (.segmentFinalRound lane) s = .next t ∧ Ends u v b.seat b.seq ⟨f.1, f.2, b.final, false⟩
          ∧ { t with records := s.records } = { v with records := s.records })
        ∧ (b.refused = none → b.handOff = true → exec (.segmentFinalRound lane) s = .next u)
        ∧ (b.refused = none → b.handOff = false → b.applet = false → b.played = true → b.seg + 1 ≠ segCount b.desc →
          ∃ t, exec (.segmentFinalRound lane) s = .next t
            ∧ getSeat t b.seat = { getSeat s b.seat with flights := (getSeat s b.seat).flights.map fun g =>
                if g.seq = b.seq then { g with running := false, dealFrom := b.final + 2, outPos := b.outBase + b.out.length }
                else g }
            ∧ { t with seats := s.seats, records := s.records, prot := s.prot } =
              { u with seats := s.seats, records := s.records }
            ∧ (t.prot = s.prot ∨ ∃ k, b.record = some k ∧ WordsWritten s t (wkeys (recAddr k) 512)))
        ∧ (b.refused = none → b.handOff = false → b.applet = false → b.played = true → b.seg + 1 = segCount b.desc →
          b.outcome = some f →
          ∃ t v, exec (.segmentFinalRound lane) s = .next t ∧ Ends u v b.seat b.seq ⟨f.1, f.2, b.final, false⟩
            ∧ { t with records := s.records, prot := s.prot } = { v with records := s.records }
            ∧ (t.prot = s.prot ∨ ∃ k, b.record = some k ∧ WordsWritten s t (wkeys (recAddr k) 512))
            ∧ (b.role.closes = true → ∀ k, b.record = some k → getRec t k = none)))
  ∧ ∀ (lane : Fin 128) (s : State) (b : Binding) (f : Status × BitVec 16),
      let l := lane.val
      let ln := getLane s l
      let u := modBind s l b fun c => { c with posted := true }
      ln.binds.find? (fun c => !c.posted && c.applet && c.loaded && c.refused.isNone && decide (c.first ≤ s.round)) = some b →
      b.toHand = none →
      (s.round < b.final → exec (.applet lane) s = .next (modBind s l b fun c => { c with played := true }))
      ∧ (b.final ≤ s.round → b.handOff = false →
        (b.outcome = some f ∨ (b.outcome = none ∧ f = (Status.ofCode (fld ln.resultAt 31 24), BitVec.ofNat 16 (fld ln.resultAt 15 0)))) →
        (ln.pkrAt.go = false ∨ f.1 ≠ .done →
          ∃ t, exec (.applet lane) s = .next t ∧ Ends u t b.seat b.seq ⟨f.1, f.2, b.final, false⟩)
        ∧ (ln.pkrAt.go = true → f.1 = .done → rawFails s b ln.pkrAt = [] →
          exec (.applet lane) s
            = .next (modBind (issueTicket s l b (some ln.pkrAt) []) l b fun c => { c with posted := true })))
      ∧ (b.final ≤ s.round → b.handOff = true → exec (.applet lane) s = .next u)

/-- KITTY_LOCK (R118, R122): a descriptor's slots are locked whole when each is DEVICE for its seat, each flag word
counting one; with one that is neither that nor locked by an earlier descriptor of the seat the descriptor ends with
BOUNDS and the lowest such slot; a slot whose cycle the host took in this round puts the lock off by a round. -/
def Obligations.KittyLocks : Prop :=
  ∀ (seat : Fin 8192) (sq : Nat) (s : State) (g : Flight) (k : Nat),
    let i := seat.val
    let ks := kittyNamed g
    let mine (k : Nat) : Prop := (getFlag s k).owner = 2 ∧ (getFlag s k).seat.toNat = i
    let waits (k : Nat) : Prop := (getFlag s k).owner = 3 ∧ (getFlag s k).seat.toNat = i ∧ sget 0 s.kitty.holder k ≤ g.seq
    running s = true → seatState s (getSeat s i) ≠ .halted →
    Names s i sq g (fun h => h.decided.isNone && h.checked && !h.locked && listsIn h && decide (h.lockFrom ≤ s.round)
      && (kittyNamed h).length != 0) →
    ((∃ k ∈ ks, k ∈ s.kitty.touched) →
      exec (.kittyLock seat sq) s = .next (modFlight s i g.seq fun x => { x with lockFrom := s.round + 1 }))
    ∧ ((∀ k ∈ ks, k ∉ s.kitty.touched) → (∀ k ∈ ks, mine k) →
      ∃ t, exec (.kittyLock seat sq) s = .next t
        ∧ (∀ k, getFlag t k = if k ∈ ks then { getFlag s k with owner := 3, seq := (getFlag s k).seq + 1 } else getFlag s k)
        ∧ getSeat t i = { getSeat s i with flights := (getSeat s i).flights.map fun x =>
            if x.seq = g.seq then { x with locked := true } else x }
        ∧ { t with seats := s.seats, kitty := s.kitty } = s)
    ∧ ((∀ k ∈ ks, k ∉ s.kitty.touched) → k ∈ ks → ¬mine k → ¬waits k → (∀ j ∈ ks, j < k → mine j ∨ waits j) →
      ∃ t, exec (.kittyLock seat sq) s = .next t
        ∧ Ends s t i g.seq ⟨.bounds, BitVec.ofNat 16 (0x1000 + k), s.round, false⟩)

/-! ## Registers (chapters 01, 14 and each block's own) -/

/-- The fourteen registers that a read clears (R6, R7, R9): a whole read answers the register and leaves it zero, and
nothing else changes; a read that breaks R6 answers it without that effect and sets REG_ACCESS_ERR; a virtual function
reads zero of all but its own DB_DISCARD_CNT, and clears nothing. -/
def Obligations.ReadsThatClear : Prop :=
  ∀ (f : Func) (s : State), hostOk s f = true →
    (∀ p ∈ clearedByRead f true, f.vf = 0 ∨ p.2 = 0x70004 →
      ∃ t, exec p.1 s = .next t ∧ t.answer = .word (regView s f p.2).1 ∧ (regView t f p.2).1 = 0 ∧ countersOf s t = s
        ∧ ∀ q ∈ clearedByRead f true, q.2 ≠ p.2 → (regView t f q.2).1 = (regView s f q.2).1)
    ∧ (∀ p ∈ clearedByRead f false,
      exec p.1 s = .next (regErr { s with answer := .word (regView s f p.2).1 } f p.2))
    ∧ ∀ p ∈ clearedByRead f true, f.vf ≠ 0 → p.2 ≠ 0x70004 → exec p.1 s = .next { s with answer := .word 0 }

/-- LOWER_WORD_READ and UPPER_WORD_READ (R8): a read of the lower word of a pair answers it and holds a copy of the
upper word for its function; the next read of the upper word by that function answers the copy, whatever the live word
is by then, and drops it; without a copy it answers the live word. REGISTER_WRITE, IRQ_STATUS, DEAL_LANE_EN (R6, R7,
R10, R11, R75, R80, R89, R113, R125, R190): a write that breaks R6, of an offset that is reserved, or by a virtual
function to a block it does not write, is discarded with REG_ACCESS_ERR; a register that takes the write holds it,
with the limits its block gives; bits written 1 in IRQ_STATUS clear, but for those the device sets in the same cycle;
DEAL_LANE_EN changes the lanes of its own word alone. Where the manual leaves a point open the clauses rest on the
model's own choices: log entries 94, 108, 109, 110. -/
def Obligations.RegisterAccess : Prop :=
  (∀ (f : Func) (off : Nat) (s : State) (w : Word), hostOk s f = true → f.vf = 0 →
      off ∈ [0x20000, 0x80000, 0xB0018, 0x130008] ∨ (∃ i r, i < 4096 ∧ r ∈ [0x00, 0x08, 0x10] ∧ off = 0x30000 + 64 * i + r)
        ∨ (∃ k, k < 64 ∧ off = 0xF1000 + 32 * k) →
      let key := holdKey s f (off + 4)
      let live := (regView s f (off + 4)).1
      exec (.lowerWordRead f off 4) s = .next { s with
        answer := .word (regView s f off).1, cnt := { s.cnt with holding := sput none s.cnt.holding key (some live) } }
      ∧ (sget none s.cnt.holding key = some w → exec (.upperWordRead f (off + 4) 4) s = .next { s with
        answer := .word w, cnt := { s.cnt with holding := sput none s.cnt.holding key none } })
      ∧ (sget none s.cnt.holding key = none → exec (.upperWordRead f (off + 4) 4) s = .next { s with
        answer := .word live, cnt := { s.cnt with holding := sput none s.cnt.holding key none } }))
  ∧ (∀ (f : Func) (off size i : Nat) (v same : Word) (w : Fin 4) (s : State), Reaches s f →
      (size ≠ 4 ∨ off % 4 ≠ 0 → exec (.registerWrite f off size v) s = .next (regErr s f off))
      ∧ (off % 4 = 0 → (regView s f off).2 = true → exec (.registerWrite f off 4 v) s = .next (regErr s f off))
      ∧ (off % 4 = 0 → f.vf ≠ 0 → off / 0x10000 ∈ [1, 2, 8, 10, 11, 12, 14, 15, 16, 17, 18] →
        exec (.registerWrite f off 4 v) s = .next (regErr s f off))
      ∧ (f.vf = 0 →
        exec (.registerWrite f 0x20010 4 v) s =
          .next { s with dealer := { s.dealer with waitLim := max 1 (v.toNat % 2 ^ 24) } }
        ∧ (i < 256 → exec (.registerWrite f (0x80400 + 4 * i) 4 v) s =
          .next { s with kitty := { s.kitty with limits := sput 4096 s.kitty.limits i (min 4096 (v.toNat % 8192)) } })
        ∧ exec (.registerWrite f 0x120004 4 v) s =
          .next (setIrq s (plKey f) { getIrq s (plKey f) with enable := v &&& 0xFFF00000 })
        ∧ (∃ t, exec (.irqStatus f v same) s = .next t
          ∧ (getIrq t (plKey f)).status =
            ((getIrq s (plKey f)).status &&& ~~~(v &&& 0xFFF00000)) ||| (v &&& same &&& 0xFFF00000)
          ∧ { getIrq t (plKey f) with status := (getIrq s (plKey f)).status } = getIrq s (plKey f)
          ∧ (∀ k, k ≠ plKey f → getIrq t k = getIrq s k) ∧ { t with irq := s.irq, link := s.link } = s)
        ∧ (∃ t, exec (.dealLaneEn f w v) s = .next t ∧ { t with lanes := s.lanes } = s
          ∧ (∀ b, b < 32 → (getLane t (32 * w.val + b)).en = v.getLsbD b)
          ∧ (∀ b, b < 32 → (getLane s (32 * w.val + b)).en = v.getLsbD b →
            getLane t (32 * w.val + b) = getLane s (32 * w.val + b))
          ∧ ∀ l, l / 32 ≠ w.val → getLane t l = getLane s l))
      ∧ (f.vf ≠ 0 → exec (.irqStatus f v same) s = .next (regErr s f 0x120000)
        ∧ exec (.dealLaneEn f w v) s = .next (regErr s f (0x20080 + 4 * w.val))))

/-- What a tenant's function cannot touch (R7, R88, R100, R101): a register write or a doorbell by a virtual function
changes no seat that is not bound to it, no byte of memory, and nothing of the power, fuse, tamper, kitty, lane,
engine, key, random, protection, house, slot or quorum state. -/
def Obligations.VirtualFunctionsKeepToTheirSeats : Prop :=
  ∀ (f : Func) (off size : Nat) (v : Word) (data : Bytes) (s t : State), f.vf ≠ 0 →
    exec (.registerWrite f off size v) s = .next t ∨ exec (.doorbell f off data) s = .next t →
    (∀ i, boundTo s i f = false → getSeat t i = getSeat s i)
    ∧ t.mem = s.mem ∧ t.round = s.round ∧ t.power = s.power ∧ t.fuses = s.fuses ∧ t.aon = s.aon ∧ t.kitty = s.kitty
    ∧ t.dealer = s.dealer ∧ t.lanes = s.lanes ∧ t.records = s.records ∧ t.engines = s.engines ∧ t.keys = s.keys
    ∧ t.rng = s.rng ∧ t.prot = s.prot ∧ t.house = s.house ∧ t.slots = s.slots ∧ t.quorum = s.quorum
    ∧ ∀ g : Func, fkey g ≠ fkey f → sget 0 t.cnt.dbDiscard (fkey g) = sget 0 s.cnt.dbDiscard (fkey g)

/-! ## The kitty (chapter 04) -/

/-- FLAG_WRITE (R114-R118): an aligned word of the flag page. The transitions of R117, and no other, take place, with
SEQ matching, reserved bits zero and SEQ counting one; any other write is counted and changes no flag. A device
transition of the same cycle is undone first: a release is put off to the next round, a lock goes back whole and its
descriptor tries again then. -/
def Obligations.FlagWrites : Prop :=
  ∀ (f : Func) (k : Nat) (data : Bytes) (same : Bool) (s : State), Reaches s f → k < 4096 → data.length = 4 →
    let s1 := if same then undoMove s k else s
    let last := s.kitty.moves.reverse.find? fun m => m.slot == k
    let cur := getFlag s1 k
    let v := leNat data
    let owner := bits v 31 30
    let seat := bits v 12 0
    let legal := bits v 29 16 = cur.seq.toNat ∧ bits v 15 13 = 0 ∧
      (cur.owner = 0 ∧ owner = 1 ∧ boundTo s1 seat f = true ∧ seatState s1 (getSeat s1 seat) ≠ .off
          ∧ slotsHeld s1 f < getLimit s1 (fkey f)
        ∨ boundTo s1 cur.seat.toNat f = true ∧ seat = cur.seat.toNat ∧
          (cur.owner = 1 ∧ owner = 2 ∨ cur.owner = 1 ∧ owner = 0 ∨ cur.owner = 2 ∧ owner = 1))
    (∃ t, exec (.flagWrite f (0x1000000 + 4 * k) data same) s = .next t
      ∧ (∀ j, j ≠ k → getFlag t j = getFlag s1 j)
      ∧ (legal → getFlag t k = ⟨BitVec.ofNat 2 owner, cur.seq + 1, BitVec.ofNat 13 seat⟩ ∧ t.kitty.refused = s.kitty.refused)
      ∧ (¬legal → getFlag t k = cur ∧ t.kitty.refused = satAdd s.kitty.refused 1 ∧ t.prot = s.prot)
      ∧ { t with kitty := s1.kitty, prot := s1.prot } = s1 ∧ (cur.owner ≠ 0 → t.prot = s.prot))
    ∧ (last = none → undoMove s k = s)
    ∧ (∀ m, last = some m → m.lock = none → undoMove s k = { s with kitty := { s.kitty with
        flags := sput .reset s.kitty.flags k m.before, moves := s.kitty.moves.filter fun x => x != m
        putOff := s.kitty.putOff ++ [m] } })
    ∧ ∀ m p, last = some m → m.lock = some p →
        (∀ h, flightBySeq (undoMove s k) m.before.seat.toNat p.1 = some h → h.locked = false ∧ h.lockFrom = s.round + 1)
        ∧ (undoMove s k).kitty.putOff = s.kitty.putOff

/-- SLOT_DATA_READ and SLOT_DATA_WRITE (R84, R119, R120, R301): with every slot touched HOST under a seat of the
function, the suit followed and no word in error, a read answers the bytes of the kitty, and a write changes those
bytes and no other byte of memory; without that, a read answers zeros, and each is counted and sets REG_ACCESS_ERR
with no byte changed. A read of data that holds an uncorrectable error answers poisoned data. -/
def Obligations.SlotData : Prop :=
  ∀ (f : Func) (off len : Nat) (data : Bytes) (s : State), Reaches s f → off < 0x1000000 →
    (slotAllowed s f off len = true → slotSuitOk s off len false = true →
      (∀ k ∈ kittyKeys off len, sget none s.prot.bad k = none) →
      exec (.slotDataRead f off len) s = .next { s with
        answer := .bytes ((List.range len).map fun i => rd s (kittyAddr (off + i))) })
    ∧ (slotAllowed s f off len = false → exec (.slotDataRead f off len) s = .next
        { bar4Err { s with kitty := { s.kitty with deniedC := satAdd s.kitty.deniedC 1 } } f off with
          answer := .bytes (zeros len) })
    ∧ (slotAllowed s f off data.length = true → slotSuitOk s off data.length true = true → 0 < data.length →
      (∀ k ∈ kittyKeys off data.length, sget none s.prot.bad k = none) →
      ∃ t, exec (.slotDataWrite f off data) s = .next t
        ∧ (∀ i (h : i < data.length), rd t (kittyAddr (off + i)) = data[i])
        ∧ (∀ a, (∀ i, i < data.length → a ≠ kittyAddr (off + i)) → rd t a = rd s a)
        ∧ { t with mem := s.mem, prot := s.prot } = s)
    ∧ (slotAllowed s f off data.length = false → 0 < data.length → exec (.slotDataWrite f off data) s = .next
        (bar4Err { s with kitty := { s.kitty with deniedC := satAdd s.kitty.deniedC 1 } } f off))
    ∧ (slotAllowed s f off len = true → slotSuitOk s off len false = false → ∃ t, exec (.slotDataRead f off len) s = .next t
      ∧ t.answer = .bytes (zeros len) ∧ t.mem = s.mem ∧ t.kitty.deniedC = satAdd s.kitty.deniedC 1
      ∧ t.prot.suitCnt = satAdd s.prot.suitCnt 1 ∧ bit (getIrq t (plKey f)).status 31 = true)
    ∧ (slotAllowed s f off data.length = true → slotSuitOk s off data.length true = false → 0 < data.length →
      ∃ t, exec (.slotDataWrite f off data) s = .next t ∧ t.mem = s.mem ∧ t.kitty.deniedC = satAdd s.kitty.deniedC 1
        ∧ t.prot.suitCnt = satAdd s.prot.suitCnt 1 ∧ bit (getIrq t (plKey f)).status 31 = true)
    ∧ (slotAllowed s f off len = true → slotSuitOk s off len false = true →
      (∃ k ∈ kittyKeys off len, sget none s.prot.bad k = some true) →
      ∃ t, exec (.slotDataRead f off len) s = .next t ∧ t.answer = .poison ∧ t.mem = s.mem)
    ∧ (∀ n, slotAllowed s f off n = true ↔ ∀ i, i < n →
      (off + i) / 4096 < 4096 ∧ (getFlag s ((off + i) / 4096)).owner = 1
      ∧ boundTo s (getFlag s ((off + i) / 4096)).seat.toNat f = true)
    ∧ ∀ u : State, bit (getIrq (bar4Err u f off) (plKey f)).status 31 = true

/-! ## The public-key engines (chapter 07) -/

/-- ENGINE_START, ENGINE_OPERATION_END, ENGINE_COLLECT (R177, R191, R197, R198, R201, R204): a start whose load passed
becomes the running operation with its blocks; an operation that has run its E rounds leaves the engine with operand
memory clear, its errors met and gone, and waits for its collect, a range or point refusal being counted, the output tricks not yet unloaded being
written; under a freeze its status is decided in the freeze round instead; the collect posts its status in the collect's
round and returns the ticket. Where the manual leaves a point
open the clauses rest on the model's own choices: log entries 4, 91, 149. -/
def Obligations.EngineTurns : Prop :=
  ∀ (deck : Fin 16) (s : State) (st : Start) (x : Running) (o : Status × BitVec 16) (l : Nat) (c : Round)
    (cs : List (Nat × Round)) (fin : Finished) (fs : List Finished),
    let k := deck.val
    let e := getEngine s k
    let bl := e.blind.at_ st.s
    let errs := operandErrs s k
    let met := touchWords s errs
    running s = true →
    (e.start = some st → e.run = none → st.loaded = true → st.refused = none → st.s ≤ s.round →
      exec (.engineStart deck) s = .next (setEngine s k { e with
          start := none, mask := some (Config.opMask (st.blocks.take 2)), zeroed := false
          run := (some { ticket := st.ticket, s := st.s, e := ticketE st.ticket bl 0, key := st.key
                         blocks := st.blocks, blind := bl, played := false, outcome := none, out := []
                         sent := 0, toHand := none }) }))
    ∧ (e.run = some x → x.ticket.raw = none → x.played = true → x.outcome = some o → o.1 ≠ .done → x.s + x.e ≤ s.round →
      operandBad s k = [] → o.1 ≠ .eccUncorrectable → s.dealer.frozen = false →
      ∃ t, exec (.engineOperationEnd deck) s = .next t
        ∧ getEngine t k = { e with
            run := none, mask := none, zeroed := true, cleared := true, freeAt := x.s + x.e
            ended := e.ended ++ [{ ticket := { x.ticket with resvIn := [], resvOut := [] }, ended := x.s + x.e
                                   status := o.1, detail := o.2, toHand := none }] }
        ∧ t.cnt.pkeInvalid =
            (if o.1 = .rangeInvalid ∨ o.1 = .pointInvalid then satAdd s.cnt.pkeInvalid 1 else s.cnt.pkeInvalid)
        ∧ { t with engines := s.engines, cnt := s.cnt, prot := met.prot } = met ∧ WordsWritten met t errs)
    ∧ (e.run = some x → x.ticket.raw = none → x.played = true → x.outcome = some o → o.1 = .done → x.s + x.e ≤ s.round →
      operandBad s k = [] → s.dealer.frozen = false →
      let r := unload met x.ticket o (64 * x.sent) (x.out.drop (64 * x.sent))
      r.2 = false →
      ∃ t, exec (.engineOperationEnd deck) s = .next t
        ∧ getEngine t k = { e with
            run := none, mask := none, zeroed := true, cleared := true, freeAt := x.s + x.e
            ended := e.ended ++ [{ ticket := { x.ticket with resvIn := [], resvOut := [] }, ended := x.s + x.e
                                   status := o.1, detail := o.2, toHand := x.toHand }] }
        ∧ { t with engines := s.engines, cnt := s.cnt, prot := s.prot } = { r.1 with prot := s.prot }
        ∧ WordsWritten r.1 t errs)
    ∧ (e.run = some x → x.ticket.raw = none → x.played = true → x.outcome = some o → o.1 ≠ .done → x.s + x.e ≤ s.round →
      operandBad s k = [] → o.1 ≠ .eccUncorrectable → s.dealer.frozen = true → e.ended = [] →
      ∃ t, exec (.engineOperationEnd deck) s = .next t
        ∧ Ends (modEngine (countEnd (zeroOperand met k) x.ticket o) k fun e => { e with
            run := none, mask := none, ended := [], colls := [], freeAt := x.s + x.e, tickets := e.tickets - 1 })
          t x.ticket.seat x.ticket.seq ⟨o.1, o.2, s.dealer.frozeAt, false⟩)
    ∧ (e.colls = (l, c) :: cs → e.ended = fin :: fs → fin.toHand = none → c ≤ s.round →
      ∃ t, exec (.engineCollect deck) s = .next t
        ∧ Ends (setEngine s k { e with colls := cs, ended := fs, made := e.made ++ [(l, c)], tickets := e.tickets - 1 }) t fin.ticket.seat
          fin.ticket.seq ⟨fin.status, fin.detail, c, false⟩)

/-- The engine opcodes (R177, R189, R193-R196): on the operation its engine runs, each works out its status, DETAIL,
output and hand value, and with them the duration; on any other operation it does nothing. Nothing but that engine
changes. Where the manual leaves a point open the clauses rest on the model's own choices: log entries 14, 16. -/
def Obligations.EngineOperations : Prop :=
  ∀ (deck : Fin 16) (s : State) (x : Running),
    let k := deck.val
    ∀ p ∈ engineOps deck,
      ((getEngine s k).run = some x → x.played = false → x.ticket.raw = none → x.ticket.desc.op = p.2.1 →
        ∃ t y, exec p.1 s = .next t ∧ getEngine t k = { getEngine s k with run := some y }
          ∧ y = { x with
              e := y.e, played := true, outcome := some ((p.2.2 x).st, (p.2.2 x).detail), out := (p.2.2 x).out
              toHand := (p.2.2 x).hand }
          ∧ (p.2.1 ≠ 0x44 → y.e = engineE x.ticket.desc x.blind 0)
          ∧ (∀ j, j ≠ k → getEngine t j = getEngine s j) ∧ { t with engines := s.engines } = s)
      ∧ ((getEngine s k).run = some x → x.ticket.desc.op ≠ p.2.1 → exec p.1 s = .next s)
      ∧ ((getEngine s k).run = none → exec p.1 s = .next s)

/-- The arithmetic of the engines (R179, R187, R193, R202, R208): exponentiation is the power modulo m; with inputs in
range RSA_PUBLIC answers v^e mod n and DH_DERIVE the power of the peer's value, each in the width of its modulus, and
out of range RANGE_INVALID; the raw operations answer sum, difference, product and power modulo an odd m of full size.
Where the manual leaves a point open the clauses rest on the model's own choices: log entry 14. -/
def Obligations.EngineArithmetic : Prop :=
  (∀ b e m : Nat, modPow b e m = b ^ e % m)
  ∧ (∀ x : Running,
    let d := x.ticket.desc
    let n := rsaN d x.ticket.input
    let e := rsaE d x.ticket.input
    let v := beNat (rsaRest d x.ticket.input)
    let w := 8 * rsaBytes d
    let legal := n % 2 = 1 ∧ 2 ^ (w - 1) ≤ n ∧ n < 2 ^ w ∧ e % 2 = 1 ∧ 65537 ≤ e ∧ e < 2 ^ 32 ∧ 0 < v ∧ v < n
    (legal → opRsaPublic x = ⟨.done, 0, natBe (rsaBytes d) (v ^ e % n), none⟩)
    ∧ (¬legal → opRsaPublic x = ⟨.rangeInvalid, 0, [], none⟩))
  ∧ (∀ x : Running,
    let g := x.ticket.desc.modeLo
    let p := dhPrime g
    let y := beNat x.ticket.input
    (2 ≤ y ∧ y ≤ p - 2 → opDhDerive x =
      ⟨.done, 0, [], some (natBe (groupBytes g) (y ^ beNat ((x.key.getD []).take (groupBytes g)) % p))⟩)
    ∧ (¬(2 ≤ y ∧ y ≤ p - 2) → opDhDerive x = ⟨.rangeInvalid, 0, [], none⟩))
  ∧ ∀ (x : Running) (p : Pkr),
    let n := 8 * p.words.toNat
    let m := beNat (p.m.take n)
    let a := beNat (p.a.take n)
    let b := beNat (p.b.take n)
    m % 2 = 1 → 2 ^ (8 * n - 64) ≤ m → a < m → b < m →
    (p.op = 1 → opRaw x p = ⟨.done, 0, natBe n ((a + b) % m), none⟩)
    ∧ (p.op = 2 → ∃ r, opRaw x p = ⟨.done, 0, natBe n r, none⟩ ∧ r < m ∧ (r + b) % m = a)
    ∧ (p.op = 3 → opRaw x p = ⟨.done, 0, natBe n (a * b % m), none⟩)
    ∧ (p.op = 4 → opRaw x p = ⟨.done, 0, natBe n (a ^ b % m), none⟩)

/-! ## Random bits, the key store's erase, tamper (chapters 08, 09, 13) -/

/-- The RNG's own commands (R231, R232, R234-R238, R244, R246): a compressor that has absorbed 512 samples gives its
word to the pool of eight; a source that has passed its startup test is healthy; a seed takes three words of two
sources or more; an instantiation or reseed takes 16 rounds and ends in the update of CTR_DRBG with its seed; a request
gives AES-256 of the four counts after V, four times, then the update; it counts toward the reseed interval, past which an
expander goes for a seed unless the other one is at it; after 4,096 rounds at 384 the interval halves. Where the manual
leaves a point open the clauses rest on the model's own choices: log entries 4, 15. -/
def Obligations.RandomBitGenerator : Prop :=
  (∀ (src : Fin 4) (b : Bool) (s : State) (ws p : List PoolWord),
    let x := getSource s src.val
    let g := s.rng
    let e := if b then g.expB else g.expA
    let o := if b then g.expA else g.expB
    let out (q : List PoolWord) (e o : Expander) : Out :=
      .next { s with rng := { g with pool := q, expA := (if b then o else e), expB := (if b then e else o) } }
    let free (e : Expander) : Prop := e.st ≠ .instantiating ∧ e.st ≠ .reseeding
    (x.healthy = true → x.absorbed = 512 → ∃ t, exec (.conditionedWord src) s = .next t
      ∧ getSource t src.val = { x with absorbed := 0 } ∧ (∀ j, j ≠ src.val → getSource t j = getSource s j)
      ∧ t.rng.pool = poolPut g.pool ⟨src.val, x.lfsr, s.round⟩
      ∧ { t with rng := { t.rng with src := g.src, pool := g.pool } } = s)
    ∧ (x.on = true → x.healthy = false → x.lockout = false → x.startup = 0 →
      ∃ t, exec (.sourceStartupEnd src) s = .next t ∧ getSource t src.val = { x with healthy := true }
        ∧ (∀ j, j ≠ src.val → getSource t j = getSource s j)
        ∧ t.rng.pool = (if g.st = .failed ∧ healthyCount t = 2 then [] else g.pool)
        ∧ (t.rng.st = .run ↔ g.st = .run ∨ (g.st = .startup ∧ (∀ j, j < 4 → (getSource t j).healthy ∨ (getSource t j).lockout)
            ∧ 2 ≤ healthyCount t ∧ g.expA.st = .ready ∧ g.expB.st = .ready))
        ∧ { t with rng := s.rng, irq := s.irq, link := s.link } = s)
    ∧ (takeSeed g.pool = some (ws, p) → e.st = .empty → (b = true → g.expA.st = .ready ∧ g.expA.until_ ≤ s.round) →
      (b = false → free g.expB) → g.st ≠ .run → 2 ≤ healthyCount s → running s = true →
      exec (.expanderInstantiate b) s =
        out p { Expander.reset with st := .instantiating, until_ := s.round + 16, seed := seedBytes ws } o)
    ∧ (takeSeed g.pool = some (ws, p) → e.st = .waitSeed → free o → running s = true →
      exec (.expanderReseed b) s = out p { e with st := .reseeding, until_ := s.round + 16, seed := seedBytes ws } o)
    ∧ (takeSeed g.pool = some (ws, p) → ws.length = 3 ∧ p.length + 3 = g.pool.length ∧ p.Sublist g.pool
      ∧ (∀ w ∈ ws, w ∈ g.pool) ∧ ∃ i ∈ ws, ∃ j ∈ ws, i.src ≠ j.src)
    ∧ (¬free e → e.until_ ≤ s.round → g.st ≠ .startup →
      exec (.seedOperationEnd b) s = out g.pool { drbgUpdate e e.seed with st := .ready, reqs := 0, part := 0, seed := [] }
        (if g.interval ≤ o.reqs ∧ o.part = 0 ∧ o.st = .ready then { o with st := .waitSeed } else o))
    ∧ (e.st = .ready → e.part = 4 → (b = false ∨ o.part ≠ 4) →
      exec (.generateRequest b) s = out g.pool
        { drbgUpdate e (zeros 48) with
          reqs := e.reqs + 1, part := 0
          st := (if g.interval ≤ e.reqs + 1 ∧ o.st ≠ .reseeding ∧ o.st ≠ .waitSeed then .waitSeed else .ready) } o)
    ∧ (4096 ≤ g.high →
      exec .reseedHalving s = .next { s with rng := { g with interval := max 1024 (g.interval / 2), high := 0 } }))
  ∧ (∀ (e : Expander), e.v.length = 16 →
      let count (j : Nat) : Bytes := natBe 16 ((beNat e.v + j) % 2 ^ 128)
      (drbgBlocks e).2 = (List.range 4).map (fun j => BitVec.ofNat 128 (beNat (aesEnc e.key (count (j + 1)))))
      ∧ (drbgBlocks e).1 = { e with v := count 4 }
      ∧ ∀ d : Bytes, (drbgUpdate e d).key ++ (drbgUpdate e d).v
        = xorBytes (aesEnc e.key (count 1) ++ aesEnc e.key (count 2) ++ aesEnc e.key (count 3)) d)
  ∧ ∀ (p : List PoolWord) (w : PoolWord), p.length ≤ 8 →
      (poolPut p w).length = min 8 (p.length + 1) ∧ (p.length < 8 → (poolPut p w).Perm (w :: p))
      ∧ ((∀ c ∈ p, c.at_ ≠ w.at_ ∨ c.src < w.src) → poolPut p w = (if p.length = 8 then p.drop 1 else p) ++ [w])

/-- ZEROISE, WIPE_END, REARM, REARM_COMPLETE (R60, R74, R214, R224, R227, R243): an erase asked for happens in the next
round; the wipe ends 16,386 rounds after it; a rearm is accepted when the store is not READY, nothing is left to wipe,
ROOT_VALID is 1 and none is pending, and takes 3 blocks of the shoe at once, ahead of the sheet of the round, whose cover
refresh gives its own back; one round after its blocks are reserved the store is READY with both keys formed. Where the
manual leaves a point open the clauses rest on the model's own choices: log entries 15, 93. -/
def Obligations.KeyStoreCommands : Prop :=
  ∀ (f : Func) (s : State) (r : Round) (h : Sheet),
    let legal := s.keys.ready = false ∧ s.keys.wipeLeft = 0 ∧ s.keys.wipeFault = false ∧ s.keys.rearm = none
      ∧ s.power.phase ≠ 9 ∧ s.aon.rootValid = true
    let taking (t : State) (bs : List (BitVec 128)) : Prop :=
      t.keys = { s.keys with rearm := some s.round, rearmRes := some s.round, rearmBlk := bs.take 3 } ∧ t.rng.shoe = bs.drop 3
    (Reaches s f → f.vf = 0 →
      exec (.zeroise f) s = .next { s with keys := { s.keys with zeroAt := some (s.round + 1) } }
      ∧ (legal → s.keys.rearmRes = none → s.rng.st = .run → 3 ≤ s.rng.shoe.length → ∃ t, exec (.rearm f) s = .next t
        ∧ taking t s.rng.shoe ∧ t.rng.resv = s.rng.resv + 3 ∧ { t with keys := s.keys, rng := s.rng } = s)
      ∧ (legal → s.keys.rearmRes = none → s.rng.st = .run → s.rng.shoe.length < 3 → newRefresh s = some h →
        3 ≤ (h.seed ++ s.rng.shoe).length → ∃ t, exec (.rearm f) s = .next t ∧ taking t (h.seed ++ s.rng.shoe)
          ∧ newRefresh t = none ∧ t.seats = s.seats ∧ t.engines = s.engines)
      ∧ (legal → s.keys.rearmRes = none → houseHas s 3 = false →
        exec (.rearm f) s = .next { s with keys := { s.keys with rearm := some s.round } })
      ∧ (¬legal → exec (.rearm f) s = .next (regErr s f 0xB0004)))
    ∧ (Reaches s f → f.vf ≠ 0 → exec (.zeroise f) s = .next (regErr s f 0xB0004)
      ∧ exec (.rearm f) s = .next (regErr s f 0xB0004))
    ∧ (s.keys.wiping = true → s.keys.wipeAt + 16386 ≤ s.round →
      exec .wipeEnd s = .next { s with keys := { s.keys with wiping := false, wipeLeft := 0 } })
    ∧ (s.keys.rearmRes = some r → r < s.round → running s = true →
      ∃ t, exec .rearmComplete s = .next t ∧ t.keys.ready = true ∧ t.keys.rearm = none ∧ t.keys.rearmRes = none
        ∧ t.keys.storeKey = some (deriveStoreKey s (blockBytes (s.keys.rearmBlk.take 2)))
        ∧ t.keys.migKey = s.keys.rearmBlk[2]? ∧ t.keys.hands = s.keys.hands ∧ { t with keys := s.keys } = s)

/-- What an erase of the key store leaves (R211, R224, R225, R228): no key, no hand, no record, no key in any lane's banks,
the store not READY, no quorum session; a store that was READY advances EPOCH and begins its wipe. The fuses and the memory
stand, and so does ROOT_KEY, unless a STORE_INIT made it in this very round: what hand services and ceremonies committed in
the round of the erase completes with ZEROISED, and a ROOT_KEY made so is gone. Where the manual leaves a point open the
clauses rest on the model's own choices: log entries 58, 59, 60. -/
def Obligations.EraseLeavesNoKey : Prop :=
  ∀ s : State,
    let t := eraseStore s false
    let now (g : Flight) (d : Decided) : Prop := g.decided = some d ∧ d.house = true ∧ d.status = .done ∧ d.round = s.round
      ∧ (isService g.desc.op = true ∨ (isCeremony g.desc.op = true ∧ g.desc.op ≠ 0x77))
    let rooted : Prop := ∃ i g d, g ∈ (getSeat s i).flights ∧ now g d ∧ g.undo = some .root
    t.keys.ready = false ∧ t.keys.storeKey = none ∧ t.keys.migKey = none ∧ t.keys.hands = [] ∧ t.records = []
    ∧ t.keys.rearm = none ∧ t.keys.rearmRes = none ∧ t.keys.eraseAt = s.round ∧ t.quorum.st = .idle
    ∧ (∀ l, (getLane t l).banks.k0a = none ∧ (getLane t l).banks.k0i = none ∧ (getLane t l).banks.k1a = none
      ∧ (getLane t l).banks.k1i = none ∧ (getLane t l).banks.dummy = none ∧ (getLane t l).banks.keyin = none)
    ∧ (s.keys.ready = true → t.aon.epoch = s.aon.epoch + 1 ∧ t.keys.wiping = true ∧ t.keys.wipeAt = s.round)
    ∧ (s.keys.ready = false → t.aon.epoch = s.aon.epoch)
    ∧ (Tables s → ¬rooted → t.aon.rootKey = s.aon.rootKey ∧ t.aon.rootValid = s.aon.rootValid)
    ∧ (Tables s → rooted → t.aon.rootKey = zeros 32 ∧ t.aon.rootValid = false)
    ∧ (∀ i g d, g ∈ (getSeat s i).flights → now g d →
      ∃ h ∈ (getSeat t i).flights, h.seq = g.seq ∧ h.decided = some { d with status := .zeroised, detail := 0 })
    ∧ t.fuses = s.fuses ∧ t.mem = s.mem ∧ t.round = s.round

/-- MONITOR_SAMPLE (R324-R328, R331): a sample of a supplied monitor steps its filter, and FILTER samples in a row
with the condition qualify it; an armed source that qualifies trips once until FILTER samples without it. A trip on
main power waits for the end of its round, where the union of the sets of every source that qualified in it runs once: each
marks TAMP_TRIPPED, with LATCH each is latched, with LOG each has its entry, in ascending order, and the other responses are
made. On the backup cell a trip clears ROOT_KEY if its set says so and leaves the rest pending. Where the manual leaves a
point open the clauses rest on the model's own choices: log entries 61, 153. -/
def Obligations.MonitorsTrip : Prop :=
  (∀ (src : Fin 28) (v : Sample) (s : State),
    let i := src.val
    let c := sampleCond s i v
    let n := if i = 6 ∨ i = 7 then 1 else tcrFilter s i
    let f := sget .reset s.aon.filters i
    let hits := if c then f.hits + 1 else 0
    let misses := if c then 0 else f.misses + 1
    let held := f.trippd = true ∧ ¬tcrFilter s i ≤ misses
    let fires := n ≤ hits ∧ ¬held ∧ armed s i = true
    let f1 (tripped : Bool) : Filter :=
      { hits := hits, misses := misses, trippd := tripped, raw := c, value := v.value, next := s.aon.now + sampleGap s i
        driven := f.driven + 1 }
    let r := tcrResp s i
    (s.power.main = true ∨ s.power.cell = true) → i < 24 → s.aon.test = none →
    (i = 6 ∨ i = 7 ∨ f.next ≤ s.aon.now) →
    (¬fires → exec (.monitorSample src v) s = .next { s with
      power := senseStep s.power i v
      aon := { s.aon with filters := sput .reset s.aon.filters i (f1 (decide held)) } })
    ∧ (fires → s.power.main = true → exec (.monitorSample src v) s = .next { s with
      power := senseStep s.power i v
      aon := { s.aon with filters := sput .reset s.aon.filters i (f1 true), due := setBit s.aon.due i true } })
    ∧ (fires → s.power.main = false → ∃ t, exec (.monitorSample src v) s = .next t
      ∧ bit t.aon.tripped i = true ∧ sget .reset t.aon.filters i = f1 true ∧ bit t.aon.pending i = true
      ∧ (bit r 4 = true → t.aon.rootValid = false ∧ t.aon.rootKey = zeros 32)
      ∧ (bit r 4 = false → t.aon.rootValid = s.aon.rootValid ∧ t.aon.rootKey = s.aon.rootKey)
      ∧ (bit r 0 = true → ∃ e, sget none t.aon.log s.aon.logNext = some e ∧ e.source = BitVec.ofNat 8 i)
      ∧ t.keys = s.keys ∧ t.aon.freeze = s.aon.freeze))
  ∧ ∀ s : State,
    let is := (List.range 28).filter fun i => bit s.aon.due i
    let r (k : Nat) : Prop := ∃ i ∈ is, bit (tcrResp s i) k = true
    let t := tripTurn s
    (is = [] → t = s)
    ∧ t.aon.due = 0 ∧ (∀ i ∈ is, bit t.aon.tripped i = true)
    ∧ (r 4 → t.aon.rootValid = false ∧ t.aon.rootKey = zeros 32)
    ∧ (¬r 4 → ¬r 3 → t.aon.rootValid = s.aon.rootValid ∧ t.aon.rootKey = s.aon.rootKey)
    ∧ (r 3 → t.keys.ready = false ∧ t.keys.hands = []) ∧ (r 2 ∨ r 6 → t.aon.freeze = true ∧ t.dealer.frozen = true)
    ∧ (r 6 → ∀ i ∈ is, bit t.aon.latched i = true) ∧ (r 5 → t.power.resetReq = true)
    ∧ (r 1 → bit (getIrq t 0).status 28 = true)
    ∧ (r 0 → ¬r 3 → ∀ k (h : k < is.length), s.aon.logNext < 64 →
      ∃ e, sget none t.aon.log ((s.aon.logNext + k) % 64) = some e ∧ e.source = BitVec.ofNat 8 is[k])

/-- FREEZE_CLEAR, TAMP_TEST, TAMP_TEST_END, TAMP_RTC_SET, TAMP_TRIPPED (R10, R329, R336, R343-R345): by a physical
function. A freeze clears in the next round, with its entry in the log, when nothing is latched and no armed FREEZE source has
its condition or trips; a test runs for FILTER sample periods and 16 rounds on an armed monitor, in RUN, one at a time, and
passes when its source qualified under the stimulus and its own condition is absent; setting the clock logs the old seconds;
bits of TAMP_TRIPPED clear where written 1, but for those set in the same cycle. A filter that is to start afresh has its
counts at 0 from the end of the round. Where the manual leaves a point open the clauses rest on the model's own choices: log
entries 33, 63, 64. -/
def Obligations.TamperCommands : Prop :=
  (∀ (f : Func) (v same : Word) (s : State) (x : SelfTest), Reaches s f → f.vf = 0 →
    let i := v.toNat % 32
    let n := tcrFilter s i * (if i ≤ 1 ∨ i = 22 ∨ i = 23 then 25000 else 1)
    let legal := s.power.st = .run ∧ s.aon.test = none ∧ i < 24 ∧ armed s i = true
    let quiet := ∀ j, j < 28 → armed s j = true → bit (tcrResp s j) 2 = true →
      (sget Filter.reset s.aon.filters j).raw = false ∧ stimulus s j = false ∧ bit s.aon.due j = false
        ∧ (24 ≤ j → (sget Filter.reset s.aon.filters j).next ≠ s.aon.now + 1)
    (s.aon.latched = 0 → quiet →
      exec (.freezeClear f) s = .next { s with aon := { s.aon with thaw := some (s.round + 1) } })
    ∧ (s.aon.latched ≠ 0 ∨ ¬quiet → exec (.freezeClear f) s = .next (regErr s f 0xF0004))
    ∧ (bit v 31 = true → legal → exec (.tampTest f v) s = .next { s with aon := { s.aon with
        test := some { source := i, n := s.round, window := n + 16, passed := false }, testRes := 0
        testSrc := BitVec.ofNat 5 i, restart := setBit s.aon.restart i true, rearm := setBit s.aon.rearm i true } })
    ∧ (bit v 31 = true → ¬legal → exec (.tampTest f v) s = .next (regErr s f 0xF001C))
    ∧ (bit v 31 = false →
      exec (.tampTest f v) s = .next { s with aon := { s.aon with testSrc := BitVec.ofNat 5 i } })
    ∧ (s.aon.test = some x → x.n + x.window < s.round → ∃ t, exec .tampTestEnd s = .next t ∧ t.aon.test = none
      ∧ t.aon.testRes = (if x.passed = true ∧ (sget Filter.reset s.aon.filters x.source).raw = false then 1 else 2)
      ∧ (∃ e, sget none t.aon.log s.aon.logNext = some e ∧ e.source = BitVec.ofNat 8 x.source ∧ bit e.flags 2 = true)
      ∧ { t with aon := s.aon } = s)
    ∧ (∃ t, exec (.tampRtcSet f v) s = .next t ∧ t.aon.rtcSec = v ∧ t.aon.rtcFrac = 0 ∧ t.aon.rtcValid = true
      ∧ (∃ e, sget none t.aon.log s.aon.logNext = some e ∧ e.source = 0x44 ∧ e.info = s.aon.rtcSec)
      ∧ t.aon.logNext = (s.aon.logNext + 1) % 64 ∧ { t with aon := s.aon } = s)
    ∧ exec (.tampTripped f v same) s = .next { s with aon := { s.aon with
        tripped := s.aon.tripped &&& ~~~(v.setWidth 28 &&& ~~~same.setWidth 28) } })
  ∧ ∀ (s : State) (r : Round) (i : Nat),
    (s.aon.thaw = some r → r ≤ s.round → (thawStep s).aon.freeze = false ∧ (thawStep s).dealer.frozen = false
      ∧ (thawStep s).aon.thaw = none ∧ ∃ e, sget none (thawStep s).aon.log s.aon.logNext = some e ∧ e.source = 0x45)
    ∧ (restartTurn s).aon.restart = 0 ∧ (restartTurn s).aon.rearm = 0
    ∧ (i < 28 → bit s.aon.restart i = true →
      let g := sget Filter.reset (restartTurn s).aon.filters i
      g.hits = 0 ∧ g.misses = 0 ∧ (bit s.aon.rearm i = true → g.trippd = false))
    ∧ (bit s.aon.restart i = false → s.aon.test = none →
      sget Filter.reset (restartTurn s).aon.filters i = sget Filter.reset s.aon.filters i)

/-! ## Power, boot and the links (chapters 03, 13, 14, 15) -/

/-- The supplies and PERST# (R323, R331, R335, R345, R376, R401). Loss of main power leaves the flash, the fuses and, on the
backup cell, the always-on domain, where the responses of sources that qualified in the round are pending; without either supply that is lost too. A low PERST# input resets the main domain
and keeps the memories; the boot starts when both inputs are high with main power good. Where the manual leaves a
point open the clauses rest on the model's own choices: log entries 1, 6, 104, 113. -/
def Obligations.Supplies : Prop :=
  ∀ (s : State) (port : Fin 2) (good : Bool),
    let p := s.power
    let flag := if port = 0 then p.perst0 else p.perst1
    let other := if port = 0 then p.perst1 else p.perst0
    (p.main = true → ∃ t, exec .mainPowerLoss s = .next t ∧ t.power.main = false
      ∧ t.power.st = (if p.cell then .aonOnly else .off) ∧ t.power.phase = 0
      ∧ t.seats = [] ∧ t.keys = KeyStore.reset ∧ t.lanes = [] ∧ t.fuses = s.fuses
      ∧ (∀ a, rd t a = if flashBase ≤ a ∧ a < scoreBase then rd s a else 0)
      ∧ (p.cell = true → t.aon.latched = s.aon.latched ∧ t.aon.epoch = s.aon.epoch ∧ t.aon.rtcSec = s.aon.rtcSec
        ∧ (s.aon.due = 0 → t.aon.rootKey = s.aon.rootKey ∧ t.aon.tripped = s.aon.tripped ∧ t.aon.log = s.aon.log)
        ∧ (∀ i, i < 28 → bit s.aon.due i = true → bit t.aon.tripped i = true ∧ bit t.aon.pending i = true)
        ∧ t.aon.due = 0 ∧ t.power.eid = 0)
      ∧ (p.cell = false → t.aon = Aon.reset))
    ∧ (p.main = true → exec .aonLoss s = .next { s with power := { p with cell := false } })
    ∧ (p.main = false →
      exec .aonLoss s = .next { s with aon := Aon.reset, power := { p with cell := false, st := .off } })
    ∧ exec .vbatApplied s = .next { s with
        power := { p with cell := true, st := (if p.st = .off then .aonOnly else p.st) } }
    ∧ (p.main = false → p.perst0 = true ∨ p.perst1 = true → exec .mainPowerGood s = .next { s with
        aon := restartFilters s.aon, power := { p with main := true, st := .run } })
    ∧ (p.main = false → p.perst0 = false ∧ p.perst1 = false → ∃ t, exec .mainPowerGood s = .next t
      ∧ t.power.main = true ∧ t.power.st = .run ∧ t.power.phase = 3 ∧ t.round = 0)
    ∧ (p.main = true → ∃ t, exec (.perstAssert port) s = .next t ∧ t.round = 0 ∧ t.power.phase = 0 ∧ t.power.clock = false
      ∧ (if port = 0 then t.power.perst0 else t.power.perst1) = true ∧ t.seats = [] ∧ t.keys = KeyStore.reset
      ∧ t.lanes = [] ∧ t.engines = [] ∧ t.mem = s.mem ∧ t.fuses = s.fuses ∧ t.aon.rootKey = s.aon.rootKey
      ∧ t.aon.tripped = s.aon.tripped ∧ t.aon.latched = s.aon.latched ∧ t.house.count = s.house.count)
    ∧ (flag = true → other = false → p.main = true → ∃ t, exec (.perstRelease port good) s = .next t
      ∧ t.power.perst0 = false ∧ t.power.perst1 = false ∧ t.power.phase = (if good then 3 else 1) ∧ t.round = 0
      ∧ t.power.st = .run ∧ t.mem = s.mem)
    ∧ (other = true ∨ flag = false ∨ p.main = false → exec (.perstRelease port good) s = .next { s with
        power := (if port = 0 then { p with perst0 := false } else { p with perst1 := false }) })

/-- The boot's end (R379-R382, R396, R405): with the flash ready, copy A is taken when it is accepted, else copy B,
else the device ends in recovery with the code of copy B; a phase that runs out of time ends in recovery with code 6
or 7. Where the manual leaves a point open the clauses rest on the model's own choices: log entries 45, 105, 118. -/
def Obligations.BootEnds : Prop :=
  ∀ s : State,
    let u := applyPending (tcrBoot (readDcr s))
    let p := s.power
    let a := copyError u 0
    let b := copyError u 0x800000
    (p.phase = 3 → ∃ t, exec .flashReady s = .next t
      ∧ t.power.phase = (if a = 0 ∨ b = 0 then 7 else 9) ∧ t.house.running = decide (a = 0 ∨ b = 0)
      ∧ t.power.imageB = (if a ≠ 0 ∧ b = 0 then true else u.power.imageB)
      ∧ t.power.errCode = (if a = 0 then u.power.errCode else if b = 0 then a else b)
      ∧ t.power.bootErr = (if a = 0 ∨ b = 0 then u.power.bootErr else true)
      ∧ t.aon = u.aon ∧ t.fuses = s.fuses ∧ t.seats = u.seats)
    ∧ (p.phase ≠ 3 → exec .flashReady s = .next s)
    ∧ (p.phase = 3 ∧ p.phaseAt + 2500000 ≤ p.bootRounds ∨ p.phase = 1 ∨ p.phase = 7 ∧ p.phaseAt + 25000 ≤ p.bootRounds →
      ∃ t, exec .bootPhaseLimit s = .next t ∧ t.power.phase = 9 ∧ t.power.bootErr = true
        ∧ t.power.errCode = (if p.phase = 3 then 6 else 7) ∧ t.house.running = false ∧ t.mem = s.mem ∧ t.seats = s.seats)

/-- The power requests, and what the host sees of a link (R83, R375-R377, R398, R113): STANDBY is accepted in RUN with
every seat OFF or ARMED and none pending; RUN in STANDBY starts CLK_CORE and the noise sources again; AON_ONLY erases
the store and resets the main domain; a request the state does not allow is discarded with REG_ACCESS_ERR.
Configuration requests are retried until the device is ready. Where the manual leaves a point open the clauses rest on
the model's own choices: log entries 47, 104, 122. -/
def Obligations.PowerRequests : Prop :=
  ∀ (f : Func) (s : State) (port link : Fin 2) (m : LinkMode),
    let p := s.power
    let lf : Func := ⟨port, link, 0⟩
    (hostOk s f = true → f.vf = 0 → p.st = .run → p.stbyAt = none → seatsQuiet s = true →
      ∃ t, exec (.standbyRequest f) s = .next t ∧ t.power.stbyAt = some s.round ∧ t.power.reqSt = 2 ∧ t.power.st = .run
        ∧ t.mem = s.mem ∧ t.keys = s.keys ∧ t.dealer = s.dealer)
    ∧ (hostOk s f = true → f.vf = 0 → p.st = .run → seatsQuiet s = false → ∃ t, exec (.standbyRequest f) s = .next t
      ∧ t.power.stbyAt = p.stbyAt ∧ t.power.st = .run ∧ bit (getIrq t (plKey f)).status 31 = true ∧ t.seats = s.seats)
    ∧ (hostOk s f = true → f.vf = 0 → p.st = .standby → ∃ t, exec (.runRequest f) s = .next t ∧ t.power.st = .run
      ∧ t.power.clock = true ∧ t.rng.st = .startup ∧ t.rng.level = 0 ∧ t.round = s.round ∧ t.seats = s.seats
      ∧ t.keys = s.keys ∧ t.mem = s.mem)
    ∧ (hostOk s f = true → f.vf = 0 → p.st = .run ∨ p.st = .standby → ∃ t, exec (.aonOnlyRequest f) s = .next t
      ∧ t.power.st = .aonOnly ∧ t.power.phase = 0 ∧ t.power.clock = false ∧ t.keys = KeyStore.reset ∧ t.seats = [] ∧ t.round = 0
      ∧ t.fuses = s.fuses ∧ t.mem = s.mem)
    ∧ (Reaches s f → f.vf ≠ 0 → exec (.standbyRequest f) s = .next (regErr s f 0x10000)
      ∧ exec (.runRequest f) s = .next (regErr s f 0x10000) ∧ exec (.aonOnlyRequest f) s = .next (regErr s f 0x10000))
    ∧ (8 ≤ p.phase → p.st = .run ∨ p.st = .standby →
      ∃ w, exec (.configurationRequest f) s = .next { s with answer := .config (
        ({ maxPayload := 512, msix := true, msixSize := msixSize s f, sriov := decide (f.vf = 0),
           vfs := (if f.vf = 0 then (dcrByte s (12 + plKey f)).toNat else 0), ats := false, pasid := false,
           peer := false, ide := false, rest := w } : ConfigSpace)) })
    ∧ (p.phase < 8 → exec (.configurationRequest f) s = .next { s with answer := .retry })
    ∧ (hostOk s lf = true → ∃ t, exec (.linkEvent port ⟨link, m⟩) s = .next t
      ∧ sget none t.link.mode (plKey lf) = some m ∧ bit (getIrq t (plKey lf)).status 20 = true ∧ (∀ k, k ≠ plKey lf → getIrq t k = getIrq s k)
      ∧ { t with irq := s.irq, link := s.link } = s)
    ∧ (hostOk s lf = false → exec (.linkEvent port ⟨link, m⟩) s = .next s)

/-! ## House firmware's orders, the error logic, the sideband and the test port (chapters 05, 11, 12, 13, 15) -/

/-- The orders of house firmware (R289, R305, R309, R318, R321, R329, R390, R393): the oldest score sheet is written and
leaves the queue, a stopped core whose sheet is written starts again, and each request of a lane kernel has its effect
and raises HOUSE_REQ back, unless a freeze is held, when it is not served (R329). Where the manual leaves a point open the clauses rest on the model's own choices: log
entries 43, 116. -/
def Obligations.HouseOrders : Prop :=
  ∀ (s : State) (lane : Fin 128) (page r : Fin 16) (suit w : BitVec 16) (w0 w1 v : Word),
    let l := lane.val
    let backTo (t : State) : Prop := bit (getCore t (.lane lane)).irqPend 2 = true
    let serves := houseUp s = true ∧ s.aon.freeze = false
    (houseUp s = true →
      (∀ q rest, s.house.queue = q :: rest → ∃ t, exec .scoreSheet s = .next t ∧ t.house.queue = rest
        ∧ t.house.newest = s.house.count % 16 ∧ t.house.count = (s.house.count + 1) % 65536
        ∧ (∀ a, rd t a = rd (store s (sheetAddr (s.house.count % 16))
          (sheetBytes { s with house := { s.house with queue := rest } } q ((s.house.count + 1) % 65536))) a)
        ∧ ∀ pl ∈ pfs s, bit (getIrq t pl).status 24 = true)
      ∧ ((getLane s l).core.stopped = true → (∀ q ∈ s.house.queue, ¬(q.cause = 1 ∧ q.unit = l)) →
        exec (.laneRestart lane) s = .next (setLane s l { getLane s l with core := .reset }))
      ∧ (s.prot.retagAt = none → fld v 31 16 ≠ 0xFFFE → exec (.protRetag v) s = .next { s with prot := { s.prot with
        retagSuit := BitVec.ofNat 16 (fld v 31 16), retagLane := fld v 10 4, retagPage := fld v 3 0
        retagAt := if bit v 15 then some s.round else none } })
      ∧ (s.prot.retagAt.isSome = true ∨ fld v 31 16 = 0xFFFE → exec (.protRetag v) s = .next s))
    ∧ (serves →
      (∃ t, exec (.ready lane) s = .next t ∧ backTo t
        ∧ (getLane t l).fault = ((getLane s l).fault && (getLane s l).core.stopped) ∧ { t with lanes := s.lanes } = s)
      ∧ (s.prot.retagAt = none → suit ≠ 0xFFFE → ∃ t, exec (.retag lane page suit) s = .next t ∧ backTo t
        ∧ t.prot = { s.prot with retagSuit := suit, retagLane := l, retagPage := page.val, retagAt := some s.round }
        ∧ { t with lanes := s.lanes, prot := s.prot } = s)
      ∧ (s.prot.retagAt.isSome = true ∨ suit = 0xFFFE → ∃ t, exec (.retag lane page suit) s = .next t ∧ backTo t
        ∧ { t with lanes := s.lanes } = s)
      ∧ (∃ t, exec (.regionSet lane r w0 w1) s = .next t ∧ backTo t
        ∧ sget 0 t.prot.regions (32 * l + 2 * r.val) = regionWord0 w0
        ∧ sget 0 t.prot.regions (32 * l + 2 * r.val + 1) = regionWord1 w1
        ∧ (∀ i, i ≠ 32 * l + 2 * r.val → i ≠ 32 * l + 2 * r.val + 1 → sget 0 t.prot.regions i = sget 0 s.prot.regions i)
        ∧ (∀ i, regionWord t i = regionWord s i) ∧ { t with lanes := s.lanes, prot := s.prot } = s)
      ∧ (∃ t, exec (.ptReload lane) s = .next t ∧ backTo t ∧ (getLane t l).playFault = false
        ∧ (∀ a, a < laneBase l + 0xA000 → rd t a = rd s a) ∧ { t with lanes := s.lanes, prot := s.prot, mem := s.mem } = s)
      ∧ (∃ t, exec (.note lane w) s = .next t ∧ backTo t ∧ t.house.msg = mkWord (2 ^ 24 * l + w.toNat)
        ∧ ∀ pl ∈ pfs s, bit (getIrq t pl).status 22 = true))
    ∧ (houseUp s = false → exec .scoreSheet s = .next s ∧ exec (.laneRestart lane) s = .next s
      ∧ exec (.protRetag v) s = .next s)
    ∧ (¬serves → exec (.ready lane) s = .next s ∧ exec (.retag lane page suit) s = .next s
      ∧ exec (.regionSet lane r w0 w1) s = .next s ∧ exec (.ptReload lane) s = .next s ∧ exec (.note lane w) s = .next s)

/-- Error correction and the debug master (R310-R312, R314, R317, R318): a corrected word is written back; the leaky
buckets fall by one in every round that is a multiple of their period; a burst of the debug master is refused whole,
or reads and writes the bytes it names; a read of an RC register clears it; PROT_RETAG and the region array refuse it.
Where the manual leaves a point open the clauses rest on the model's own choices: log entries 48, 54, 121, 156. -/
def Obligations.MemoryIntegrity : Prop :=
  ∀ (s : State) (mem word addr len : Nat) (data : Bytes),
    let k := wkey mem word
    let p := s.prot
    let due := s.power.st = .run ∧ s.power.clock = true ∧ s.power.stbyAt = none ∧ p.leakPer.at_ s.round ≠ 0
      ∧ s.round % p.leakPer.at_ s.round = 0 ∧ p.leakAt ≠ some s.round
    let open_ := debugOn s = true ∧ running s = true ∧ 0 < len ∧ len ≤ 256
    (sget false p.fix k = true → ∃ t, exec (.eccWriteBack mem word) s = .next t ∧ sget false t.prot.fix k = false
      ∧ sget none t.prot.bad k = (if sget none p.bad k = some true then some true else none)
      ∧ sget false t.prot.written k = true
      ∧ (∀ j, j ≠ k → sget false t.prot.fix j = sget false p.fix j ∧ sget none t.prot.bad j = sget none p.bad j
        ∧ sget false t.prot.written j = sget false p.written j)
      ∧ { t with prot := p } = s)
    ∧ (sget false p.fix k = false → exec (.eccWriteBack mem word) s = .next s)
    ∧ (swf 0 p.bucket = true → due → ∃ t, exec .leakDecrement s = .next t
      ∧ (∀ m, sget 0 t.prot.bucket m = sget 0 p.bucket m - 1) ∧ t.prot.leakAt = some s.round ∧ { t with prot := p } = s)
    ∧ (¬due → exec .leakDecrement s = .next s)
    ∧ (open_ → (∃ i, i < len ∧ debugBad s false (addr + i) = true) → ∃ t, exec (.debugAccess addr len none) s = .next t
      ∧ t.answer = .error ∧ t.prot.debugCnt = satAdd p.debugCnt 1 ∧ t.prot.suitCnt = p.suitCnt ∧ t.mem = s.mem)
    ∧ (open_ → (∀ i, i < len → debugBad s false (addr + i) = false) → (∀ k ∈ wkeys addr len, sget none p.bad k = none) →
      (∃ t, exec (.debugAccess addr len none) s = .next t
        ∧ t.answer = .bytes ((List.range len).map fun i => debugByte s (addr + i)))
      ∧ ((∀ i off, i < len → housePlace (addr + i) ≠ .bar off) → exec (.debugAccess addr len none) s = .next
        { s with answer := .bytes ((List.range len).map fun i => debugByte s (addr + i)) })
      ∧ (∀ q ∈ clearedByRead func0 true, addr = 0x0100000000 + q.2 → len = 4 →
        ∃ t, exec (.debugAccess addr len none) s = .next t ∧ t.answer = .bytes (natLe 4 (regView s func0 q.2).1.toNat)
          ∧ (regView t func0 q.2).1 = 0))
    ∧ (∀ i w, i < 4 → debugBad s w (0x0100000000 + 0xD0100 + i) = true)
    ∧ (∀ i w, i < 16512 → debugBad s w (0x0100000000 + 0xD4000 + i) = true)
    ∧ (open_ → (∀ i, i < len → debugBad s true (addr + i) = false ∧ housePlace (addr + i) = .cell (addr + i)) →
      (∀ k ∈ wkeys addr len, sget none p.bad k = none) → data.length = len →
      ∃ t, exec (.debugAccess addr len (some data)) s = .next t ∧ (∀ a, rd t a = rd (store s addr data) a)
        ∧ t.prot.tags = p.tags ∧ t.answer = .none ∧ { t with mem := s.mem, prot := p, answer := s.answer } = s)
    ∧ (¬open_ → ∀ d, exec (.debugAccess addr len d) s = .next s)

/-- The sideband (R343, R391, R392): while it is served every message is answered; outside boot phases 3 to 6 it
writes the flash; otherwise nothing happens. The test access port (R387): five instructions with main power; EXTEST
needs a device that is not SEALED, or no hand held; DEBUG needs the BLANK or PROVISIONED lifecycle; an instruction
that is not available decodes as BYPASS. Where the manual leaves a point open the clauses rest on the model's own
choices: log entries 10, 49, 114, 123. -/
def Obligations.SidebandAndTestPort : Prop :=
  (∀ (s : State) (off k : Nat) (v : BitVec 2) (e m : Byte) (data : Bytes),
      let reply (a : Answer) : Host.Outcome State Fault Refusal := .next { s with answer := a }
      (sidebandUp s = true →
        exec .getStatus s =
          reply (.bytes ([cfgStatus s, lifeStatus s, pwrStatus s, tampStatus s, keysStatus s].flatMap (natLe 4)))
        ∧ (off / 0x10000 ∈ [0x00, 0x01, 0x0B, 0x0F, 0x11, 0x13] → exec (.readReg off) s = .next (barRead s func0 off 4))
        ∧ (off / 0x10000 ∉ [0x00, 0x01, 0x0B, 0x0F, 0x11, 0x13] → exec (.readReg off) s = reply .error)
        ∧ (k < 64 → exec (.readLog k) s = reply (.bytes (logBytes (sget none s.aon.log k))))
        ∧ (64 ≤ k → exec (.readLog k) s = reply .error)
        ∧ (k < 16 → exec (.readScore k) s = reply (.bytes (rdN s (sheetAddr k) 256)))
        ∧ (16 ≤ k → exec (.readScore k) s = reply .error)
        ∧ exec (.setPower v) s = .next (powerRequest s func0 v)
        ∧ (¬(3 ≤ s.power.phase ∧ s.power.phase ≤ 6) → k < 4096 → ∃ t, exec (.flashErase k) s = .next t ∧ t.answer = .none
          ∧ (∀ a, rd t a = if flashBase + 65536 * k ≤ a ∧ a < flashBase + 65536 * (k + 1) then 0xFF else rd s a)
          ∧ { t with mem := s.mem, prot := s.prot, answer := s.answer } = s)
        ∧ (3 ≤ s.power.phase ∧ s.power.phase ≤ 6 ∨ 4096 ≤ k → exec (.flashErase k) s = reply .error)
        ∧ (¬(3 ≤ s.power.phase ∧ s.power.phase ≤ 6) → 0 < data.length → off % 256 + data.length ≤ 256 → off < 0x10000000 →
          ∃ t, exec (.flashWrite off data) s = .next t ∧ t.answer = .none
            ∧ (∀ a, rd t a = rd (store s (flashBase + off) data) a) ∧ { t with mem := s.mem, prot := s.prot, answer := s.answer } = s)
        ∧ (3 ≤ s.power.phase ∧ s.power.phase ≤ 6 ∨ data.length = 0 ∨ 256 < off % 256 + data.length ∨ 0x10000000 ≤ off →
          exec (.flashWrite off data) s = reply .error)
        ∧ (e ≠ 0 → e ≠ 0xFF → exec (.setEndpointId e) s = .next
          { s with power := { s.power with eid := e }, answer := .bytes [e] })
        ∧ (e = 0 ∨ e = 0xFF → exec (.setEndpointId e) s = reply .error)
        ∧ exec .getEndpointId s = reply (.bytes [s.power.eid])
        ∧ (m = 0 ∨ m = 0x7E → ∃ b, exec (.getMctpVersionSupport m) s = reply (.bytes b))
        ∧ (m ≠ 0 → m ≠ 0x7E → exec (.getMctpVersionSupport m) s = reply .error)
        ∧ exec .getMessageTypeSupport s = reply (.bytes [1, 0x7E])
        ∧ exec .getVendorDefinedMessageSupport s = reply (.bytes (natBe 4 s.fuses.vdm.toNat)))
      ∧ (sidebandUp s = false → exec .getStatus s = .next s ∧ exec (.readReg off) s = .next s ∧ exec (.readLog k) s = .next s
        ∧ exec (.readScore k) s = .next s ∧ exec (.setPower v) s = .next s ∧ exec (.flashErase k) s = .next s
        ∧ exec (.flashWrite off data) s = .next s ∧ exec (.setEndpointId e) s = .next s ∧ exec .getEndpointId s = .next s
        ∧ exec (.getMctpVersionSupport m) s = .next s ∧ exec .getMessageTypeSupport s = .next s
        ∧ exec .getVendorDefinedMessageSupport s = .next s))
  ∧ (∀ (s : State) (pins : Bytes),
      let load (n : BitVec 8) (a : Answer) : Host.Outcome State Fault Refusal :=
        .next { s with power := { s.power with tap := n }, answer := a }
      (s.power.main = true →
        exec .bypass s = load 0 (.bytes [0])
        ∧ exec .idcode s = load 1 (.word 0x17128A5F)
        ∧ (∃ b, exec (.samplePreload pins) s = .next
          { s with power := { s.power with tap := 2, scan := pins }, answer := .bytes b })
        ∧ (s.fuses.lc ≠ .sealed ∨ liveHands s = 0 → ∃ b, exec .extest s = load 3 (.bytes b))
        ∧ (s.fuses.lc = .sealed → liveHands s ≠ 0 → exec .extest s = load 0 (.bytes [0]))
        ∧ (s.fuses.lc = .blank ∨ s.fuses.lc = .provisioned → exec .debug s = load 4 .none)
        ∧ (s.fuses.lc = .sealed ∨ s.fuses.lc = .retired → exec .debug s = load 0 (.bytes [0])))
      ∧ (s.power.main = false → ∀ c ∈ [Instr.bypass, .idcode, .samplePreload pins, .extest, .debug], exec c s = .next s))

/-! ## Lane opcodes, services and ceremonies (chapters 06, 07, 09) -/

/-- The lane opcodes (R144-R171, R173-R176, R219, R220): the segment that runs takes its output, its state after and
its outcome (MISMATCH where a compare differed) from the function of its opcode, which the datapath registers show; a
recovered key goes to its target, or the check fails. Without such a segment nothing happens. Where the manual leaves
a point open the clauses rest on the model's own choices: log entries 14, 68. -/
def Obligations.LaneOpcodes : Prop :=
  ∀ (lane : Fin 128) (s : State),
    let l := lane.val
    (∀ c op f, (c, op, f) ∈ laneRows lane → ∀ b, playable s l op = some b →
      let o : SegOut := f (segCtx s b)
      ∃ t, exec c s = .next t ∧ LaneMoved s t l b (fun c =>
        { c with
          played := true, out := o.out, after := some o.st
          outcome := (if c.outcome.isSome then c.outcome else some (if o.differ then .mismatch else .done, o.detail))
          toHand := (if b.role.closes = true ∧ b.seg + 1 = segCount b.desc ∧ o.differ = false ∧ b.desc.result = 1 then
            some { type := 5, param := 0, usage := (getHand s (handleHand b.desc.key1)).defUse, mat := o.value, gran := [] }
            else none) }) (dpAfter (getLane s l).dp o))
    ∧ (∀ c op a, (c, op, a) ∈ unwrapRows lane → ∀ b, playable s l op = some b →
      let h := getHand s (handleHand b.desc.key1)
      let r := kwpUnwrap (b.key0.getD []) b.input
      let k := r.2.bind fun n => parseWrapped (r.1.take n) (if a then some h.suit else none) h.defUse
      ∃ t, exec c s = .next t ∧ LaneMoved s t l b (fun c =>
        { c with played := true, toHand := k, outcome := some (if k.isSome then .done else .mismatch, 0) }) (getLane s l).dp)
    ∧ (∀ c op, (c, op) ∈ (laneRows lane).map (fun r => (r.1, r.2.1)) ++ (unwrapRows lane).map (fun r => (r.1, r.2.1)) →
      playable s l op = none → exec c s = .next s)

/-- NOP, RANDOM and the hand services (R94, R107, R209, R213, R216-R221, R241, R242): with every check passed each has
its effect on the key store and answers its bytes. A hand that is freed keeps its generation count, and granules it
held are overwritten before they return. A change of a hand writes its granules: they take fresh words and its suit. Where the manual leaves a point open the clauses rest on the model's own
choices: log entries 12, 15, 22, 57, 82. -/
def Obligations.Services : Prop :=
  ∀ (seat : Fin 8192) (sq : Nat) (s : State) (g : Flight),
    let i := seat.val
    let d := g.desc
    let h0 := handleHand d.key0
    let h1 := handleHand d.key1
    let x := getHand s h0
    let named := handFails s i d.key0 0x0C01 0x0806 = []
    (Names s i sq g (fun h => h.decided.isNone && h.dmaErr.isNone && decide (h.desc.op = 0)) →
      ∃ t, exec (.nop seat sq) s = .next t ∧ Ends s t i g.seq ⟨.done, 0, g.fetched, false⟩)
    ∧ (∀ r u, Names s i sq g (fun h => h.decided.isNone && decide (h.desc.op = 0x60) && h.granted.isSome) →
      g.granted = some r → r + 2 ≤ s.round → running s = true → spanFails s (getSeat s i).suit [] (dstSpans g) g.resvOut = [] →
      putTricks s i g 0 ((blockBytes g.blocks).take d.l) = (u, false) →
      ∃ t, exec (.random seat sq) s = .next t ∧ Ends u t i g.seq ⟨.done, 0, r + 2, false⟩)
    ∧ (∀ h, Turn s i sq 0x50 g → s.keys.ready = true → svcParam d false false true 8 = [] → fld (byteAt d.inl 4) 7 2 = 0 →
      byteAt d.inl 5 = 0 → 4 ≤ d.cap → emptyHand s = some h → SoundGranules s [h] →
      Answers (.handAlloc seat sq) s (allocHand s i h d) i g (natLe 2 h ++ natLe 2 (nextGen s.aon.epoch (getHand s h).gen).toNat)
      ∧ getHand (allocHand s i h d) h = {
          suit := (getSeat s i).suit, gen := nextGen s.aon.epoch (getHand s h).gen, live := true, policy := byteAt d.inl 4
          defUse := usageOf (inl16 d 6), base := BitVec.ofNat 16 (inl16 d 0), span := BitVec.ofNat 16 (inl16 d 2)
          slots := [], resv := [] })
    ∧ (Turn s i sq 0x51 g → named → svcParam d false false false 0 = [] → d.slot0 = 0 → heldService s i d = false →
      SoundGranules s [h0] → Commits (.handFree seat sq) s
        (zeroGranules (writeHand s h0 [] fun y => { Hand.reset with gen := y.gen })
          (x.slots.flatMap fun e => match e.2 with | some k => k.gran | none => [])) i g)
    ∧ (∀ k, Turn s i sq 0x52 g → named → slotObj x d.slot0 = some k → chainFails s h0 d.slot0 = [] →
      svcParam d false false false 0 = [] → heldService s i d = false → SoundGranules s (loadGranules s h0 [d.slot0]) →
      Commits (.slotClear seat sq) s
        (zeroGranules (writeHand s h0 [] fun y => { y with slots := sput none y.slots d.slot0 none }) k.gran) i g)
    ∧ (∀ r, Turn s i sq 0x53 g → newTarget s i g false = [] → svcParam d true true false 2 = [] → 1 ≤ d.modeHi →
      d.modeHi ≤ 5 → keyGenLegal d = true → objGranules (inl16 d 0) ≤ granFree s → g.granted = some r → r < s.round →
      SoundGranules s [h1] → Commits (.keyGen seat sq) s
        (putKey s h1 d.slot1
          { type := BitVec.ofNat 4 d.modeHi, param := 0, usage := (getHand s h1).defUse
            mat := genMaterial d.modeHi (inl16 d 0) (blockBytes g.blocks), gran := [] }) i g)
    ∧ (∀ k, Turn s i sq 0x56 g → named → slotObj x d.slot0 = some k → chainFails s h0 d.slot0 = [] →
      svcParam d false false true 0 = [] → 8 ≤ d.cap → SoundGranules s (loadGranules s h0 [d.slot0]) →
      Answers (.slotInfo seat sq) s s i g (objHeader k))
    ∧ (∀ k, Turn s i sq 0x57 g → named → slotObj x d.slot0 = some k → chainFails s h0 d.slot0 = [] →
      svcParam d false false false 3 = [] → fld (byteAt d.inl 2) 7 2 = 0 → SoundGranules s (loadGranules s h0 [d.slot0]) →
      Commits (.usageTighten seat sq) s
        (writeHand s h0 (k.gran.take 1) fun y =>
          { y with
            policy := y.policy &&& byteAt d.inl 2
            slots := sput none y.slots d.slot0 (some { k with usage := k.usage &&& BitVec.ofNat 16 (inl16 d 0) }) }) i g)
    ∧ (∀ k, Turn s i sq 0x5A g → named → slotObj x d.slot0 = some k → chainFails s h0 d.slot0 = [] → 6 ≤ k.type.toNat →
      svcParam d false false true 0 = [] → (publicPart k).length ≤ d.cap → SoundGranules s (loadGranules s h0 [d.slot0]) →
      Answers (.pubkeyRead seat sq) s s i g (publicPart k))
    ∧ (∀ k, Turn s i sq 0x5B g → named → slotObj x d.slot0 = some k → chainFails s h0 d.slot0 = [] → k.type = 5 →
      bit k.usage 10 = true → newTarget s i g true = [] → svcParam d true true false 2 = [] → 1 ≤ d.modeHi → d.modeHi ≤ 4 →
      d.modeLo = 0 → lenLegal d.modeHi k.mat.length = true → objGranules k.mat.length ≤ granFree s →
      SoundGranules s (loadGranules s h0 [d.slot0] ++ [h1]) → Commits (.slotRetype seat sq) s
        (putKey s h1 d.slot1
          { type := BitVec.ofNat 4 d.modeHi, param := 0, usage := usageOf (inl16 d 0) &&& (getHand s h1).defUse
            mat := k.mat, gran := [] }) i g)
    ∧ ∀ (h : Nat) (gs : List Nat) (f : Hand → Hand),
      let t := writeHand s h gs f
      let wrote := h :: gs
      getHand t h = f (getHand s h) ∧ (∀ j, j ≠ h → getHand t j = getHand s j)
      ∧ (∀ n ∈ wrote, sget 0 t.prot.tags (storeTag n) = (f (getHand s h)).suit ∧ sget false t.prot.badTags (storeTag n) = false)
      ∧ (∀ n, n ∉ wrote → sget 0 t.prot.tags (storeTag n) = sget 0 s.prot.tags (storeTag n)
        ∧ sget false t.prot.badTags (storeTag n) = sget false s.prot.badTags (storeTag n))
      ∧ (∀ k ∈ wrote.flatMap storeWords, sget none t.prot.bad k = none ∧ sget false t.prot.written k = true) ∧ t.mem = s.mem

/-- A handle that fails the checks of R210 reaches no key (R209, R210): a service or ceremony naming it ends with a
status other than DONE, is counted once, and leaves every hand as it was. -/
def Obligations.HandlesGuardKeys : Prop :=
  ∀ (seat : Fin 8192) (sq op : Nat) (c : Instr) (s : State) (g : Flight),
    let i := seat.val
    (c, op) ∈ [(Instr.handFree seat sq, 0x51), (.slotClear seat sq, 0x52), (.slotInfo seat sq, 0x56),
      (.usageTighten seat sq, 0x57), (.pubkeyRead seat sq, 0x5A), (.slotRetype seat sq, 0x5B), (.policyWiden seat sq, 0x73),
      (.ownerSet seat sq, 0x74)] →
    houseTurn s i sq op = some g → flightBySeq s i g.seq = some g → g.denied = false →
    handFails s i g.desc.key0 0x0C01 0x0806 ≠ [] →
    ∃ t, exec c s = .next t ∧ (∀ h, SameHand s t h) ∧ t.keys.deny = satAdd s.keys.deny 1 ∧ t.mem = s.mem
      ∧ ((∀ k, sget false s.prot.badTags k = false) → t.link.queue = s.link.queue)
      ∧ ∃ dd, dd.status ≠ .done ∧ getSeat t i = endedSeat { getSeat s i with
        flights := (getSeat s i).flights.map fun x => if x.seq = g.seq then { x with denied := true } else x } g.seq dd

/-- Ceremonies (R87, R213, R222, R223, R227, R337-R342, R372, R386-R388): with a quorum session open for the seat's
function and every check passed, each has its effect. A committed TCR is in force from the next round, and the
filters of sources whose entry it changes, like those of latched bits that are cleared, start afresh then. Where the
manual leaves a point open the clauses rest on the model's own choices: log entries 15, 30, 31, 33. -/
def Obligations.Ceremonies : Prop :=
  ∀ (seat : Fin 8192) (sq : Nat) (s : State) (g : Flight),
    let i := seat.val
    let d := g.desc
    let h0 := handleHand d.key0
    let h1 := handleHand d.key1
    let m := leField d.inl 0 4
    let b := ceremonySrc s g
    let inactive := (if s.aon.bank then s.aon.tcr0 else s.aon.tcr1)
    (Turn s i sq 0x70 g → quorumOk s i = true → s.fuses.lc ≠ .retired → bareFields d 0 = true → s.keys.ready = false →
      s.keys.wipeFault = false → s.keys.wipeLeft = 0 → s.keys.rearm = none →
      (g.granted = none → g.blocks = [] → s.rng.st = .run → initBlocks s ≤ s.rng.shoe.length →
        exec (.storeInit seat sq) s = .next (modFlight (shoeReserve s (initBlocks s)) i g.seq fun x =>
          { x with
            begun := some (x.begun.getD s.round), granted := some s.round, blocks := s.rng.shoe.take (initBlocks s)
            waitFrom := none }))
      ∧ (g.granted = none → houseHas s (initBlocks s - g.blocks.length) = false →
        exec (.storeInit seat sq) s = .next (modFlight s i g.seq fun x =>
          { x with begun := some (x.begun.getD s.round), granted := none, waitFrom := some (x.begun.getD s.round) }))
      ∧ (∀ r, g.granted = some r → r < s.round → g.blocks.length = initBlocks s →
        ∃ u, Commits (.storeInit seat sq) s u i g ∧ u.aon.rootValid = true ∧ u.keys.rearm = some s.round
          ∧ u.keys.rearmRes = some r ∧ u.keys.rearmBlk = (if s.aon.rootValid then g.blocks else g.blocks.drop 2)
          ∧ (s.aon.rootValid = true → u.aon = s.aon)
          ∧ (s.aon.rootValid = false → u.aon.rootKey = blockBytes (g.blocks.take 2))))
    ∧ (∀ k v, Turn s i sq 0x71 g → GateOpen s i → bareFields d 4 = true → inl16 d 0 = k → inl16 d 2 = v → k < 8192 → 1 ≤ v →
      v ≤ 0xFFFD → seatState s (getSeat s k) = .off →
      Commits (.suitAssign seat sq) s
        (keepUndo (modSeat s k fun x => { x with suit := BitVec.ofNat 16 v }) i g (some (.suit k (getSeat s k).suit))) i g)
    ∧ (∀ n cs, Turn s i sq 0x72 g → GateOpen s i → ceremonyFields d true 3 = true → noSrc d = true → 1 ≤ d.modeHi →
      d.modeHi ≤ 4 → d.modeLo = 0 → inl16 d 0 = n → lenLegal d.modeHi n = true → s.quorum.comps = cs →
      cs.length = (byteAt d.inl 2).toNat → 2 ≤ cs.length → cs.length ≤ 9 → (∀ c ∈ cs, c.length = n) →
      newTarget s i g false = [] → objGranules n ≤ granFree s → SoundGranules s [h1] →
      ∃ u, Commits (.componentLoad seat sq) s u i g ∧ u.quorum = { s.quorum with comps := [] }
        ∧ { u with quorum := s.quorum } = putKey s h1 d.slot1
          { type := BitVec.ofNat 4 d.modeHi, param := 0, usage := (getHand s h1).defUse, mat := xorAll n cs, gran := [] })
    ∧ (∀ k, Turn s i sq 0x73 g → GateOpen s i → bareFields d 3 = true → handFails s i d.key0 0x0C01 0x0806 = [] →
      slotObj (getHand s h0) d.slot0 = some k → chainFails s h0 d.slot0 = [] → SoundGranules s (loadGranules s h0 [d.slot0]) →
      Commits (.policyWiden seat sq) s (writeHand s h0 (k.gran.take 1) fun x =>
        { x with
          policy := byteAt d.inl 2 &&& 3
          slots := sput none x.slots d.slot0 (some { k with usage := usageOf (inl16 d 0) }) }) i g)
    ∧ (Turn s i sq 0x74 g → GateOpen s i → bareFields d 4 = true → d.slot0 = 0 → handFails s i d.key0 0x0C01 0x0806 = [] →
      SoundGranules s [h0] → Commits (.ownerSet seat sq) s (writeHand s h0 [] fun x =>
        { x with base := BitVec.ofNat 16 (inl16 d 0), span := BitVec.ofNat 16 (inl16 d 2) }) i g)
    ∧ (houseTurn s i sq 0x75 = some g → GateOpen s i → g.begun = none → srcIn g = true → tcrFields d = true →
      srcFails s i g = [] → (∀ k ∈ srcKeys g, sget none s.prot.bad k = none) → tcrFaults b = [] →
      exec (.tcrCommit seat sq false) s = .next (tcrStage s i g b))
    ∧ (∀ r, houseTurn s i sq 0x75 = some g → GateOpen s i → g.begun = some r → r < s.round → tcrFaults inactive = [] →
      (∀ q w, s.aon.flip = some (q, w) → q < s.round) →
      ∃ u, Commits (.tcrCommit seat sq false) s u i g ∧ u.aon.bank = !s.aon.bank ∧ u.aon.defaulted = false
        ∧ u.aon.tcr0 = s.aon.tcr0 ∧ u.aon.tcr1 = s.aon.tcr1 ∧ tcr u = tcr s ∧ tcr { u with round := u.round + 1 } = inactive
        ∧ (∀ k, k < 28 → bit u.aon.restart k =
          (bit s.aon.restart k || decide (slice (tcr s) (16 + 8 * k) 8 ≠ slice inactive (16 + 8 * k) 8)))
        ∧ ∃ o, { u with aon := s.aon } = keepUndo s i g o)
    ∧ (∀ r, houseTurn s i sq 0x75 = some g → GateOpen s i → g.begun = some r → r < s.round →
      ∃ t, exec (.tcrCommit seat sq true) s = .next t ∧ t.aon = s.aon
        ∧ getSeat t i = endedSeat (getSeat s i) g.seq ⟨.internal, 0, s.round, true⟩)
    ∧ (Turn s i sq 0x76 g → GateOpen s i → bareFields d 4 = true → m < 2 ^ 28 → m ≠ 0 →
      ∃ u, Commits (.latchClear seat sq) s u i g
        ∧ (∀ k, k < 28 → bit u.aon.latched k = (bit s.aon.latched k && !Nat.testBit m k)
          ∧ (bit s.aon.latched k = true → Nat.testBit m k = true → bit u.aon.restart k = true ∧ bit u.aon.rearm k = true))
        ∧ ∃ o, { u with aon := s.aon } = keepUndo s i g o)
    ∧ (∀ lc, houseTurn s i sq 0x77 = some g → GateOpen s i → srcIn g = true → lifeFields d s.fuses.lc = true →
      srcFails s i g = [] → (∀ k ∈ srcKeys g, sget none s.prot.bad k = none) →
      lifeTarget s.fuses.lc (byteAt d.inl 0).toNat = some lc →
      (∃ t, exec (.lifecycleSet seat sq false) s = .next t ∧ t.fuses.lc = lc
        ∧ t.fuses.owner = (if lc = .provisioned then b else s.fuses.owner)
        ∧ (lc = .retired → t.aon.rootValid = false ∧ t.aon.rootKey = zeros 32 ∧ t.keys.ready = false ∧ t.keys.hands = []
          ∧ t.keys.storeKey = none)
        ∧ (lc ≠ .retired → Ends s { t with fuses := s.fuses } i g.seq ⟨.done, 0, s.round, true⟩))
      ∧ ∃ t, exec (.lifecycleSet seat sq true) s = .next t ∧ t.fuses = s.fuses ∧ t.power.fuseErr = true
        ∧ getSeat t i = endedSeat (getSeat s i) g.seq ⟨.internal, 0, s.round, true⟩)

/-- Without a quorum session open for the seat's function no ceremony has an effect (R222): fuses, the always-on
domain, the suits of seats, the hands and the held components stand. -/
def Obligations.NoCeremonyWithoutQuorum : Prop :=
  ∀ (seat : Fin 8192) (sq : Nat) (bad : Bool) (c : Instr) (s t : State),
    c ∈ [Instr.storeInit seat sq, .suitAssign seat sq, .componentLoad seat sq, .policyWiden seat sq, .ownerSet seat sq,
      .tcrCommit seat sq bad, .latchClear seat sq, .lifecycleSet seat sq bad] →
    quorumOk s seat.val = false → exec c s = .next t →
    t.fuses = s.fuses ∧ t.aon = s.aon ∧ t.quorum = s.quorum ∧ t.mem = s.mem ∧ t.rng = s.rng
    ∧ (∀ k, (getSeat t k).suit = (getSeat s k).suit) ∧ ∀ h, SameHand s t h

/-! ## Credential slots and quorum sessions (chapter 14) -/

/-- Presence and power of a slot (R348, R349, R362): insertion starts a token probe at the first enabled class;
removal takes the slot to OFF, with REMOVED for an exchange under way and its outcome for a write; overcurrent takes
it to FAULT. Where the manual leaves a point open the clauses rest on the model's own choices: log entry 35. -/
def Obligations.SlotPresence : Prop :=
  ∀ (s : State) (n : Fin 2),
    let x := getSlot s n.val
    let write := x.step = .writeUse ∨ x.step = .erase
    (x.present = false → s.power.main = true → (houseUp s = false ∨ x.st ≠ .off) →
      ∃ t, exec (.slotInsertion n) s = .next t ∧ SlotMoved s t n.val { x with present := true }
        ∧ ∀ pl ∈ pfs s, bit (getIrq t pl).status 23 = true)
    ∧ (∀ c, x.present = false → s.power.main = true → houseUp s = true → x.st = .off → nextClass s n.val 1 = some c →
      ∃ t, exec (.slotInsertion n) s = .next t ∧ SlotMoved s t n.val
        { slotOff { x with present := true, noPps := false } .probing with
          cls := BitVec.ofNat 2 c, lastCmd := s.round, step := if c ≤ 2 then .opcond 0 else .coldReset })
    ∧ (x.present = false → s.power.main = true → houseUp s = true → x.st = .off → nextClass s n.val 1 = none → ¬write →
      ∃ t, exec (.slotInsertion n) s = .next t ∧ SlotMoved s t n.val
        { slotOff { x with present := true } .fault with lastErr := 0x04 })
    ∧ (x.present = true → s.power.main = true → ∃ t, exec (.slotRemoval n) s = .next t
      ∧ getSlot t n.val = { slotOff x .off with
          present := false
          lastErr := if write then (if dataSent s x then 0x08 else 0x09)
            else if x.step ≠ .none ∧ x.step ≠ .waitPw then 0x0E else x.lastErr }
      ∧ t.quorum.st = (if write ∧ dataSent s x = true then .idle else s.quorum.st)
      ∧ ∀ pl ∈ pfs s, bit (getIrq t pl).status 23 = true)
    ∧ (x.st ≠ .off → x.st ≠ .fault → ∃ t, exec (.slotOvercurrent n) s = .next t ∧ SlotFaults s t n.val 0x03)
    ∧ (x.st = .off ∨ x.st = .fault → exec (.slotOvercurrent n) s = .next s)

/-- Token exchanges (R351-R364): a supply or wake poll; IDENT, SETADDR and SETBUS by their answers; a response that
does not come is asked for again twice at most, and never for WRITE, AUTH or ERASE sent once; a busy phase beyond its
limit; a character repeated up to its limit; and SLEEP after the idle time. Where the manual leaves a point open the
clauses rest on the model's own choices: log entries 34, 97, 98, 100. -/
def Obligations.TokenExchanges : Prop :=
  ∀ (s : State) (n : Fin 2) (b : Bytes) (rep : Bool) (k : Nat),
    let x := getSlot s n.val
    let stat := (byteAt b 1).toNat
    let data := slice b 4 (leField b 2 2)
    houseUp s = true →
    (x.step = .opcond k → x.lastCmd + (if k = 0 ∧ x.waking = false then 37500 else 25000) ≤ s.round → k < 1000 →
      ∃ t, exec (.opcond n) s = .next t ∧ SlotMoved s t n.val { x with
        step := .opcond (k + 1), sent := ryenoFrame x.addr.toNat 0x01 [3], lastCmd := s.round, resends := 0, reps := 0 })
    ∧ (x.step = .opcond k → x.lastCmd + (if k = 0 ∧ x.waking = false then 37500 else 25000) ≤ s.round → 1000 ≤ k →
      ∃ t, exec (.opcond n) s = .next t ∧ SlotFaults s t n.val 0x01)
    ∧ (x.step = .ident → frameOk x b = true → stat = 0 → data.length = 12 →
      ∃ t, exec (.ryenoResponse n b rep) s = .next t ∧ SlotMoved s t n.val { x with
        id := slice data 0 8, tokClk := (byteAt data 8).toNat, tokW4 := bit (byteAt data 9) 1, locked := bit (byteAt data 10) 0
        step := .setaddr, sent := ryenoFrame x.addr.toNat 0x03 [BitVec.ofNat 8 (0x40 + n.val)], lastCmd := s.round
        resends := 0, reps := 0 })
    ∧ (x.step = .setaddr → frameOk x b = true → stat = 0 →
      ∃ t, exec (.ryenoResponse n b rep) s = .next t ∧ SlotMoved s t n.val { x with
        addr := BitVec.ofNat 8 (0x40 + n.val), step := .setbus
        sent := ryenoFrame (0x40 + n.val) 0x04
          [BitVec.ofNat 8 (16 * min (fld (slotCfg s n.val) 13 12) x.tokClk + b2n x.tokW4)]
        lastCmd := s.round, resends := 0, reps := 0 })
    ∧ (x.step = .toSleep → frameOk x b = true → stat = 0 →
      ∃ t, exec (.ryenoResponse n b rep) s = .next t ∧ SlotMoved s t n.val { x with st := .sleep, step := .none, reps := 0 })
    ∧ (∀ p, x.step = .tune p → p < 15 → frameOk x b = false ∨ stat ≠ 0 ∨ data ≠ tunePattern ∨ rep = true →
      ∃ t, exec (.ryenoResponse n b rep) s = .next t ∧ SlotMoved s t n.val { x with
        pass := setBit x.pass p false, phase := p + 1, step := .tune (p + 1), sent := ryenoFrame x.addr.toNat 0x05 []
        lastCmd := s.round, resends := 0, reps := 0 })
    ∧ (∀ p, x.step = .tune p → p < 15 → frameOk x b = true → stat = 0 → data = tunePattern → rep = false →
      ∃ t, exec (.ryenoResponse n b rep) s = .next t ∧ SlotMoved s t n.val { x with
        pass := setBit x.pass p true, phase := p + 1, step := .tune (p + 1), sent := ryenoFrame x.addr.toNat 0x05 []
        lastCmd := s.round, resends := 0, reps := 0 })
    ∧ (awaitsToken x = true → x.lastCmd + responseRounds x ≤ s.round → (∀ j, x.step ≠ .opcond j) →
      x.resends < 2 → sentOnce x = false →
      ∃ t, exec (.responseTimeout n) s = .next t ∧ SlotMoved s t n.val
        { x with resends := x.resends + 1, lastCmd := s.round, reps := 0 })
    ∧ (awaitsToken x = true → x.lastCmd + responseRounds x ≤ s.round → (∀ j, x.step ≠ .opcond j) →
      2 ≤ x.resends ∨ sentOnce x = true → x.step ≠ .writeUse → x.step ≠ .erase →
      ∃ t, exec (.responseTimeout n) s = .next t ∧ SlotFaults s t n.val 0x01)
    ∧ (x.kind = 1 → x.step = .writeUse ∨ x.step = .erase →
      x.lastCmd + beatRounds x (frameBeats x) + (if x.step = .erase then 50000000 else 625000) < s.round →
      ∃ t, exec (.busyLimit n) s = .next t ∧ SlotFaults s t n.val 0x08 ∧ t.quorum.st = .idle
        ∧ (s.quorum.st ≠ .idle → t.quorum.ended = .indeterminate))
    ∧ (x.st ≠ .off → x.st ≠ .fault → x.reps < fld (slotCfg s n.val) 22 20 →
      ∃ t, exec (.characterRepetition n) s = .next t ∧ SlotMoved s t n.val { x with reps := x.reps + 1 })
    ∧ (x.st ≠ .off → x.st ≠ .fault → fld (slotCfg s n.val) 22 20 ≤ x.reps →
      ∃ t, exec (.characterRepetition n) s = .next t ∧ SlotFaults s t n.val 0x02)
    ∧ (x.st = .ready → x.kind = 1 → x.step = .none ∨ x.step = .waitPw → fld (slotCfg s n.val) 31 24 ≠ 0 →
      x.lastCmd + 25000 * fld (slotCfg s n.val) 31 24 ≤ s.round →
      ∃ t, exec (.slotSleepTimer n) s = .next t ∧ SlotMoved s t n.val { x with
        step := .toSleep, sent := ryenoFrame x.addr.toNat 0x08 [], lastCmd := s.round, resends := 0, reps := 0 })

/-- Card exchanges (R365-R368): an invalid answer to a cold reset brings a warm reset and to a warm one FAULT, as does
one without T=0; an answer with the default pair makes the card READY; no answer takes the slot to its next class; PPS
sets the pair it echoes; 61xx and 6Cxx bring the command they ask for; and no character within the waiting time ends
the exchange. Where the manual leaves a point open the clauses rest on the model's own choices: log entries 36, 39,
40. -/
def Obligations.CardExchanges : Prop :=
  ∀ (s : State) (n : Fin 2) (b : Bytes) (sw : BitVec 16),
    let x := getSlot s n.val
    let a := parseAtr b
    let reset := x.step = .coldReset ∨ x.step = .warmReset
    let lo : Byte := BitVec.ofNat 8 (fld sw 7 0)
    houseUp s = true →
    (x.step = .coldReset → a.valid = false → ∃ t, exec (.atr n b) s = .next t
      ∧ SlotMoved s t n.val { x with step := .warmReset, lastCmd := s.round })
    ∧ (x.step = .warmReset ∧ a.valid = false ∨ reset ∧ a.valid = true ∧ a.t0 = false →
      ∃ t, exec (.atr n b) s = .next t ∧ SlotFaults s t n.val 0x04)
    ∧ (reset → a.valid = true → a.t0 = true → a.ta1 = none → a.ta2 = none → a.cls = none → s.quorum.st = .idle →
      ∃ t, exec (.atr n b) s = .next t ∧ SlotMoved s t n.val { x with
        kind := 2, wi := (match a.tc2 with | some v => v.toNat | none => 10), guard := a.tc1.getD 0
        st := .ready, step := .none, waking := false })
    ∧ (∀ c, reset → x.lastCmd + (if x.step = .coldReset then 500000 else 250000) ≤ s.round →
      nextClass s n.val (x.cls.toNat + 1) = some c → ∃ t, exec (.atrTimeout n) s = .next t
        ∧ SlotMoved s t n.val { slotOff x .probing with cls := BitVec.ofNat 2 c, lastCmd := s.round, step := .coldReset })
    ∧ (reset → x.lastCmd + (if x.step = .coldReset then 500000 else 250000) ≤ s.round →
      nextClass s n.val (x.cls.toNat + 1) = none → ∃ t, exec (.atrTimeout n) s = .next t ∧ SlotFaults s t n.val 0x04)
    ∧ (x.step = .pps → byteAt b 1 = byteAt x.sent 1 → byteAt b 2 = byteAt x.sent 2 → s.quorum.st = .idle →
      ∃ t, exec (.ppsResponse n b) s = .next t ∧ SlotMoved s t n.val { x with
        fi := fiOf (fld (byteAt x.sent 2) 7 4), di := diOf (fld (byteAt x.sent 2) 3 0)
        st := .ready, step := .none, waking := false })
    ∧ (x.step = .pps → byteAt b 1 ≠ byteAt x.sent 1 ∨ byteAt b 2 ≠ byteAt x.sent 2 →
      ∃ t, exec (.ppsResponse n b) s = .next t ∧ SlotMoved s t n.val { slotOff { x with noPps := true } .probing with
        cls := x.cls, lastCmd := s.round, step := .coldReset })
    ∧ (awaitsCard x = true → fld sw 15 8 = 0x61 → ∃ t, exec (.cardResponse n b sw) s = .next t
      ∧ SlotMoved s t n.val { x with
        got := x.got ++ b, sent := [0x00, 0xC0, 0x00, 0x00, lo], lastCmd := s.round, wait := s.round, reps := 0 })
    ∧ (awaitsCard x = true → fld sw 15 8 = 0x6C → ∃ t, exec (.cardResponse n b sw) s = .next t
      ∧ SlotMoved s t n.val { x with sent := x.sent.take 4 ++ [lo], lastCmd := s.round, wait := s.round, reps := 0 })
    ∧ (x.step = .verify → sw = 0x6983 → sessionOn s n.val = true → ∃ t, exec (.cardResponse n b sw) s = .next t
      ∧ SlotMoved s t n.val { x with step := .waitPw, st := .ready, lastErr := 0x0C })
    ∧ (awaitsCard x = true → x.wait + 6000 * x.wi * x.fi ≤ s.round →
      ∃ t, exec (.waitingTimeExpiry n) s = .next t ∧ SlotFaults s t n.val 0x01)
    ∧ (awaitsCard x = true → exec (.nullByte n) s = .next (modSlot s n.val fun y => { y with wait := s.round, reps := 0 }))

/-- SLOT registers and quorum sessions (R348, R364, R370, R371, R373, R374): a physical function's write acts in the
next round. OPEN starts a session for its function, CLOSE by the same function and the limit of its timer end it, and
it opens when the custodians asked for are counted; a custodian is counted once, with its component; a placed password
is of 8 to 32 bytes; a challenge takes two blocks. Where the manual leaves a point open the clauses rest on the
model's own choices: log entries 37, 41, 42, 93, 96. -/
def Obligations.QuorumSessions : Prop :=
  ∀ (s : State) (f : Func) (n : Fin 2) (m : BitVec 4) (v : Word) (data : Bytes) (sw : BitVec 16),
    let x := getSlot s n.val
    let q := s.quorum
    let put (off : Nat) (w : Word) : State := { s with quorum := { q with writes := q.writes ++ [(f, off, w)] } }
    (Reaches s f → f.vf = 0 →
      exec (.activate f n) s = .next (put 0x30 (mkWord (4 * 256 ^ n.val)))
      ∧ exec (.eraseToken f n) s = .next (put 0x30 (mkWord (2 * 256 ^ n.val)))
      ∧ exec (.deactivate f n) s = .next (put 0x30 (mkWord (256 ^ n.val)))
      ∧ exec (.slotPwCtrl f n v) s = .next (put (0xA0 + 4 * n.val) v)
      ∧ exec (.quorumOpen f m) s = .next (put 0x40 (mkWord (0x80000000 + m.toNat)))
      ∧ exec (.quorumClose f) s = .next (put 0x40 0x40000000))
    ∧ (x.present = true → x.st ≠ .off → x.step ≠ .writeUse → x.step ≠ .erase →
      SlotMoved s (applySlotWrite s (f, 0x30, mkWord (256 ^ n.val))) n.val (slotOff x .off))
    ∧ (∀ c, x.present = true → x.st = .fault → nextClass s n.val 1 = some c →
      SlotMoved s (applySlotWrite s (f, 0x30, mkWord (4 * 256 ^ n.val))) n.val
        { slotOff { x with noPps := false } .probing with
          cls := BitVec.ofNat 2 c, lastCmd := s.round, step := if c ≤ 2 then .opcond 0 else .coldReset })
    ∧ (q.st = .idle → x.kind = 1 → x.st = .ready → x.step = .none →
      SlotMoved s (applySlotWrite s (f, 0x30, mkWord (2 * 256 ^ n.val))) n.val { x with
        st := .busy, step := .erase, sent := ryenoFrame x.addr.toNat 0x23 [], lastCmd := s.round, resends := 0, reps := 0 })
    ∧ (Reaches s f → f.vf ≠ 0 → ∀ c ∈ [Instr.activate f n, .eraseToken f n, .deactivate f n],
      exec c s = .next (regErr s f 0x00100030))
    ∧ (q.st = .idle → 2 ≤ m.toNat → m.toNat ≤ rosterUsed s →
      (applySlotWrite s (f, 0x40, mkWord (0x80000000 + m.toNat))).quorum = { q with
        st := .gather, m := m.toNat, func := f, mask := 0, comps := [], inForce := q.limit.at_ s.round, timer := 0 })
    ∧ (q.st ≠ .idle → f = q.func → (applySlotWrite s (f, 0x40, 0x40000000)).quorum =
      { q with st := .idle, ended := .closed, m := 0, comps := [] })
    ∧ (q.st ≠ .idle → f ≠ q.func → (applySlotWrite s (f, 0x40, 0x40000000)).quorum = q)
    ∧ (q.st ≠ .idle → Config.roundsPerSecond * q.inForce ≤ q.timer → ∃ t, exec .quorumLimit s = .next t
      ∧ t.quorum = { q with st := .idle, ended := .limit, m := 0, comps := [] } ∧ t.keys.ready = s.keys.ready
      ∧ ∀ pl ∈ pfs s, bit (getIrq t pl).status 23 = true)
    ∧ (q.writes = [] → q.st = .gather → (slotTurn s).quorum.st = (if q.m ≤ heldCustodians s then .open_ else .gather))
    ∧ (houseUp s = true → x.step = .challenge → shoeHas s 2 = true → ∃ t, exec (.challengeDraw n) s = .next t
      ∧ t.rng.resv = s.rng.resv + 2 ∧ t.rng.shoe = s.rng.shoe.drop 2
      ∧ getSlot t n.val = { x with step := .drawing s.round, chal := blockBytes (s.rng.shoe.take 2) }
      ∧ { t with rng := s.rng, slots := s.slots } = s)
    ∧ (houseUp s = true → x.kind = 2 → x.step = .writeUse → sw = 0x9000 → sessionOn s n.val = true → x.roster.toNat < 15 →
      bit q.mask x.roster.toNat = false → ∃ t, exec (.cardResponse n data sw) s = .next t
        ∧ t.quorum = { q with
            mask := setBit q.mask x.roster.toNat true
            comps := (match x.comp with | some c => if q.comps.length < 9 then q.comps ++ [c] else q.comps | none => q.comps) }
        ∧ SlotMoved s { t with quorum := q } n.val { x with step := .none, st := .ready, comp := none })
    ∧ (fld v 31 31 = 1 → fld v 5 0 < 8 ∨ 32 < fld v 5 0 → applySlotWrite s (f, 0xA0 + 4 * n.val, v) = s)

/-- Messages in parts (R150, R152, R153, R173-R175): a digest absorbs two parts as it absorbs them joined, so a
message cut into segments has the digest of the whole; counter mode carries its counter over a cut at a block, and
undoes itself. Where the manual leaves a point open the clauses rest on the model's own choices: log entries 14, 68.
-/
def Obligations.MessagesInParts : Prop :=
  (∀ (h : Nat) (g : DigestSt) (a b : Bytes), digAbsorb h (digAbsorb h g a) b = digAbsorb h g (a ++ b))
  ∧ (∀ (h : Nat) (a b : Bytes),
    digFinal h (halgSuffix h) (digAbsorb h (digAbsorb h (digInit h) a) b) (halgF h) = hashOf h (a ++ b))
  ∧ (∀ (w : Nat) (key c a b : Bytes), a.length % 16 = 0 →
    ctrCrypt w key c (a ++ b) = ((ctrCrypt w key c a).1 ++ (ctrCrypt w key (ctrCrypt w key c a).2 b).1,
      (ctrCrypt w key (ctrCrypt w key c a).2 b).2))
  ∧ ∀ (w : Nat) (key c x : Bytes), key.length = 16 ∨ key.length = 24 ∨ key.length = 32 → c.length = 16 →
    ctrCrypt w key c (ctrCrypt w key c x).1 = (x, (ctrCrypt w key c x).2)
end

