-- ==== Sys2Proof/Laws/Tables.lean ====
section
/-!
SUPPORT. Laws of the sparse tables: a read after a write, and the canonical form every write keeps.
-/
namespace Sys2Proof.Machine

variable {α : Type}

theorem sget_serase_ne (d : α) (m : SMap α) {k k' : Nat} (h : k' ≠ k) : sget d (serase m k) k' = sget d m k' := by
  unfold serase
  induction m with
  | nil => rfl
  | cons e t ih =>
    obtain ⟨a, v⟩ := e
    by_cases ha : a = k
    · subst ha
      simpa [sget, Ne.symm h] using ih
    · simp only [List.filter_cons, ne_eq, ha, not_false_eq_true, decide_true, if_true, sget]
      rw [ih]

theorem sget_serase_self (d : α) (m : SMap α) (k : Nat) : sget d (serase m k) k = d := by
  unfold serase
  induction m with
  | nil => rfl
  | cons e t ih =>
    obtain ⟨a, v⟩ := e
    by_cases ha : a = k
    · subst ha
      simpa [sget] using ih
    · simp only [List.filter_cons, ne_eq, ha, not_false_eq_true, decide_true, if_true, sget, if_false]
      exact ih

theorem sget_sins_self (d : α) (m : SMap α) (k : Nat) (v : α) (h : sget d m k = d) (hv : ∀ e ∈ m, e.1 ≠ k) :
    sget d (sins k v m) k = v := by
  induction m with
  | nil => simp [sins, sget]
  | cons e t ih =>
    obtain ⟨a, w⟩ := e
    have ha : a ≠ k := hv (a, w) (by simp)
    simp only [sins]
    split
    · simp [sget]
    · simp only [sget, ha, if_false] at h ⊢
      exact ih h (fun e he => hv e (by simp [he]))

theorem sget_sins_ne (d : α) (m : SMap α) {k k' : Nat} (v : α) (h : k' ≠ k) : sget d (sins k v m) k' = sget d m k' := by
  induction m with
  | nil => simp [sins, sget, Ne.symm h]
  | cons e t ih =>
    obtain ⟨a, w⟩ := e
    simp only [sins]
    split
    · simp [sget, Ne.symm h]
    · simp only [sget]
      rw [ih]

theorem mem_serase {m : SMap α} {k : Nat} {e : Nat × α} (h : e ∈ serase m k) : e ∈ m ∧ e.1 ≠ k := by
  simpa [serase] using h

theorem mem_sins {k : Nat} {v : α} {m : SMap α} {e : Nat × α} (h : e ∈ sins k v m) : e = (k, v) ∨ e ∈ m := by
  induction m with
  | nil => left; simpa [sins] using h
  | cons f t ih =>
    obtain ⟨b, w⟩ := f
    simp only [sins] at h
    split at h
    · rcases List.mem_cons.1 h with h | h
      · exact .inl h
      · exact .inr h
    · rcases List.mem_cons.1 h with h | h
      · right; simp [h]
      · rcases ih h with h | h
        · exact .inl h
        · right; simp [h]

variable [DecidableEq α]

/-- A table reads back what was written. -/
@[simp] theorem sget_sput_self (d : α) (m : SMap α) (k : Nat) (v : α) : sget d (sput d m k v) k = v := by
  unfold sput
  split
  · rename_i h
    rw [h]
    exact sget_serase_self d m k
  · exact sget_sins_self d _ k v (sget_serase_self d m k) fun e he => (mem_serase he).2

/-- A write leaves every other entry alone. -/
theorem sget_sput_ne (d : α) (m : SMap α) {k k' : Nat} (v : α) (h : k' ≠ k) : sget d (sput d m k v) k' = sget d m k' := by
  unfold sput
  split
  · exact sget_serase_ne d m h
  · rw [sget_sins_ne d _ v h, sget_serase_ne d m h]

theorem sget_sput (d : α) (m : SMap α) (k k' : Nat) (v : α) :
    sget d (sput d m k v) k' = if k' = k then v else sget d m k' := by
  split
  · rename_i h
    rw [h, sget_sput_self]
  · rename_i h
    exact sget_sput_ne d m v h

/-! ## The canonical form -/

/-- The canonical form, as a relation between neighbours. -/
theorem swf_iff (d : α) (m : SMap α) :
    swf d m = true ↔ (∀ e ∈ m, e.2 ≠ d) ∧ m.Pairwise (fun e e' => e.1 < e'.1) := by
  induction m with
  | nil => simp [swf]
  | cons e t ih =>
    obtain ⟨a, v⟩ := e
    cases t with
    | nil => simp [swf]
    | cons e' t =>
      obtain ⟨b, w⟩ := e'
      simp only [swf, Bool.and_eq_true, decide_eq_true_eq, ih]
      constructor
      · rintro ⟨⟨hv, hk⟩, hd, hp⟩
        refine ⟨?_, ?_⟩
        · intro e he
          rcases List.mem_cons.1 he with rfl | he
          · exact hv
          · exact hd e he
        · refine List.pairwise_cons.2 ⟨?_, hp⟩
          intro e he
          rcases List.mem_cons.1 he with rfl | he
          · exact hk
          · exact Nat.lt_trans hk ((List.pairwise_cons.1 hp).1 e he)
      · rintro ⟨hd, hp⟩
        have hp' := List.pairwise_cons.1 hp
        exact ⟨⟨hd (a, v) (by simp), hp'.1 (b, w) (by simp)⟩, fun e he => hd e (by simp [he]), hp'.2⟩

theorem swf_filter (d : α) (m : SMap α) (p : Nat × α → Bool) (h : swf d m = true) : swf d (m.filter p) = true := by
  rw [swf_iff] at h ⊢
  exact ⟨fun e he => h.1 e (List.mem_filter.1 he).1, h.2.filter p⟩

theorem swf_sins (d : α) (m : SMap α) (k : Nat) (v : α) (hv : v ≠ d) (h : swf d m = true) (hk : ∀ e ∈ m, e.1 ≠ k) :
    swf d (sins k v m) = true := by
  rw [swf_iff] at h ⊢
  refine ⟨fun e he => ?_, ?_⟩
  · rcases mem_sins he with rfl | he
    · exact hv
    · exact h.1 e he
  · have hp := h.2
    clear h
    induction m with
    | nil => simp [sins]
    | cons f t ih =>
      obtain ⟨b, w⟩ := f
      have hp' := List.pairwise_cons.1 hp
      simp only [sins]
      split
      · rename_i hlt
        refine List.pairwise_cons.2 ⟨?_, hp⟩
        intro e he
        rcases List.mem_cons.1 he with rfl | he
        · exact hlt
        · exact Nat.lt_trans hlt (hp'.1 e he)
      · rename_i hge
        refine List.pairwise_cons.2 ⟨?_, ih (fun e he => hk e (by simp [he])) hp'.2⟩
        intro e he
        rcases mem_sins he with rfl | he
        · have := hk (b, w) (by simp)
          simp only at this ⊢
          omega
        · exact hp'.1 e he

/-- Every write keeps the canonical form. -/
theorem swf_sput (d : α) (m : SMap α) (k : Nat) (v : α) (h : swf d m = true) : swf d (sput d m k v) = true := by
  unfold sput
  split
  · exact swf_filter d m _ h
  · rename_i hv
    exact swf_sins d _ k v hv (swf_filter d m _ h) fun e he => (mem_serase he).2

end Sys2Proof.Machine
end

