-- ==== Sys2Proof/Laws/Memory.lean ====
section
/-!
SUPPORT. Laws of memory: a byte read after a store, every other byte, and the canonical form.
-/
namespace Sys2Proof.Machine

theorem cells_ge {a : Nat} {b : Bytes} {e : Host.Cell} (h : e ∈ cells a b) : a ≤ e.1 ∧ e.1 < a + b.length ∧ e.2 ≠ 0 := by
  induction b generalizing a with
  | nil => simp [cells] at h
  | cons x t ih =>
    have up : e ∈ cells (a + 1) t → a ≤ e.1 ∧ e.1 < a + (x :: t).length ∧ e.2 ≠ 0 := fun h => by
      have := ih h
      refine ⟨by omega, ?_, this.2.2⟩
      simp only [List.length_cons]
      omega
    simp only [cells] at h
    split at h
    · exact up h
    · rename_i hx
      rcases List.mem_cons.1 h with rfl | h
      · exact ⟨Nat.le_refl _, by simp, hx⟩
      · exact up h

theorem swf_cells (a : Nat) (b : Bytes) : swf (0 : Byte) (cells a b) = true := by
  rw [swf_iff]
  refine ⟨fun e he => (cells_ge he).2.2, ?_⟩
  induction b generalizing a with
  | nil => simp [cells]
  | cons x t ih =>
    simp only [cells]
    split
    · exact ih _
    · refine List.pairwise_cons.2 ⟨fun e he => ?_, ih _⟩
      have := (cells_ge he).1
      simp only
      omega

/-- A store keeps memory's canonical form. -/
theorem memPut_wf (m : List Host.Cell) (a : Nat) (b : Bytes) (h : Memory.wf m) : Memory.wf (memPut m a b) := by
  unfold Memory.wf at *
  have hf := fun p => swf_filter (0 : Byte) m p h
  have hc := swf_cells a b
  unfold memPut
  rw [swf_iff] at hc ⊢
  refine ⟨?_, ?_⟩
  · intro e he
    simp only [List.mem_append] at he
    rcases he with (he | he) | he
    · exact ((swf_iff _ _).1 (hf _)).1 e he
    · exact hc.1 e he
    · exact ((swf_iff _ _).1 (hf _)).1 e he
  · refine List.pairwise_append.2 ⟨List.pairwise_append.2 ⟨((swf_iff _ _).1 (hf _)).2, hc.2, ?_⟩,
      ((swf_iff _ _).1 (hf _)).2, ?_⟩
    · intro e he e' he'
      have h1 := (List.mem_filter.1 he).2
      have h2 := cells_ge he'
      simp only [decide_eq_true_eq] at h1
      omega
    · intro e he e' he'
      have h1 := (List.mem_filter.1 he').2
      simp only [decide_eq_true_eq] at h1
      rcases List.mem_append.1 he with he | he
      · have h2 := (List.mem_filter.1 he).2
        simp only [decide_eq_true_eq] at h2
        omega
      · have h2 := cells_ge he
        omega

theorem sget_append {α : Type} (d : α) (m n : SMap α) (k : Nat) (h : ∀ e ∈ m, e.1 ≠ k) :
    sget d (m ++ n) k = sget d n k := by
  induction m with
  | nil => rfl
  | cons e t ih =>
    obtain ⟨a, v⟩ := e
    have ha : a ≠ k := h (a, v) (by simp)
    simp only [List.cons_append, sget, ha, if_false]
    exact ih fun e he => h e (by simp [he])

theorem sget_append_left {α : Type} (d : α) (m n : SMap α) (k : Nat) (h : ∀ e ∈ n, e.1 ≠ k) :
    sget d (m ++ n) k = sget d m k := by
  induction m with
  | nil =>
    simp only [List.nil_append, sget]
    induction n with
    | nil => rfl
    | cons e t ih =>
      obtain ⟨a, v⟩ := e
      have ha : a ≠ k := h (a, v) (by simp)
      simp only [sget, ha, if_false]
      exact ih fun e he => h e (by simp [he])
  | cons e t ih =>
    obtain ⟨a, v⟩ := e
    simp only [List.cons_append, sget]
    rw [ih]

theorem sget_filter {α : Type} (d : α) (m : SMap α) (p : Nat → Bool) (k : Nat) :
    sget d (m.filter fun e => p e.1) k = if p k then sget d m k else d := by
  induction m with
  | nil => simp [sget]
  | cons e t ih =>
    obtain ⟨a, v⟩ := e
    by_cases hp : p a
    · simp only [List.filter_cons, hp, if_true, sget]
      by_cases hk : a = k
      · subst hk
        simp [hp]
      · simp only [hk, if_false]
        exact ih
    · simp only [List.filter_cons, hp, sget]
      rw [if_neg (by simp), ih]
      by_cases hk : a = k
      · subst hk
        simp [hp]
      · simp [hk]

theorem sget_cells (a : Nat) (b : Bytes) (x : Nat) :
    sget 0 (cells a b) x = if a ≤ x then b.getD (x - a) 0 else 0 := by
  induction b generalizing a with
  | nil => simp [cells, sget]
  | cons y t ih =>
    simp only [cells]
    by_cases hx : a = x
    · subst hx
      split
      · rename_i hy
        rw [ih, if_neg (by omega)]
        simp [hy]
      · simp [sget]
    · have key : (if a + 1 ≤ x then t.getD (x - (a + 1)) 0 else (0 : Byte))
          = if a ≤ x then (y :: t).getD (x - a) 0 else 0 := by
        by_cases hle : a + 1 ≤ x
        · have : x - a = (x - (a + 1)) + 1 := by omega
          rw [if_pos hle, if_pos (by omega), this]
          rfl
        · rw [if_neg hle, if_neg (by omega)]
      split
      · rw [ih, key]
      · simp only [sget, hx, if_false]
        rw [ih, key]

/-- What a byte of memory reads after a store. -/
theorem sget_memPut (m : List Host.Cell) (a : Nat) (b : Bytes) (x : Nat) :
    sget 0 (memPut m a b) x = if a ≤ x ∧ x < a + b.length then b.getD (x - a) 0 else sget 0 m x := by
  have hlow := sget_filter (0 : Byte) m (fun k => decide (k < a)) x
  have hhigh := sget_filter (0 : Byte) m (fun k => decide (a + b.length ≤ k)) x
  unfold memPut
  by_cases h1 : a ≤ x
  · by_cases h2 : x < a + b.length
    · rw [if_pos ⟨h1, h2⟩, sget_append_left, sget_append, sget_cells, if_pos h1]
      · intro e he
        have := (List.mem_filter.1 he).2
        simp only [decide_eq_true_eq] at this
        omega
      · intro e he
        have := (List.mem_filter.1 he).2
        simp only [decide_eq_true_eq] at this
        omega
    · rw [if_neg (fun h => h2 h.2), sget_append]
      · rw [hhigh]
        simp only [decide_eq_true_eq]
        rw [if_pos (by omega)]
      · intro e he
        rcases List.mem_append.1 he with he | he
        · have := (List.mem_filter.1 he).2
          simp only [decide_eq_true_eq] at this
          omega
        · have := cells_ge he
          omega
  · rw [if_neg (fun h => h1 h.1), sget_append_left, sget_append_left, hlow]
    · simp only [decide_eq_true_eq]
      rw [if_pos (by omega)]
    · intro e he
      have := cells_ge he
      omega
    · intro e he
      have := (List.mem_filter.1 he).2
      simp only [decide_eq_true_eq] at this
      omega

/-- A byte read after a store. -/
theorem rd_store (s : State) (a : Nat) (b : Bytes) (x : Nat) :
    rd (store s a b) x = if a ≤ x ∧ x < a + b.length then b.getD (x - a) 0 else rd s x := sget_memPut ..

theorem rdN_length (s : State) (a n : Nat) : (rdN s a n).length = n := by simp [rdN]

/-- What was stored is read back. -/
theorem rdN_store (s : State) (a : Nat) (b : Bytes) : rdN (store s a b) a b.length = b := by
  apply List.ext_getElem
  · simp [rdN]
  · intro i h1 h2
    simp [rdN, rd_store, h2]

end Sys2Proof.Machine
end

