-- ==== Sys2Proof/Laws/Keeps.lean ====
section
/-!
SUPPORT. What every operation of the machine keeps: the queue of waiting commands, the direction in which fuses
move, ROUND_COUNT, and the canonical form of memory and of the tables.
-/
namespace Sys2Proof.Machine

/-- Fuses move one way: what is written at manufacture stands, the lifecycle code and the SVN count do not fall, the
count stays a 6-bit one, and the owner's hash is written only out of BLANK. -/
structure FuseLe (f g : Fuses) : Prop where
  lc : f.lc.code ≤ g.lc.code
  svn : f.svn ≤ g.svn
  top : f.svn ≤ 63 → g.svn ≤ 63
  owner : f.lc = .blank ∨ g.owner = f.owner
  made : g.dieId = f.dieId ∧ g.trim = f.trim ∧ g.vdm = f.vdm

theorem FuseLe.refl (f : Fuses) : FuseLe f f := ⟨Nat.le_refl _, Nat.le_refl _, id, .inr rfl, rfl, rfl, rfl⟩

theorem FuseLe.trans {f g k : Fuses} (h : FuseLe f g) (h' : FuseLe g k) : FuseLe f k where
  lc := Nat.le_trans h.lc h'.lc
  svn := Nat.le_trans h.svn h'.svn
  top := h'.top ∘ h.top
  owner := by
    rcases h.owner with o | o
    · exact .inl o
    · rcases h'.owner with o' | o'
      · have := h.lc
        rw [o'] at this
        left
        cases hf : f.lc <;> simp [hf, Lifecycle.code] at this ⊢
      · exact .inr (o'.trans o)
  made := ⟨h'.made.1.trans h.made.1, h'.made.2.1.trans h.made.2.1, h'.made.2.2.trans h.made.2.2⟩

/-- What an operation keeps; z: it may be a main reset, which sets ROUND_COUNT to 0. -/
structure Keeps (z : Bool) (s t : State) : Prop where
  pending : t.pending = s.pending
  round : t.round = s.round ∨ (z = true ∧ t.round = 0)
  fuses : FuseLe s.fuses t.fuses
  mem : Memory.wf s.mem → Memory.wf t.mem
  tables : Tables s → Tables t

variable {z : Bool}

@[simp] theorem Keeps.refl (s : State) : Keeps z s s := ⟨rfl, .inl rfl, .refl _, id, id⟩

theorem Keeps.trans {s t u : State} (h : Keeps z s t) (h' : Keeps z t u) : Keeps z s u where
  pending := h'.pending.trans h.pending
  round := by
    rcases h'.round with r | r
    · rw [r]; exact h.round
    · exact .inr r
  fuses := h.fuses.trans h'.fuses
  mem := h'.mem ∘ h.mem
  tables := h'.tables ∘ h.tables

/-- An operation that is no main reset keeps what one that may be keeps. -/
theorem Keeps.weaken {s t : State} (h : Keeps false s t) : Keeps true s t where
  pending := h.pending
  round := by
    rcases h.round with r | r
    · exact .inl r
    · cases r.1
  fuses := h.fuses
  mem := h.mem
  tables := h.tables

theorem Keeps.tick {s t : State} (h : Keeps false s t) :
    Keeps z { s with round := s.round + 1 } { t with round := t.round + 1 } where
  pending := h.pending
  round := by
    rcases h.round with r | r
    · exact .inl (congrArg (· + 1) r)
    · cases r.1
  fuses := h.fuses
  mem := h.mem
  tables := fun w =>
    have w' := h.tables ⟨w.1, w.2, w.3, w.4, w.5, w.6⟩
    ⟨w'.1, w'.2, w'.3, w'.4, w'.5, w'.6⟩

/-- The other fields are free to change. -/
@[simp] theorem Keeps.mk_simp {s t : State} (h : Keeps z s t) {b d e k g m p q u v w x} :
    Keeps z s (State.mk t.pending t.round t.mem b t.fuses d e t.irq t.seats k g t.lanes t.records t.engines m p q u
      t.slots v w x) := ⟨h.pending, h.round, h.fuses, h.mem, fun k => ⟨(h.tables k).1, (h.tables k).2, (h.tables k).3,
        (h.tables k).4, (h.tables k).5, (h.tables k).6⟩⟩

@[simp] theorem Keeps.ite {s t u : State} {c : Prop} [Decidable c] (h1 : c → Keeps z s t) (h2 : ¬c → Keeps z s u) :
    Keeps z s (if c then t else u) := by
  split
  · exact h1 ‹_›
  · exact h2 ‹_›

@[simp] theorem Keeps.foldl {α : Type} {s t : State} (h : Keeps z s t) {l : List α} {f : State → α → State}
    (hf : ∀ t x, Keeps z t (f t x)) : Keeps z s (l.foldl f t) := by
  induction l generalizing t with
  | nil => exact h
  | cons x l ih => exact ih (h.trans (hf _ _))

theorem Keeps.foldlOn {α β : Type} {s : State} (p : β → State) {b : β} (h : Keeps z s (p b)) {l : List α} {f : β → α → β}
    (hf : ∀ b x, Keeps z (p b) (p (f b x))) : Keeps z s (p (l.foldl f b)) := by
  induction l generalizing b with
  | nil => exact h
  | cons x l ih => exact ih (h.trans (hf _ _))

theorem Keeps.of_fst {β : Type} {s t : State} {p : State × β} {x : β} (h : Keeps z s p.1) (e : p = (t, x)) :
    Keeps z s t := by
  subst e
  exact h

/-- A command goes on to a next state that keeps what every operation keeps. -/
def Goes (z : Bool) (s : State) (o : Out) : Prop := ∃ t, o = .next t ∧ Keeps z s t

@[simp] theorem Goes.next {s t : State} (h : Keeps z s t) : Goes z s (.next t) := ⟨t, rfl, h⟩

@[simp] theorem Goes.ite {s : State} {a b : Out} {c : Prop} [Decidable c] (h1 : c → Goes z s a) (h2 : ¬c → Goes z s b) :
    Goes z s (if c then a else b) := by
  split
  · exact h1 ‹_›
  · exact h2 ‹_›

end Sys2Proof.Machine
end

