-- ==== Sys2Proof/Laws/KeepsOps.lean ====
section
/-!
SUPPORT. Every operation of Machine/Ops.lean keeps what Laws/Keeps.lean names.
-/
namespace Sys2Proof.Machine

@[simp] theorem setSeat_keeps {z : Bool} {s₀ : State} {s : State} {i : Nat} {x : Seat} (h : Keeps z s₀ s) :
    Keeps z s₀ (setSeat s i x) := ⟨h.pending, h.round, h.fuses, h.mem, fun k => { h.tables k with seats := swf_sput _ _ _ _ (h.tables k).seats }⟩

@[simp] theorem modSeat_keeps {z : Bool} {s₀ : State} {s : State} {i : Nat} {f : Seat → Seat} (h : Keeps z s₀ s) :
    Keeps z s₀ (modSeat s i f) := by simp (maxDischargeDepth := 99) [modSeat, h]

@[simp] theorem setLane_keeps {z : Bool} {s₀ : State} {s : State} {i : Nat} {x : Lane} (h : Keeps z s₀ s) :
    Keeps z s₀ (setLane s i x) := ⟨h.pending, h.round, h.fuses, h.mem, fun k => { h.tables k with lanes := swf_sput _ _ _ _ (h.tables k).lanes }⟩

@[simp] theorem modLane_keeps {z : Bool} {s₀ : State} {s : State} {i : Nat} {f : Lane → Lane} (h : Keeps z s₀ s) :
    Keeps z s₀ (modLane s i f) := by simp (maxDischargeDepth := 99) [modLane, h]

@[simp] theorem setEngine_keeps {z : Bool} {s₀ : State} {s : State} {i : Nat} {x : Engine} (h : Keeps z s₀ s) :
    Keeps z s₀ (setEngine s i x) := ⟨h.pending, h.round, h.fuses, h.mem, fun k => { h.tables k with engines := swf_sput _ _ _ _ (h.tables k).engines }⟩

@[simp] theorem modEngine_keeps {z : Bool} {s₀ : State} {s : State} {i : Nat} {f : Engine → Engine} (h : Keeps z s₀ s) :
    Keeps z s₀ (modEngine s i f) := by simp (maxDischargeDepth := 99) [modEngine, h]

@[simp] theorem setSlot_keeps {z : Bool} {s₀ : State} {s : State} {i : Nat} {x : Slot} (h : Keeps z s₀ s) :
    Keeps z s₀ (setSlot s i x) := ⟨h.pending, h.round, h.fuses, h.mem, fun k => { h.tables k with slots := swf_sput _ _ _ _ (h.tables k).slots }⟩

@[simp] theorem modSlot_keeps {z : Bool} {s₀ : State} {s : State} {i : Nat} {f : Slot → Slot} (h : Keeps z s₀ s) :
    Keeps z s₀ (modSlot s i f) := by simp (maxDischargeDepth := 99) [modSlot, h]

@[simp] theorem setHand_keeps {z : Bool} {s₀ : State} {s : State} {i : Nat} {x : Hand} (h : Keeps z s₀ s) :
    Keeps z s₀ (setHand s i x) := by simp (maxDischargeDepth := 99) [setHand, h]

@[simp] theorem modHand_keeps {z : Bool} {s₀ : State} {s : State} {i : Nat} {f : Hand → Hand} (h : Keeps z s₀ s) :
    Keeps z s₀ (modHand s i f) := by simp (maxDischargeDepth := 99) [modHand, h]

@[simp] theorem setSource_keeps {z : Bool} {s₀ : State} {s : State} {i : Nat} {x : Source} (h : Keeps z s₀ s) :
    Keeps z s₀ (setSource s i x) := by simp (maxDischargeDepth := 99) [setSource, h]

@[simp] theorem setRec_keeps {z : Bool} {s₀ : State} {s : State} {i : Nat} {x : Option MigRec} (h : Keeps z s₀ s) :
    Keeps z s₀ (setRec s i x) := ⟨h.pending, h.round, h.fuses, h.mem, fun k => { h.tables k with records := swf_sput _ _ _ _ (h.tables k).records }⟩

@[simp] theorem setFlag_keeps {z : Bool} {s₀ : State} {s : State} {k : Nat} {x : Flag} (h : Keeps z s₀ s) :
    Keeps z s₀ (setFlag s k x) := by simp (maxDischargeDepth := 99) [setFlag, h]

@[simp] theorem setIrq_keeps {z : Bool} {s₀ : State} {s : State} {k : Nat} {x : IrqBlock} (h : Keeps z s₀ s) :
    Keeps z s₀ (setIrq s k x) := ⟨h.pending, h.round, h.fuses, h.mem, fun k => { h.tables k with irq := swf_sput _ _ _ _ (h.tables k).irq }⟩

@[simp] theorem setCore_keeps {z : Bool} {s₀ : State} {s : State} {c : CoreId} {x : Core} (h : Keeps z s₀ s) :
    Keeps z s₀ (setCore s c x) := by
  unfold setCore
  (repeat' split) <;> simp (maxDischargeDepth := 99) [h]

@[simp] theorem pushWrite_keeps {z : Bool} {s₀ : State} {s : State} {w : LinkWrite} (h : Keeps z s₀ s) :
    Keeps z s₀ (pushWrite s w) := by simp (maxDischargeDepth := 99) [pushWrite, h]

@[simp] theorem sendMsi_keeps {z : Bool} {s₀ : State} {s : State} {f : Func} {v : BitVec 11} (h : Keeps z s₀ s) :
    Keeps z s₀ (sendMsi s f v) := by simp (maxDischargeDepth := 99) [sendMsi, h]

@[simp] theorem raiseIrq_keeps {z : Bool} {s₀ : State} {s : State} {pl : Nat} {b : Nat} {again : Bool} (h : Keeps z s₀ s) :
    Keeps z s₀ (raiseIrq s pl b again) := by simp (maxDischargeDepth := 99) [raiseIrq, h]

@[simp] theorem raiseAll_keeps {z : Bool} {s₀ : State} {s : State} {b : Nat} (h : Keeps z s₀ s) :
    Keeps z s₀ (raiseAll s b) := by simp (maxDischargeDepth := 99) [raiseAll, h]

@[simp] theorem accessErr_keeps {z : Bool} {s₀ : State} {s : State} {f : Func} {info : Word} (h : Keeps z s₀ s) :
    Keeps z s₀ (accessErr s f info) := by simp (maxDischargeDepth := 99) [accessErr, h]

@[simp] theorem regErr_keeps {z : Bool} {s₀ : State} {s : State} {f : Func} {off : Nat} (h : Keeps z s₀ s) :
    Keeps z s₀ (regErr s f off) := by simp (maxDischargeDepth := 99) [regErr, h]

@[simp] theorem bar4Err_keeps {z : Bool} {s₀ : State} {s : State} {f : Func} {off : Nat} (h : Keeps z s₀ s) :
    Keeps z s₀ (bar4Err s f off) := by simp (maxDischargeDepth := 99) [bar4Err, h]

@[simp] theorem barWrite_keeps {z : Bool} {s₀ : State} {s : State} {f : Func} {off : Nat} {act : State → State} (h_act : ∀ t, Keeps z t (act t)) (h : Keeps z s₀ s) :
    Keeps z s₀ (barWrite s f off act) := by
  unfold barWrite
  split
  · exact h
  · split
    · simp [h]
    · exact h.trans (h_act _)

@[simp] theorem pfWrite_keeps {z : Bool} {s₀ : State} {s : State} {f : Func} {off : Nat} {act : State → State} (h_act : ∀ t, Keeps z t (act t)) (h : Keeps z s₀ s) :
    Keeps z s₀ (pfWrite s f off act) := by
  have k_act : ∀ {t u}, Keeps z t u → Keeps z t (act u) := fun k => k.trans (h_act _)
  simp (maxDischargeDepth := 99) [pfWrite, h, k_act]

@[simp] theorem bucketUp_keeps {z : Bool} {s₀ : State} {s : State} {mem : Nat} {v : Nat} (h : Keeps z s₀ s) :
    Keeps z s₀ (bucketUp s mem v) := by simp (maxDischargeDepth := 99) [bucketUp, h]

@[simp] theorem recordUe_keeps {z : Bool} {s₀ : State} {s : State} {mem : Nat} {word : Nat} {tag : Bool} (h : Keeps z s₀ s) :
    Keeps z s₀ (recordUe s mem word tag) := by simp (maxDischargeDepth := 99) [recordUe, h]

@[simp] theorem recordCe_keeps {z : Bool} {s₀ : State} {s : State} {k : Nat} (h : Keeps z s₀ s) :
    Keeps z s₀ (recordCe s k) := by simp (maxDischargeDepth := 99) [recordCe, h]

@[simp] theorem touchWords_keeps {z : Bool} {s₀ : State} {s : State} {ks : List Nat} (h : Keeps z s₀ s) :
    Keeps z s₀ (touchWords s ks) := by
  refine Keeps.foldl h fun t x => ?_
  split <;> simp

@[simp] theorem freshWords_keeps {z : Bool} {s₀ : State} {s : State} {ks : List Nat} (h : Keeps z s₀ s) :
    Keeps z s₀ (freshWords s ks) := by simp (maxDischargeDepth := 99) [freshWords, h]

@[simp] theorem store_keeps {z : Bool} {s₀ : State} {s : State} {a : Nat} {b : Bytes} (h : Keeps z s₀ s) :
    Keeps z s₀ (store s a b) := ⟨h.pending, h.round, h.fuses, fun w => memPut_wf _ _ _ (h.mem w), fun k => { h.tables k with }⟩

@[simp] theorem tagGranules_keeps {z : Bool} {s₀ : State} {s : State} {g : Nat} {n : Nat} {suit : BitVec 16} (h : Keeps z s₀ s) :
    Keeps z s₀ (tagGranules s g n suit) := by simp (maxDischargeDepth := 99) [tagGranules, h]

@[simp] theorem touchTags_keeps {z : Bool} {s₀ : State} {s : State} {gs : List Nat} (h : Keeps z s₀ s) :
    Keeps z s₀ (touchTags s gs) := by simp (maxDischargeDepth := 99) [touchTags, h]

@[simp] theorem suitRefused_keeps {z : Bool} {s₀ : State} {s : State} {gs : List Nat} (h : Keeps z s₀ s) :
    Keeps z s₀ (suitRefused s gs) := by simp (maxDischargeDepth := 99) [suitRefused, h]

@[simp] theorem spanRefused_keeps {z : Bool} {s₀ : State} {s : State} (h : Keeps z s₀ s) :
    Keeps z s₀ (spanRefused s) := by simp (maxDischargeDepth := 99) [spanRefused, h]

@[simp] theorem pushLog_keeps {z : Bool} {s₀ : State} {s : State} {e : LogEntry} (h : Keeps z s₀ s) :
    Keeps z s₀ (pushLog s e) := by simp (maxDischargeDepth := 99) [pushLog, h]

@[simp] theorem logEvent_keeps {z : Bool} {s₀ : State} {s : State} {source : Nat} {resp : BitVec 7} {flags : Nat} {info : BitVec 32} (h : Keeps z s₀ s) :
    Keeps z s₀ (logEvent s source resp flags info) := by simp (maxDischargeDepth := 99) [logEvent, h]

@[simp] theorem countSuit_keeps {z : Bool} {s₀ : State} {s : State} {fs : List Fail} {gs : List Nat} (h : Keeps z s₀ s) :
    Keeps z s₀ (countSuit s fs gs) := by simp (maxDischargeDepth := 99) [countSuit, h]

@[simp] theorem queueScore_keeps {z : Bool} {s₀ : State} {s : State} {q : ScoreReq} (h : Keeps z s₀ s) :
    Keeps z s₀ (queueScore s q) := by simp (maxDischargeDepth := 99) [queueScore, h]

@[simp] theorem modFlights_keeps {z : Bool} {s₀ : State} {s : State} {i : Nat} {p : Flight → Bool} {f : Flight → Flight} (h : Keeps z s₀ s) :
    Keeps z s₀ (modFlights s i p f) := by simp (maxDischargeDepth := 99) [modFlights, h]

@[simp] theorem modFlight_keeps {z : Bool} {s₀ : State} {s : State} {i : Nat} {seq : Nat} {f : Flight → Flight} (h : Keeps z s₀ s) :
    Keeps z s₀ (modFlight s i seq f) := by simp (maxDischargeDepth := 99) [modFlight, h]

@[simp] theorem dropResv_keeps {z : Bool} {s₀ : State} {s : State} {seq : Nat} (h : Keeps z s₀ s) :
    Keeps z s₀ (dropResv s seq) := by simp (maxDischargeDepth := 99) [dropResv, h]

@[simp] theorem decide__keeps {z : Bool} {s₀ : State} {s : State} {i : Nat} {seq : Nat} {st : Status} {d : BitVec 16} {r : Round} {house : Bool} (h : Keeps z s₀ s) :
    Keeps z s₀ (decide_ s i seq st d r house) := by simp (maxDischargeDepth := 99) [decide_, h]

@[simp] theorem freeRec_keeps {z : Bool} {s₀ : State} {s : State} {i : Nat} (h : Keeps z s₀ s) :
    Keeps z s₀ (freeRec s i) := by simp (maxDischargeDepth := 99) [freeRec, h]

end Sys2Proof.Machine
end

