-- ==== Sys2Proof/Laws/KeepsKeyOps.lean ====
section
/-!
SUPPORT. Every operation of Machine/KeyOps.lean keeps what Laws/Keeps.lean names.
-/
namespace Sys2Proof.Machine

@[simp] theorem tagStore_keeps {z : Bool} {s₀ : State} {s : State} {gs : List Nat} {suit : BitVec 16} (h : Keeps z s₀ s) :
    Keeps z s₀ (tagStore s gs suit) := by simp (maxDischargeDepth := 99) [tagStore, h]

@[simp] theorem writeHand_keeps {z : Bool} {s₀ : State} {s : State} {h' : Nat} {gs : List Nat} {f : Hand → Hand} (h : Keeps z s₀ s) :
    Keeps z s₀ (writeHand s h' gs f) := by simp (maxDischargeDepth := 99) [writeHand, h]

@[simp] theorem putKey_keeps {z : Bool} {s₀ : State} {s : State} {h' : Nat} {i : Nat} {k : KeyObj} (h : Keeps z s₀ s) :
    Keeps z s₀ (putKey s h' i k) := by simp (maxDischargeDepth := 99) [putKey, h]

@[simp] theorem reserveSlot_keeps {z : Bool} {s₀ : State} {s : State} {hd : BitVec 32} {slot : Nat} {seq : Nat} (h : Keeps z s₀ s) :
    Keeps z s₀ (reserveSlot s hd slot seq) := by simp (maxDischargeDepth := 99) [reserveSlot, h]

@[simp] theorem countDeny_keeps {z : Bool} {s₀ : State} {s : State} {seat : Nat} {seq : Nat} {fs : List Fail} (h : Keeps z s₀ s) :
    Keeps z s₀ (countDeny s seat seq fs) := by
  unfold countDeny
  (repeat' split) <;> simp (maxDischargeDepth := 99) [h]

@[simp] theorem placeKey_keeps {z : Bool} {s₀ : State} {s : State} {d : Desc} {k : Option KeyObj} {f : Fail} (h : Keeps z s₀ s) :
    Keeps z s₀ (placeKey s d k f).1 := by
  unfold placeKey
  (repeat' split) <;> simp (maxDischargeDepth := 99) [h]

@[simp] theorem placeFinished_keeps {z : Bool} {s₀ : State} {s : State} {f : Finished} (h : Keeps z s₀ s) :
    Keeps z s₀ (placeFinished s f).1 := by
  unfold placeFinished
  dsimp only
  (repeat' split) <;> simp (maxDischargeDepth := 99) [h]

@[simp] theorem shoeReserve_keeps {z : Bool} {s₀ : State} {s : State} {n : Nat} (h : Keeps z s₀ s) :
    Keeps z s₀ (shoeReserve s n) := by simp (maxDischargeDepth := 99) [shoeReserve, h]

@[simp] theorem shoeReturn_keeps {z : Bool} {s₀ : State} {s : State} {bs : List (BitVec 128)} (h : Keeps z s₀ s) :
    Keeps z s₀ (shoeReturn s bs) := by simp (maxDischargeDepth := 99) [shoeReturn, h]

end Sys2Proof.Machine
end

