-- ==== Sys2Proof/Laws/KeepsErase.lean ====
section
/-!
SUPPORT. Every operation of Machine/Erase.lean keeps what Laws/Keeps.lean names.
-/
namespace Sys2Proof.Machine

@[simp] theorem closeRec_keeps {z : Bool} {s₀ : State} {s : State} {a1 : Option Nat} (h : Keeps z s₀ s) :
    Keeps z s₀ (closeRec s a1) := by
  unfold closeRec
  (repeat' split) <;> simp (maxDischargeDepth := 99) [h]

@[simp] theorem closeBySeq_keeps {z : Bool} {s₀ : State} {s : State} {seq : Nat} (h : Keeps z s₀ s) :
    Keeps z s₀ (closeBySeq s seq) := by simp (maxDischargeDepth := 99) [closeBySeq, h]

@[simp] theorem eachLane_keeps {z : Bool} {s₀ : State} {s : State} {f : State → Nat → State} (h_f : ∀ t x, Keeps z t (f t x)) (h : Keeps z s₀ s) :
    Keeps z s₀ (eachLane s f) := by simp (maxDischargeDepth := 99) [eachLane, h, h_f]

@[simp] theorem eachEngine_keeps {z : Bool} {s₀ : State} {s : State} {f : State → Nat → State} (h_f : ∀ t x, Keeps z t (f t x)) (h : Keeps z s₀ s) :
    Keeps z s₀ (eachEngine s f) := by simp (maxDischargeDepth := 99) [eachEngine, h, h_f]

@[simp] theorem eachSeat_keeps {z : Bool} {s₀ : State} {s : State} {f : State → Nat → State} (h_f : ∀ t x, Keeps z t (f t x)) (h : Keeps z s₀ s) :
    Keeps z s₀ (eachSeat s f) := by simp (maxDischargeDepth := 99) [eachSeat, h, h_f]

@[simp] theorem modBind_keeps {z : Bool} {s₀ : State} {s : State} {l : Nat} {b : Binding} {f : Binding → Binding} (h : Keeps z s₀ s) :
    Keeps z s₀ (modBind s l b f) := by simp (maxDischargeDepth := 99) [modBind, h]

@[simp] theorem abortSeg_keeps {z : Bool} {s₀ : State} {s : State} {l : Nat} {b : Binding} {st : Status} {d : BitVec 16} {r : Round} (h : Keeps z s₀ s) :
    Keeps z s₀ (abortSeg s l b st d r) := by simp (maxDischargeDepth := 99) [abortSeg, h]

@[simp] theorem unbind_keeps {z : Bool} {s₀ : State} {s : State} {l : Nat} {b : Binding} (h : Keeps z s₀ s) :
    Keeps z s₀ (unbind s l b) := by
  unfold unbind
  dsimp only
  (repeat' split) <;> simp (maxDischargeDepth := 99) [h]

@[simp] theorem endTicket_keeps {z : Bool} {s₀ : State} {s : State} {k : Nat} {t : Ticket} {st : Status} {d : BitVec 16} {r : Round} (h : Keeps z s₀ s) :
    Keeps z s₀ (endTicket s k t st d r) := by simp (maxDischargeDepth := 99) [endTicket, h]

@[simp] theorem abortEngine_keeps {z : Bool} {s₀ : State} {s : State} {k : Nat} {p : Ticket → Bool} {st : Status} {d : BitVec 16} {r : Round} (h : Keeps z s₀ s) :
    Keeps z s₀ (abortEngine s k p st d r) := by simp (maxDischargeDepth := 99) [abortEngine, h]

@[simp] theorem postEnded_keeps {z : Bool} {s₀ : State} {s : State} {k : Nat} {r : Round} (h : Keeps z s₀ s) :
    Keeps z s₀ (postEnded s k r) := by simp (maxDischargeDepth := 99) [postEnded, h]

@[simp] theorem abortHouse_keeps {z : Bool} {s₀ : State} {s : State} {p : Flight → Bool} {st : Status} {d : BitVec 16} {r : Round} (h : Keeps z s₀ s) :
    Keeps z s₀ (abortHouse s p st d r) := by simp (maxDischargeDepth := 99) [abortHouse, h]

@[simp] theorem freezeLane_keeps {z : Bool} {s₀ : State} {s : State} {l : Nat} (h : Keeps z s₀ s) :
    Keeps z s₀ (freezeLane s l) := by simp (maxDischargeDepth := 99) [freezeLane, h]

@[simp] theorem freezeEngine_keeps {z : Bool} {s₀ : State} {s : State} {k : Nat} (h : Keeps z s₀ s) :
    Keeps z s₀ (freezeEngine s k) := by simp (maxDischargeDepth := 99) [freezeEngine, h]

@[simp] theorem freeze_keeps {z : Bool} {s₀ : State} {s : State} (h : Keeps z s₀ s) :
    Keeps z s₀ (freeze s) := by simp (maxDischargeDepth := 99) [freeze, h]

@[simp] theorem endSession_keeps {z : Bool} {s₀ : State} {s0 : State} {e : QuorumEnd} (h : Keeps z s₀ s0) :
    Keeps z s₀ (endSession s0 e) := by simp (maxDischargeDepth := 99) [endSession, h]

@[simp] theorem eraseLane_keeps {z : Bool} {s₀ : State} {s : State} {l : Nat} (h : Keeps z s₀ s) :
    Keeps z s₀ (eraseLane s l) := by simp (maxDischargeDepth := 99) [eraseLane, h]

@[simp] theorem eraseEngine_keeps {z : Bool} {s₀ : State} {s : State} {k : Nat} (h : Keeps z s₀ s) :
    Keeps z s₀ (eraseEngine s k) := by simp (maxDischargeDepth := 99) [eraseEngine, h]

@[simp] theorem eraseFlights_keeps {z : Bool} {s₀ : State} {s : State} {i : Nat} (h : Keeps z s₀ s) :
    Keeps z s₀ (eraseFlights s i) := by simp (maxDischargeDepth := 99) [eraseFlights, h]

@[simp] theorem unlog_keeps {z : Bool} {s₀ : State} {s : State} {m : LogMark} (h : Keeps z s₀ s) :
    Keeps z s₀ (unlog s m) := by simp (maxDischargeDepth := 99) [unlog, h]

@[simp] theorem undoCommit_keeps {z : Bool} {s₀ : State} {s : State} {u : Undo} (h : Keeps z s₀ s) :
    Keeps z s₀ (undoCommit s u) := by
  unfold undoCommit
  (repeat' split) <;> simp (maxDischargeDepth := 99) [h]

@[simp] theorem eraseCommitted_keeps {z : Bool} {s₀ : State} {s : State} (h : Keeps z s₀ s) :
    Keeps z s₀ (eraseCommitted s) := by
  unfold eraseCommitted
  dsimp only
  (repeat' split) <;> simp (maxDischargeDepth := 99) [h]

@[simp] theorem eraseStore_keeps {z : Bool} {s₀ : State} {s : State} {boot : Bool} (h : Keeps z s₀ s) :
    Keeps z s₀ (eraseStore s boot) := by
  unfold eraseStore
  extract_lets k fresh s1 s2 s3 s4
  have h3 : Keeps z s₀ s3 := by simp (maxDischargeDepth := 99) [s3, s2, s1, h]
  exact endSession_keeps ⟨h3.pending, h3.round, h3.fuses, h3.mem, fun w => { h3.tables w with records := rfl }⟩

@[simp] theorem eraseRoot_keeps {z : Bool} {s₀ : State} {s : State} (h : Keeps z s₀ s) :
    Keeps z s₀ (eraseRoot s) := by simp (maxDischargeDepth := 99) [eraseRoot, h]

@[simp] theorem markTripped_keeps {z : Bool} {s₀ : State} {s : State} {is : List Nat} (h : Keeps z s₀ s) :
    Keeps z s₀ (markTripped s is) := by simp (maxDischargeDepth := 99) [markTripped, h]

@[simp] theorem respond_keeps {z : Bool} {s₀ : State} {s : State} {r : Byte} {latch : List Nat} {log : State → State} (h_log : ∀ t, Keeps z t (log t)) (h : Keeps z s₀ s) :
    Keeps z s₀ (respond s r latch log) := by
  have k_log : ∀ {t u}, Keeps z t u → Keeps z t (log u) := fun k => k.trans (h_log _)
  simp (maxDischargeDepth := 99) [respond, h, k_log]

@[simp] theorem batteryTrip_keeps {z : Bool} {s₀ : State} {s : State} {i : Nat} (h : Keeps z s₀ s) :
    Keeps z s₀ (batteryTrip s i) := by simp (maxDischargeDepth := 99) [batteryTrip, h]

@[simp] theorem trip_keeps {z : Bool} {s₀ : State} {s : State} {is : List Nat} (h : Keeps z s₀ s) :
    Keeps z s₀ (trip s is) := by simp (maxDischargeDepth := 99) [trip, h]

@[simp] theorem tripTurn_keeps {z : Bool} {s₀ : State} {s0 : State} (h : Keeps z s₀ s0) :
    Keeps z s₀ (tripTurn s0) := by simp (maxDischargeDepth := 99) [tripTurn, h]

@[simp] theorem alarms_keeps {z : Bool} {s₀ : State} {s : State} {is : List Nat} (h : Keeps z s₀ s) :
    Keeps z s₀ (alarms s is) := by simp (maxDischargeDepth := 99) [alarms, h]

end Sys2Proof.Machine
end

