-- ==== Sys2Proof/Laws/KeepsKitty.lean ====
section
/-!
SUPPORT. Every operation of Machine/Kitty.lean keeps what Laws/Keeps.lean names.
-/
namespace Sys2Proof.Machine

@[simp] theorem refuseFlag_keeps {z : Bool} {s₀ : State} {s : State} (h : Keeps z s₀ s) :
    Keeps z s₀ (refuseFlag s) := by simp (maxDischargeDepth := 99) [refuseFlag, h]

@[simp] theorem hostFlag_keeps {z : Bool} {s₀ : State} {s : State} {f : Func} {k : Nat} {w : Word} (h : Keeps z s₀ s) :
    Keeps z s₀ (hostFlag s f k w) := by simp (maxDischargeDepth := 99) [hostFlag, h]

@[simp] theorem undoLock_keeps {z : Bool} {s₀ : State} {s : State} {m : FlagMove} (h : Keeps z s₀ s) :
    Keeps z s₀ (undoLock s m) := by
  unfold undoLock
  (repeat' split) <;> simp (maxDischargeDepth := 99) [h]

@[simp] theorem undoMove_keeps {z : Bool} {s₀ : State} {s : State} {k : Nat} (h : Keeps z s₀ s) :
    Keeps z s₀ (undoMove s k) := by
  unfold undoMove
  (repeat' split) <;> simp (maxDischargeDepth := 99) [h]

@[simp] theorem denySlot_keeps {z : Bool} {s₀ : State} {s : State} {f : Func} {off : Nat} (h : Keeps z s₀ s) :
    Keeps z s₀ (denySlot s f off) := by simp (maxDischargeDepth := 99) [denySlot, h]

@[simp] theorem execFlagWrite_keeps {z : Bool} {s₀ : State} {f : Func} {off : Nat} {data : Bytes} {sameCycle : Bool} {s : State} (h : Keeps z s₀ s) :
    Goes z s₀ (execFlagWrite f off data sameCycle s) := by simp (maxDischargeDepth := 99) [execFlagWrite, h]

@[simp] theorem execSlotDataRead_keeps {z : Bool} {s₀ : State} {f : Func} {off : Nat} {len : Nat} {s : State} (h : Keeps z s₀ s) :
    Goes z s₀ (execSlotDataRead f off len s) := by simp (maxDischargeDepth := 99) [execSlotDataRead, h]

@[simp] theorem kittyHostWrite_keeps {z : Bool} {s₀ : State} {s : State} {off : Nat} {data : Bytes} (h : Keeps z s₀ s) :
    Keeps z s₀ (kittyHostWrite s off data) := by simp (maxDischargeDepth := 99) [kittyHostWrite, h]

@[simp] theorem execSlotDataWrite_keeps {z : Bool} {s₀ : State} {f : Func} {off : Nat} {data : Bytes} {s : State} (h : Keeps z s₀ s) :
    Goes z s₀ (execSlotDataWrite f off data s) := by simp (maxDischargeDepth := 99) [execSlotDataWrite, h]

@[simp] theorem deviceFlag_keeps {z : Bool} {s₀ : State} {s : State} {k : Nat} {o : BitVec 2} (h : Keeps z s₀ s) :
    Keeps z s₀ (deviceFlag s k o) := by simp (maxDischargeDepth := 99) [deviceFlag, h]

@[simp] theorem lockSlot_keeps {z : Bool} {s₀ : State} {s : State} {g : Flight} {k : Nat} (h : Keeps z s₀ s) :
    Keeps z s₀ (lockSlot s g k) := by simp (maxDischargeDepth := 99) [lockSlot, h]

@[simp] theorem execKittyLock_keeps {z : Bool} {s₀ : State} {seat : Fin 8192} {sq : Nat} {s : State} (h : Keeps z s₀ s) :
    Goes z s₀ (execKittyLock seat sq s) := by
  unfold execKittyLock
  dsimp only
  (repeat' split) <;> simp (maxDischargeDepth := 99) [h]

@[simp] theorem releaseSlot_keeps {z : Bool} {s₀ : State} {s : State} {k : Nat} {o : BitVec 2} (h : Keeps z s₀ s) :
    Keeps z s₀ (releaseSlot s k o) := by simp (maxDischargeDepth := 99) [releaseSlot, h]

@[simp] theorem releaseFlight_keeps {z : Bool} {s₀ : State} {s : State} {seq : Nat} (h : Keeps z s₀ s) :
    Keeps z s₀ (releaseFlight s seq) := by simp (maxDischargeDepth := 99) [releaseFlight, h]

@[simp] theorem freeSeatSlots_keeps {z : Bool} {s₀ : State} {s : State} {i : Nat} (h : Keeps z s₀ s) :
    Keeps z s₀ (freeSeatSlots s i) := by simp (maxDischargeDepth := 99) [freeSeatSlots, h]

@[simp] theorem retryMove_keeps {z : Bool} {s₀ : State} {s : State} {m : FlagMove} (h : Keeps z s₀ s) :
    Keeps z s₀ (retryMove s m) := by simp (maxDischargeDepth := 99) [retryMove, h]

@[simp] theorem kittyRound_keeps {z : Bool} {s₀ : State} {s : State} (h : Keeps z s₀ s) :
    Keeps z s₀ (kittyRound s) := by
  unfold kittyRound
  refine eachSeat_keeps (fun t x => ?_) ?_
  · dsimp only
    have k : Keeps z t ((getSeat t x).flights.foldl (fun u g =>
        match g.decided with
        | some d => if d.round < u.round then releaseFlight u g.seq else u
        | none => u) t) := by
      refine Keeps.foldl (.refl _) fun u g => ?_
      split
      · split <;> simp
      · simp
    split
    · exact freeSeatSlots_keeps k
    · exact k
  · exact Keeps.foldl (by simp [h]) fun t x => by simp

end Sys2Proof.Machine
end

