-- ==== Sys2Proof/Laws/KeepsRng.lean ====
section
/-!
SUPPORT. Every operation of Machine/Rng.lean keeps what Laws/Keeps.lean names.
-/
namespace Sys2Proof.Machine

@[simp] theorem clearExpanders_keeps {z : Bool} {s₀ : State} {s : State} (h : Keeps z s₀ s) :
    Keeps z s₀ (clearExpanders s) := by simp (maxDischargeDepth := 99) [clearExpanders, h]

@[simp] theorem leaveStartup_keeps {z : Bool} {s₀ : State} {s : State} (h : Keeps z s₀ s) :
    Keeps z s₀ (leaveStartup s) := by simp (maxDischargeDepth := 99) [leaveStartup, h]

@[simp] theorem runSource_keeps {z : Bool} {s₀ : State} {s : State} {i : Nat} {b : Byte} (h : Keeps z s₀ s) :
    Keeps z s₀ (runSource s i b) := by simp (maxDischargeDepth := 99) [runSource, h]

@[simp] theorem runSources_keeps {z : Bool} {s₀ : State} {s : State} {noise : Bytes} (h : Keeps z s₀ s) :
    Keeps z s₀ (runSources s noise) := by simp (maxDischargeDepth := 99) [runSources, h]

@[simp] theorem withdrawGrants_keeps {z : Bool} {s₀ : State} {s : State} (h : Keeps z s₀ s) :
    Keeps z s₀ (withdrawGrants s) := by simp (maxDischargeDepth := 99) [withdrawGrants, h]

@[simp] theorem failEngine_keeps {z : Bool} {s₀ : State} {s : State} {k : Nat} (h : Keeps z s₀ s) :
    Keeps z s₀ (failEngine s k) := by simp (maxDischargeDepth := 99) [failEngine, h]

@[simp] theorem rngFail_keeps {z : Bool} {s₀ : State} {s : State} (h : Keeps z s₀ s) :
    Keeps z s₀ (rngFail s) := by simp (maxDischargeDepth := 99) [rngFail, h]

@[simp] theorem rngAftermath_keeps {z : Bool} {s₀ : State} {s : State} (h : Keeps z s₀ s) :
    Keeps z s₀ (rngAftermath s) := by simp (maxDischargeDepth := 99) [rngAftermath, h]

@[simp] theorem checkHealthy_keeps {z : Bool} {s₀ : State} {s : State} (h : Keeps z s₀ s) :
    Keeps z s₀ (checkHealthy s) := by
  unfold checkHealthy
  (repeat' split) <;> simp (maxDischargeDepth := 99) [h]

@[simp] theorem fillFrom_keeps {z : Bool} {s₀ : State} {s : State} {b : Bool} (h : Keeps z s₀ s) :
    Keeps z s₀ (fillFrom s b) := by simp (maxDischargeDepth := 99) [fillFrom, h]

@[simp] theorem rngRun_keeps {z : Bool} {s₀ : State} {s : State} (h : Keeps z s₀ s) :
    Keeps z s₀ (rngRun s) := by simp (maxDischargeDepth := 99) [rngRun, h]

@[simp] theorem shoeFill_keeps {z : Bool} {s₀ : State} {s : State} (h : Keeps z s₀ s) :
    Keeps z s₀ (shoeFill s) := by simp (maxDischargeDepth := 99) [shoeFill, h]

@[simp] theorem reseedStretch_keeps {z : Bool} {s₀ : State} {s : State} (h : Keeps z s₀ s) :
    Keeps z s₀ (reseedStretch s) := by simp (maxDischargeDepth := 99) [reseedStretch, h]

@[simp] theorem shoeDeliver_keeps {z : Bool} {s₀ : State} {s : State} (h : Keeps z s₀ s) :
    Keeps z s₀ (shoeDeliver s) := by simp (maxDischargeDepth := 99) [shoeDeliver, h]

@[simp] theorem rngRoundEnd_keeps {z : Bool} {s₀ : State} {s : State} {noise : Bytes} (h : Keeps z s₀ s) :
    Keeps z s₀ (rngRoundEnd s noise) := by simp (maxDischargeDepth := 99) [rngRoundEnd, h]

@[simp] theorem rngStart_keeps {z : Bool} {s₀ : State} {s : State} (h : Keeps z s₀ s) :
    Keeps z s₀ (rngStart s) := by simp (maxDischargeDepth := 99) [rngStart, h]

@[simp] theorem execConditionedWord_keeps {z : Bool} {s₀ : State} {src : Fin 4} {s : State} (h : Keeps z s₀ s) :
    Goes z s₀ (execConditionedWord src s) := by simp (maxDischargeDepth := 99) [execConditionedWord, h]

@[simp] theorem execSourceStartupEnd_keeps {z : Bool} {s₀ : State} {src : Fin 4} {s : State} (h : Keeps z s₀ s) :
    Goes z s₀ (execSourceStartupEnd src s) := by simp (maxDischargeDepth := 99) [execSourceStartupEnd, h]

@[simp] theorem execExpanderInstantiate_keeps {z : Bool} {s₀ : State} {b : Bool} {s : State} (h : Keeps z s₀ s) :
    Goes z s₀ (execExpanderInstantiate b s) := by
  unfold execExpanderInstantiate
  dsimp only
  (repeat' split) <;> simp (maxDischargeDepth := 99) [h]

@[simp] theorem execExpanderReseed_keeps {z : Bool} {s₀ : State} {b : Bool} {s : State} (h : Keeps z s₀ s) :
    Goes z s₀ (execExpanderReseed b s) := by
  unfold execExpanderReseed
  dsimp only
  (repeat' split) <;> simp (maxDischargeDepth := 99) [h]

@[simp] theorem execSeedOperationEnd_keeps {z : Bool} {s₀ : State} {b : Bool} {s : State} (h : Keeps z s₀ s) :
    Goes z s₀ (execSeedOperationEnd b s) := by simp (maxDischargeDepth := 99) [execSeedOperationEnd, h]

@[simp] theorem execGenerateRequest_keeps {z : Bool} {s₀ : State} {b : Bool} {s : State} (h : Keeps z s₀ s) :
    Goes z s₀ (execGenerateRequest b s) := by simp (maxDischargeDepth := 99) [execGenerateRequest, h]

@[simp] theorem execReseedHalving_keeps {z : Bool} {s₀ : State} {s : State} (h : Keeps z s₀ s) :
    Goes z s₀ (execReseedHalving s) := by simp (maxDischargeDepth := 99) [execReseedHalving, h]

@[simp] theorem execRngWaitExpiry_keeps {z : Bool} {s₀ : State} {who : RngWaiter} {s : State} (h : Keeps z s₀ s) :
    Goes z s₀ (execRngWaitExpiry who s) := by
  unfold execRngWaitExpiry
  (repeat' split) <;> simp (maxDischargeDepth := 99) [h]

end Sys2Proof.Machine
end

