-- ==== Sys2Proof/Laws/KeepsTamper.lean ====
section
/-!
SUPPORT. Every operation of Machine/Tamper.lean keeps what Laws/Keeps.lean names.
-/
namespace Sys2Proof.Machine

@[simp] theorem takeSample_keeps {z : Bool} {s₀ : State} {s : State} {i : Nat} {v : Sample} (h : Keeps z s₀ s) :
    Keeps z s₀ (takeSample s i v) := by simp (maxDischargeDepth := 99) [takeSample, h]

@[simp] theorem execMonitorSample_keeps {z : Bool} {s₀ : State} {src : Fin 28} {v : Sample} {s : State} (h : Keeps z s₀ s) :
    Goes z s₀ (execMonitorSample src v s) := by simp (maxDischargeDepth := 99) [execMonitorSample, h]

@[simp] theorem freezeClear_keeps {z : Bool} {s₀ : State} {t : State} {f : Func} (h : Keeps z s₀ t) :
    Keeps z s₀ (freezeClear t f) := by simp (maxDischargeDepth := 99) [freezeClear, h]

@[simp] theorem execFreezeClear_keeps {z : Bool} {s₀ : State} {f : Func} {s : State} (h : Keeps z s₀ s) :
    Goes z s₀ (execFreezeClear f s) := by simp (maxDischargeDepth := 99) [execFreezeClear, h]

@[simp] theorem tampTestWrite_keeps {z : Bool} {s₀ : State} {t : State} {f : Func} {v : Word} (h : Keeps z s₀ t) :
    Keeps z s₀ (tampTestWrite t f v) := by simp (maxDischargeDepth := 99) [tampTestWrite, h]

@[simp] theorem execTampTest_keeps {z : Bool} {s₀ : State} {f : Func} {v : Word} {s : State} (h : Keeps z s₀ s) :
    Goes z s₀ (execTampTest f v s) := by simp (maxDischargeDepth := 99) [execTampTest, h]

@[simp] theorem execTampTestEnd_keeps {z : Bool} {s₀ : State} {s : State} (h : Keeps z s₀ s) :
    Goes z s₀ (execTampTestEnd s) := by
  unfold execTampTestEnd
  (repeat' split) <;> simp (maxDischargeDepth := 99) [h]

@[simp] theorem rtcSet_keeps {z : Bool} {s₀ : State} {t : State} {v : Word} (h : Keeps z s₀ t) :
    Keeps z s₀ (rtcSet t v) := by simp (maxDischargeDepth := 99) [rtcSet, h]

@[simp] theorem execTampRtcSet_keeps {z : Bool} {s₀ : State} {f : Func} {v : Word} {s : State} (h : Keeps z s₀ s) :
    Goes z s₀ (execTampRtcSet f v s) := by simp (maxDischargeDepth := 99) [execTampRtcSet, h]

@[simp] theorem trippedClear_keeps {z : Bool} {s₀ : State} {t : State} {v : Word} {same : Word} (h : Keeps z s₀ t) :
    Keeps z s₀ (trippedClear t v same) := by simp (maxDischargeDepth := 99) [trippedClear, h]

@[simp] theorem execTampTripped_keeps {z : Bool} {s₀ : State} {f : Func} {v : Word} {sameCycle : Word} {s : State} (h : Keeps z s₀ s) :
    Goes z s₀ (execTampTripped f v sameCycle s) := by simp (maxDischargeDepth := 99) [execTampTripped, h]

@[simp] theorem restartTurn_keeps {z : Bool} {s₀ : State} {s : State} (h : Keeps z s₀ s) :
    Keeps z s₀ (restartTurn s) := by simp (maxDischargeDepth := 99) [restartTurn, h]

@[simp] theorem thawStep_keeps {z : Bool} {s₀ : State} {s : State} (h : Keeps z s₀ s) :
    Keeps z s₀ (thawStep s) := by
  unfold thawStep
  (repeat' split) <;> simp (maxDischargeDepth := 99) [h]

end Sys2Proof.Machine
end

