-- ==== Sys2Proof/Laws/KeepsSeats.lean ====
section
/-!
SUPPORT. Every operation of Machine/Seats.lean keeps what Laws/Keeps.lean names.
-/
namespace Sys2Proof.Machine

@[simp] theorem seatWrite_keeps {z : Bool} {s₀ : State} {s : State} {f : Func} {i : Nat} {reg : Nat} {act : State → State} (h_act : ∀ t, Keeps z t (act t)) (h : Keeps z s₀ s) :
    Keeps z s₀ (seatWrite s f i reg act) := by
  have k_act : ∀ {t u}, Keeps z t u → Keeps z t (act u) := fun k => k.trans (h_act _)
  simp (maxDischargeDepth := 99) [seatWrite, h, k_act]

@[simp] theorem seatMsi_keeps {z : Bool} {s₀ : State} {s : State} {i : Nat} (h : Keeps z s₀ s) :
    Keeps z s₀ (seatMsi s i) := by simp (maxDischargeDepth := 99) [seatMsi, h]

@[simp] theorem enterHalt_keeps {z : Bool} {s₀ : State} {s : State} {i : Nat} {c : HaltCause} {idx : Option Nat} (h : Keeps z s₀ s) :
    Keeps z s₀ (enterHalt s i c idx) := by simp (maxDischargeDepth := 99) [enterHalt, h]

@[simp] theorem dmaHalt_keeps {z : Bool} {s₀ : State} {s : State} {i : Nat} {g : Flight} {d : BitVec 16} (h : Keeps z s₀ s) :
    Keeps z s₀ (dmaHalt s i g d) := by simp (maxDischargeDepth := 99) [dmaHalt, h]

@[simp] theorem seatAct_keeps {z : Bool} {s₀ : State} {s : State} {i : Nat} {v : Word} (h : Keeps z s₀ s) :
    Keeps z s₀ (seatAct s i v) := by simp (maxDischargeDepth := 99) [seatAct, h]

@[simp] theorem seatMove_keeps {z : Bool} {s₀ : State} {i : Nat} {s : State} {m : SeatMove} (h : Keeps z s₀ s) :
    Keeps z s₀ (seatMove i s m) := by
  unfold seatMove
  (repeat' split) <;> simp (maxDischargeDepth := 99) [h]

@[simp] theorem ctrlTurn_keeps {z : Bool} {s₀ : State} {s : State} {i : Nat} (h : Keeps z s₀ s) :
    Keeps z s₀ (ctrlTurn s i) := by simp (maxDischargeDepth := 99) [ctrlTurn, h]

@[simp] theorem seatCtrlRows_keeps {z : Bool} {s₀ : State} {s : State} {f : Func} {i : Nat} {v : Word} {rows : List SeatState} (h : Keeps z s₀ s) :
    Keeps z s₀ (seatCtrlRows s f i v rows) := by simp (maxDischargeDepth := 99) [seatCtrlRows, h]

@[simp] theorem seatCtrl_keeps {z : Bool} {s₀ : State} {s : State} {f : Func} {i : Nat} {v : Word} (h : Keeps z s₀ s) :
    Keeps z s₀ (seatCtrl s f i v) := by simp (maxDischargeDepth := 99) [seatCtrl, h]

@[simp] theorem seatCtrlCmd_keeps {z : Bool} {s₀ : State} {s : State} {f : Func} {i : Nat} {v : Word} {sts : List SeatState} (h : Keeps z s₀ s) :
    Keeps z s₀ (seatCtrlCmd s f i v sts) := by simp (maxDischargeDepth := 99) [seatCtrlCmd, h]

@[simp] theorem execArm_keeps {z : Bool} {s₀ : State} {f : Func} {seat : Fin 8192} {s : State} (h : Keeps z s₀ s) :
    Goes z s₀ (execArm f seat s) := by simp (maxDischargeDepth := 99) [execArm, h]

@[simp] theorem execDisarm_keeps {z : Bool} {s₀ : State} {f : Func} {seat : Fin 8192} {s : State} (h : Keeps z s₀ s) :
    Goes z s₀ (execDisarm f seat s) := by simp (maxDischargeDepth := 99) [execDisarm, h]

@[simp] theorem execEnable_keeps {z : Bool} {s₀ : State} {f : Func} {seat : Fin 8192} {s : State} (h : Keeps z s₀ s) :
    Goes z s₀ (execEnable f seat s) := by simp (maxDischargeDepth := 99) [execEnable, h]

@[simp] theorem execDrain_keeps {z : Bool} {s₀ : State} {f : Func} {seat : Fin 8192} {s : State} (h : Keeps z s₀ s) :
    Goes z s₀ (execDrain f seat s) := by simp (maxDischargeDepth := 99) [execDrain, h]

@[simp] theorem execClearHalt_keeps {z : Bool} {s₀ : State} {f : Func} {seat : Fin 8192} {s : State} (h : Keeps z s₀ s) :
    Goes z s₀ (execClearHalt f seat s) := by simp (maxDischargeDepth := 99) [execClearHalt, h]

@[simp] theorem execForceHalt_keeps {z : Bool} {s₀ : State} {f : Func} {seat : Fin 8192} {s : State} (h : Keeps z s₀ s) :
    Goes z s₀ (execForceHalt f seat s) := by simp (maxDischargeDepth := 99) [execForceHalt, h]

@[simp] theorem execDrainEnd_keeps {z : Bool} {s₀ : State} {seat : Fin 8192} {s : State} (h : Keeps z s₀ s) :
    Goes z s₀ (execDrainEnd seat s) := by simp (maxDischargeDepth := 99) [execDrainEnd, h]

@[simp] theorem discardDoorbell_keeps {z : Bool} {s₀ : State} {s : State} {f : Func} (h : Keeps z s₀ s) :
    Keeps z s₀ (discardDoorbell s f) := by simp (maxDischargeDepth := 99) [discardDoorbell, h]

@[simp] theorem ringDoorbell_keeps {z : Bool} {s₀ : State} {s : State} {f : Func} {i : Nat} {v : Nat} (h : Keeps z s₀ s) :
    Keeps z s₀ (ringDoorbell s f i v) := by simp (maxDischargeDepth := 99) [ringDoorbell, h]

@[simp] theorem execDoorbell_keeps {z : Bool} {s₀ : State} {f : Func} {off : Nat} {data : Bytes} {s : State} (h : Keeps z s₀ s) :
    Goes z s₀ (execDoorbell f off data s) := by simp (maxDischargeDepth := 99) [execDoorbell, h]

@[simp] theorem seatBindWrite_keeps {z : Bool} {s₀ : State} {s : State} {f : Func} {i : Nat} {v : Word} (h : Keeps z s₀ s) :
    Keeps z s₀ (seatBindWrite s f i v) := by simp (maxDischargeDepth := 99) [seatBindWrite, h]

@[simp] theorem execSeatBind_keeps {z : Bool} {s₀ : State} {f : Func} {seat : Fin 8192} {v : Word} {s : State} (h : Keeps z s₀ s) :
    Goes z s₀ (execSeatBind f seat v s) := by simp (maxDischargeDepth := 99) [execSeatBind, h]

@[simp] theorem irqCfgWrite_keeps {z : Bool} {s₀ : State} {t : State} {i : Nat} {v : Word} (h : Keeps z s₀ t) :
    Keeps z s₀ (irqCfgWrite t i v) := by simp (maxDischargeDepth := 99) [irqCfgWrite, h]

@[simp] theorem execIrqCfg_keeps {z : Bool} {s₀ : State} {f : Func} {seat : Fin 8192} {v : Word} {s : State} (h : Keeps z s₀ s) :
    Goes z s₀ (execIrqCfg f seat v s) := by simp (maxDischargeDepth := 99) [execIrqCfg, h]

end Sys2Proof.Machine
end

