-- ==== Sys2Proof/Laws/KeepsRing.lean ====
section
/-!
SUPPORT. Every operation of Machine/Ring.lean keeps what Laws/Keeps.lean names.
-/
namespace Sys2Proof.Machine

@[simp] theorem execDescriptorFetch_keeps {z : Bool} {s₀ : State} {seat : Fin 8192} {s : State} (h : Keeps z s₀ s) :
    Goes z s₀ (execDescriptorFetch seat s) := by simp (maxDischargeDepth := 99) [execDescriptorFetch, h]

@[simp] theorem placeDesc_keeps {z : Bool} {s₀ : State} {s : State} {i : Nat} {sq : Nat} {g : Flight} {b : Bytes} (h : Keeps z s₀ s) :
    Keeps z s₀ (placeDesc s i sq g b) := by simp (maxDischargeDepth := 99) [placeDesc, h]

@[simp] theorem judgeDesc_keeps {z : Bool} {s₀ : State} {s : State} {i : Nat} {sq : Nat} {g : Flight} {suit : List Fail} {reads : List ReadReq} {o : Option Fail} (h : Keeps z s₀ s) :
    Keeps z s₀ (judgeDesc s i sq g suit reads o) := by
  cases o with
  | none =>
    simp only [judgeDesc]
    split
    · exact modFlight_keeps h
    · exact h
  | some f => exact decide__keeps (countSuit_keeps h)

@[simp] theorem takeDesc_keeps {z : Bool} {s₀ : State} {s : State} {i : Nat} {sq : Nat} {b : Bytes} (h : Keeps z s₀ s) :
    Keeps z s₀ (takeDesc s i sq b) := by simp (maxDischargeDepth := 99) [takeDesc, h]

@[simp] theorem shadowWrite_keeps {z : Bool} {s₀ : State} {s : State} {i : Nat} (h : Keeps z s₀ s) :
    Keeps z s₀ (shadowWrite s i) := by simp (maxDischargeDepth := 99) [shadowWrite, h]

@[simp] theorem takeFetch_keeps {z : Bool} {s₀ : State} {s : State} {i : Nat} {ft : Fetch} {b : Bytes} (h : Keeps z s₀ s) :
    Keeps z s₀ (takeFetch s i ft b) := by simp (maxDischargeDepth := 99) [takeFetch, h]

@[simp] theorem badFetch_keeps {z : Bool} {s₀ : State} {s : State} {i : Nat} {ft : Fetch} {d : BitVec 16} (h : Keeps z s₀ s) :
    Keeps z s₀ (badFetch s i ft d) := by simp (maxDischargeDepth := 99) [badFetch, h]

@[simp] theorem execFetchReturn_keeps {z : Bool} {s₀ : State} {seat : Fin 8192} {d : HostData} {s : State} (h : Keeps z s₀ s) :
    Goes z s₀ (execFetchReturn seat d s) := by
  unfold execFetchReturn
  dsimp only
  (repeat' split) <;> simp (maxDischargeDepth := 99) [h]

@[simp] theorem tagPlaces_keeps {z : Bool} {s₀ : State} {s : State} {ps : List Nat} {suit : BitVec 16} (h : Keeps z s₀ s) :
    Keeps z s₀ (tagPlaces s ps suit) := by simp (maxDischargeDepth := 99) [tagPlaces, h]

@[simp] theorem stagePut_keeps {z : Bool} {s₀ : State} {s : State} {ps : List Nat} {b : Bytes} (h : Keeps z s₀ s) :
    Keeps z s₀ (stagePut s ps b) := by simp (maxDischargeDepth := 99) [stagePut, h]

@[simp] theorem execFragmentListFetch_keeps {z : Bool} {s₀ : State} {seat : Fin 8192} {sq : Nat} {s : State} (h : Keeps z s₀ s) :
    Goes z s₀ (execFragmentListFetch seat sq s) := by
  unfold execFragmentListFetch
  (repeat' split) <;> simp (maxDischargeDepth := 99) [h]

@[simp] theorem takeList_keeps {z : Bool} {s₀ : State} {s : State} {i : Nat} {g : Flight} {dst : Bool} {b : Bytes} (h : Keeps z s₀ s) :
    Keeps z s₀ (takeList s i g dst b) := by
  unfold takeList
  dsimp only
  (repeat' split) <;> simp (maxDischargeDepth := 99) [h]

@[simp] theorem execFragmentListReturn_keeps {z : Bool} {s₀ : State} {seat : Fin 8192} {sq : Nat} {dst : Bool} {d : HostData} {s : State} (h : Keeps z s₀ s) :
    Goes z s₀ (execFragmentListReturn seat sq dst d s) := by
  unfold execFragmentListReturn
  (repeat' split) <;> simp (maxDischargeDepth := 99) [h]

@[simp] theorem reserveSeg_keeps {z : Bool} {s₀ : State} {s : State} {i : Nat} {g : Flight} {a : Nat} {b : Nat} (h : Keeps z s₀ s) :
    Keeps z s₀ (reserveSeg s i g a b) := by simp (maxDischargeDepth := 99) [reserveSeg, h]

@[simp] theorem execStagingReservation_keeps {z : Bool} {s₀ : State} {seat : Fin 8192} {sq : Nat} {s : State} (h : Keeps z s₀ s) :
    Goes z s₀ (execStagingReservation seat sq s) := by
  unfold execStagingReservation
  (repeat' split) <;> simp (maxDischargeDepth := 99) [h]

@[simp] theorem execPayloadReadReturn_keeps {z : Bool} {s₀ : State} {seat : Fin 8192} {sq : Nat} {expected : Bool} {d : HostData} {s : State} (h : Keeps z s₀ s) :
    Goes z s₀ (execPayloadReadReturn seat sq expected d s) := by
  unfold execPayloadReadReturn
  (repeat' split) <;> simp (maxDischargeDepth := 99) [h]

@[simp] theorem countDone_keeps {z : Bool} {s₀ : State} {s : State} {st : Status} (h : Keeps z s₀ s) :
    Keeps z s₀ (countDone s st) := by simp (maxDischargeDepth := 99) [countDone, h]

@[simp] theorem writeEntry_keeps {z : Bool} {s₀ : State} {s : State} {i : Nat} {g : Flight} {d : Decided} (h : Keeps z s₀ s) :
    Keeps z s₀ (writeEntry s i g d) := by simp (maxDischargeDepth := 99) [writeEntry, h]

@[simp] theorem execCompletionWrite_keeps {z : Bool} {s₀ : State} {seat : Fin 8192} {s : State} (h : Keeps z s₀ s) :
    Goes z s₀ (execCompletionWrite seat s) := by
  unfold execCompletionWrite
  dsimp only
  (repeat' split) <;> simp (maxDischargeDepth := 99) [h]

@[simp] theorem execCoalTimerExpiry_keeps {z : Bool} {s₀ : State} {seat : Fin 8192} {s : State} (h : Keeps z s₀ s) :
    Goes z s₀ (execCoalTimerExpiry seat s) := by simp (maxDischargeDepth := 99) [execCoalTimerExpiry, h]

@[simp] theorem seatIrqRound_keeps {z : Bool} {s₀ : State} {s : State} {i : Nat} (h : Keeps z s₀ s) :
    Keeps z s₀ (seatIrqRound s i) := by simp (maxDischargeDepth := 99) [seatIrqRound, h]

@[simp] theorem execLinkWriteDepart_keeps {z : Bool} {s₀ : State} {port : Fin 2} {link : Fin 2} {s : State} (h : Keeps z s₀ s) :
    Goes z s₀ (execLinkWriteDepart port link s) := by
  unfold execLinkWriteDepart
  dsimp only
  (repeat' split) <;> simp (maxDischargeDepth := 99) [h]

@[simp] theorem execVectorUnmask_keeps {z : Bool} {s₀ : State} {f : Func} {entry : VectorEntry} {s : State} (h : Keeps z s₀ s) :
    Goes z s₀ (execVectorUnmask f entry s) := by simp (maxDischargeDepth := 99) [execVectorUnmask, h]

@[simp] theorem execConfigurationRequest_keeps {z : Bool} {s₀ : State} {f : Func} {s : State} (h : Keeps z s₀ s) :
    Goes z s₀ (execConfigurationRequest f s) := by simp (maxDischargeDepth := 99) [execConfigurationRequest, h]

@[simp] theorem execLinkEvent_keeps {z : Bool} {s₀ : State} {port : Fin 2} {up : LinkUp} {s : State} (h : Keeps z s₀ s) :
    Goes z s₀ (execLinkEvent port up s) := by simp (maxDischargeDepth := 99) [execLinkEvent, h]

@[simp] theorem putOut_keeps {z : Bool} {s₀ : State} {s : State} {i : Nat} {g : Flight} {off : Nat} {b : Bytes} (h : Keeps z s₀ s) :
    Keeps z s₀ (putOut s i g off b).1 := by
  unfold putOut
  refine Keeps.foldlOn (fun q : State × Nat × Bool => q.1) h fun q p => ?_
  dsimp only
  split
  · refine Keeps.foldlOn (s := q.1) (fun q : State × Nat × Bool => q.1) (b := (q.1, q.2.1 + p.len, q.2.2)) (.refl _)
      fun a w => ?_
    split <;> simp
  · simp

@[simp] theorem putTricks_keeps {z : Bool} {s₀ : State} {s : State} {i : Nat} {g : Flight} {off : Nat} {b : Bytes} (h : Keeps z s₀ s) :
    Keeps z s₀ (putTricks s i g off b).1 := by
  unfold putTricks
  exact Keeps.foldlOn (fun q : State × Bool => q.1) h fun q p => putOut_keeps (.refl _)

end Sys2Proof.Machine
end

