-- ==== Sys2Proof/Laws/KeepsMicro.lean ====
section
/-!
SUPPORT. Every operation of Machine/Micro.lean keeps what Laws/Keeps.lean names.
-/
namespace Sys2Proof.Machine

@[simp] theorem maskTurn_keeps {z : Bool} {s₀ : State} {s : State} {l : Nat} (h : Keeps z s₀ s) :
    Keeps z s₀ (maskTurn s l) := by simp (maxDischargeDepth := 99) [maskTurn, h]

@[simp] theorem microRound_keeps {z : Bool} {s₀ : State} {s : State} {l : Nat} (h : Keeps z s₀ s) :
    Keeps z s₀ (microRound s l).1 := by
  unfold microRound
  dsimp only
  (repeat' split) <;> simp (maxDischargeDepth := 99) [h]

end Sys2Proof.Machine
end

