-- ==== Sys2Proof/Laws/KeepsLanes.lean ====
section
/-!
SUPPORT. Every operation of Machine/Lanes.lean keeps what Laws/Keeps.lean names.
-/
namespace Sys2Proof.Machine

@[simp] theorem lanePend_keeps {z : Bool} {s₀ : State} {s : State} {l : Nat} {b : Nat} (h : Keeps z s₀ s) :
    Keeps z s₀ (lanePend s l b) := by simp (maxDischargeDepth := 99) [lanePend, h]

@[simp] theorem loadPass_keeps {z : Bool} {s₀ : State} {s : State} {l : Nat} {g : Flight} {b : Binding} (h : Keeps z s₀ s) :
    Keeps z s₀ (loadPass s l g b) := by simp (maxDischargeDepth := 99) [loadPass, h]

@[simp] theorem loadRefuse_keeps {z : Bool} {s₀ : State} {s : State} {l : Nat} {b : Binding} {f : Fail} (h : Keeps z s₀ s) :
    Keeps z s₀ (loadRefuse s l b f) := by simp (maxDischargeDepth := 99) [loadRefuse, h]

@[simp] theorem loadSeg_keeps {z : Bool} {s₀ : State} {s : State} {l : Nat} {b : Binding} (h : Keeps z s₀ s) :
    Keeps z s₀ (loadSeg s l b) := by
  unfold loadSeg
  dsimp only
  (repeat' split) <;> simp (maxDischargeDepth := 99) [h]

@[simp] theorem issueTicket_keeps {z : Bool} {s₀ : State} {s : State} {l : Nat} {b : Binding} {raw : Option Pkr} {input : Bytes} (h : Keeps z s₀ s) :
    Keeps z s₀ (issueTicket s l b raw input) := by simp (maxDischargeDepth := 99) [issueTicket, h]

@[simp] theorem beginSeg_keeps {z : Bool} {s₀ : State} {s : State} {l : Nat} {b : Binding} (h : Keeps z s₀ s) :
    Keeps z s₀ (beginSeg s l b) := by
  unfold beginSeg
  (repeat' split) <;> simp (maxDischargeDepth := 99) [h]

@[simp] theorem spoil_keeps {z : Bool} {s₀ : State} {s : State} {l : Nat} {b : Binding} (h : Keeps z s₀ s) :
    Keeps z s₀ (spoil s l b) := by simp (maxDischargeDepth := 99) [spoil, h]

@[simp] theorem drainBind_keeps {z : Bool} {s₀ : State} {s : State} {l : Nat} {b : Binding} (h : Keeps z s₀ s) :
    Keeps z s₀ (drainBind s l b) := by
  unfold drainBind
  (repeat' split) <;> simp (maxDischargeDepth := 99) [h]

@[simp] theorem consumeIn_keeps {z : Bool} {s₀ : State} {s : State} {l : Nat} {b : Binding} (h : Keeps z s₀ s) :
    Keeps z s₀ (consumeIn s l b) := by simp (maxDischargeDepth := 99) [consumeIn, h]

@[simp] theorem drainLane_keeps {z : Bool} {s₀ : State} {s : State} {l : Nat} (h : Keeps z s₀ s) :
    Keeps z s₀ (drainLane s l) := by simp (maxDischargeDepth := 99) [drainLane, h]

@[simp] theorem clearLane_keeps {z : Bool} {s₀ : State} {s : State} {l : Nat} (h : Keeps z s₀ s) :
    Keeps z s₀ (clearLane s l) := by simp (maxDischargeDepth := 99) [clearLane, h]

@[simp] theorem keyinTurn_keeps {z : Bool} {s₀ : State} {s : State} {l : Nat} (h : Keeps z s₀ s) :
    Keeps z s₀ (keyinTurn s l) := by simp (maxDischargeDepth := 99) [keyinTurn, h]

@[simp] theorem lateApplet_keeps {z : Bool} {s₀ : State} {s : State} {l : Nat} {b : Binding} (h : Keeps z s₀ s) :
    Keeps z s₀ (lateApplet s l b) := by simp (maxDischargeDepth := 99) [lateApplet, h]

@[simp] theorem segFinal_keeps {z : Bool} {s₀ : State} {s : State} {l : Nat} (h : Keeps z s₀ s) :
    Keeps z s₀ (segFinal s l) := by
  unfold segFinal
  (repeat' split) <;> simp (maxDischargeDepth := 99) [h]

@[simp] theorem saveRec_keeps {z : Bool} {s₀ : State} {s : State} {b : Binding} {last : Bool} (h : Keeps z s₀ s) :
    Keeps z s₀ (saveRec s b last) := by
  unfold saveRec
  (repeat' split) <;> simp (maxDischargeDepth := 99) [h]

@[simp] theorem refuseRec_keeps {z : Bool} {s₀ : State} {s : State} {b : Binding} (h : Keeps z s₀ s) :
    Keeps z s₀ (refuseRec s b) := by
  unfold refuseRec
  (repeat' split) <;> simp (maxDischargeDepth := 99) [h]

@[simp] theorem postStatus_keeps {z : Bool} {s₀ : State} {s : State} {l : Nat} {b : Binding} {f : Fail} (h : Keeps z s₀ s) :
    Keeps z s₀ (postStatus s l b f) := by simp (maxDischargeDepth := 99) [postStatus, h]

@[simp] theorem endPart_keeps {z : Bool} {s₀ : State} {s : State} {l : Nat} {b : Binding} (h : Keeps z s₀ s) :
    Keeps z s₀ (endPart s l b) := by simp (maxDischargeDepth := 99) [endPart, h]

@[simp] theorem endLast_keeps {z : Bool} {s₀ : State} {s : State} {l : Nat} {b : Binding} (h : Keeps z s₀ s) :
    Keeps z s₀ (endLast s l b) := by simp (maxDischargeDepth := 99) [endLast, h]

@[simp] theorem endApplet_keeps {z : Bool} {s₀ : State} {s : State} {l : Nat} {b : Binding} (h : Keeps z s₀ s) :
    Keeps z s₀ (endApplet s l b) := by
  unfold endApplet
  dsimp only
  (repeat' split) <;> simp (maxDischargeDepth := 99) [h]

@[simp] theorem finalSeg_keeps {z : Bool} {s₀ : State} {s : State} {l : Nat} {b : Binding} (h : Keeps z s₀ s) :
    Keeps z s₀ (finalSeg s l b) := by
  unfold finalSeg
  (repeat' split) <;> simp (maxDischargeDepth := 99) [h]

@[simp] theorem execSegmentFinalRound_keeps {z : Bool} {s₀ : State} {lane : Fin 128} {s : State} (h : Keeps z s₀ s) :
    Goes z s₀ (execSegmentFinalRound lane s) := by
  unfold execSegmentFinalRound
  dsimp only
  (repeat' split) <;> simp (maxDischargeDepth := 99) [h]

@[simp] theorem playSeg_keeps {z : Bool} {s₀ : State} {s : State} {l : Nat} {op : Nat} {f : SegCtx → SegOut} (h : Keeps z s₀ s) :
    Keeps z s₀ (playSeg s l op f) := by
  unfold playSeg
  (repeat' split) <;> simp (maxDischargeDepth := 99) [h]

@[simp] theorem playUnwrap_keeps {z : Bool} {s₀ : State} {s : State} {l : Nat} {op : Nat} {archive : Bool} (h : Keeps z s₀ s) :
    Keeps z s₀ (playUnwrap s l op archive) := by
  unfold playUnwrap
  (repeat' split) <;> simp (maxDischargeDepth := 99) [h]

@[simp] theorem execEcb_keeps {z : Bool} {s₀ : State} {lane : Fin 128} {s : State} (h : Keeps z s₀ s) :
    Goes z s₀ (execEcb lane s) := by simp (maxDischargeDepth := 99) [execEcb, h]

@[simp] theorem execCbc_keeps {z : Bool} {s₀ : State} {lane : Fin 128} {s : State} (h : Keeps z s₀ s) :
    Goes z s₀ (execCbc lane s) := by simp (maxDischargeDepth := 99) [execCbc, h]

@[simp] theorem execCtr_keeps {z : Bool} {s₀ : State} {lane : Fin 128} {s : State} (h : Keeps z s₀ s) :
    Goes z s₀ (execCtr lane s) := by simp (maxDischargeDepth := 99) [execCtr, h]

@[simp] theorem execXts_keeps {z : Bool} {s₀ : State} {lane : Fin 128} {s : State} (h : Keeps z s₀ s) :
    Goes z s₀ (execXts lane s) := by simp (maxDischargeDepth := 99) [execXts, h]

@[simp] theorem execCmac_keeps {z : Bool} {s₀ : State} {lane : Fin 128} {s : State} (h : Keeps z s₀ s) :
    Goes z s₀ (execCmac lane s) := by simp (maxDischargeDepth := 99) [execCmac, h]

@[simp] theorem execGmac_keeps {z : Bool} {s₀ : State} {lane : Fin 128} {s : State} (h : Keeps z s₀ s) :
    Goes z s₀ (execGmac lane s) := by simp (maxDischargeDepth := 99) [execGmac, h]

@[simp] theorem execGcm_keeps {z : Bool} {s₀ : State} {lane : Fin 128} {s : State} (h : Keeps z s₀ s) :
    Goes z s₀ (execGcm lane s) := by simp (maxDischargeDepth := 99) [execGcm, h]

@[simp] theorem execCcm_keeps {z : Bool} {s₀ : State} {lane : Fin 128} {s : State} (h : Keeps z s₀ s) :
    Goes z s₀ (execCcm lane s) := by simp (maxDischargeDepth := 99) [execCcm, h]

@[simp] theorem execKwp_keeps {z : Bool} {s₀ : State} {lane : Fin 128} {s : State} (h : Keeps z s₀ s) :
    Goes z s₀ (execKwp lane s) := by simp (maxDischargeDepth := 99) [execKwp, h]

@[simp] theorem execHash_keeps {z : Bool} {s₀ : State} {lane : Fin 128} {s : State} (h : Keeps z s₀ s) :
    Goes z s₀ (execHash lane s) := by simp (maxDischargeDepth := 99) [execHash, h]

@[simp] theorem execHmac_keeps {z : Bool} {s₀ : State} {lane : Fin 128} {s : State} (h : Keeps z s₀ s) :
    Goes z s₀ (execHmac lane s) := by simp (maxDischargeDepth := 99) [execHmac, h]

@[simp] theorem execKmac_keeps {z : Bool} {s₀ : State} {lane : Fin 128} {s : State} (h : Keeps z s₀ s) :
    Goes z s₀ (execKmac lane s) := by simp (maxDischargeDepth := 99) [execKmac, h]

@[simp] theorem execKeyWrap_keeps {z : Bool} {s₀ : State} {lane : Fin 128} {s : State} (h : Keeps z s₀ s) :
    Goes z s₀ (execKeyWrap lane s) := by simp (maxDischargeDepth := 99) [execKeyWrap, h]

@[simp] theorem execKeyUnwrap_keeps {z : Bool} {s₀ : State} {lane : Fin 128} {s : State} (h : Keeps z s₀ s) :
    Goes z s₀ (execKeyUnwrap lane s) := by simp (maxDischargeDepth := 99) [execKeyUnwrap, h]

@[simp] theorem execSlotSave_keeps {z : Bool} {s₀ : State} {lane : Fin 128} {s : State} (h : Keeps z s₀ s) :
    Goes z s₀ (execSlotSave lane s) := by simp (maxDischargeDepth := 99) [execSlotSave, h]

@[simp] theorem execSlotRestore_keeps {z : Bool} {s₀ : State} {lane : Fin 128} {s : State} (h : Keeps z s₀ s) :
    Goes z s₀ (execSlotRestore lane s) := by simp (maxDischargeDepth := 99) [execSlotRestore, h]

end Sys2Proof.Machine
end

