-- ==== Sys2Proof/Laws/KeepsEngines.lean ====
section
/-!
SUPPORT. Every operation of Machine/Engines.lean keeps what Laws/Keeps.lean names.
-/
namespace Sys2Proof.Machine

@[simp] theorem execEngineStart_keeps {z : Bool} {s₀ : State} {deck : Fin 16} {s : State} (h : Keeps z s₀ s) :
    Goes z s₀ (execEngineStart deck s) := by
  unfold execEngineStart
  dsimp only
  (repeat' split) <;> simp (maxDischargeDepth := 99) [h]

@[simp] theorem playOp_keeps {z : Bool} {s₀ : State} {s : State} {k : Nat} {op : Nat} {f : Running → PkOut} (h : Keeps z s₀ s) :
    Keeps z s₀ (playOp s k op f) := by
  unfold playOp
  (repeat' split) <;> simp (maxDischargeDepth := 99) [h]

@[simp] theorem countEnd_keeps {z : Bool} {s₀ : State} {s : State} {t : Ticket} {f : Fail} (h : Keeps z s₀ s) :
    Keeps z s₀ (countEnd s t f) := by simp (maxDischargeDepth := 99) [countEnd, h]

@[simp] theorem unload_keeps {z : Bool} {s₀ : State} {s : State} {t : Ticket} {f : Fail} {off : Nat} {out : Bytes} (h : Keeps z s₀ s) :
    Keeps z s₀ (unload s t f off out).1 := by
  unfold unload
  (repeat' split) <;> simp (maxDischargeDepth := 99) [h]

@[simp] theorem zeroOperand_keeps {z : Bool} {s₀ : State} {s : State} {k : Nat} (h : Keeps z s₀ s) :
    Keeps z s₀ (zeroOperand s k) := by simp (maxDischargeDepth := 99) [zeroOperand, h]

@[simp] theorem execEngineOperationEnd_keeps {z : Bool} {s₀ : State} {deck : Fin 16} {s : State} (h : Keeps z s₀ s) :
    Goes z s₀ (execEngineOperationEnd deck s) := by
  unfold execEngineOperationEnd
  dsimp only
  (repeat' split) <;> simp (maxDischargeDepth := 99) [h]

@[simp] theorem execEngineCollect_keeps {z : Bool} {s₀ : State} {deck : Fin 16} {s : State} (h : Keeps z s₀ s) :
    Goes z s₀ (execEngineCollect deck s) := by
  unfold execEngineCollect
  dsimp only
  (repeat' split) <;> simp (maxDischargeDepth := 99) [h]

@[simp] theorem execRsaPublic_keeps {z : Bool} {s₀ : State} {deck : Fin 16} {s : State} (h : Keeps z s₀ s) :
    Goes z s₀ (execRsaPublic deck s) := by simp (maxDischargeDepth := 99) [execRsaPublic, h]

@[simp] theorem execRsaPrivate_keeps {z : Bool} {s₀ : State} {deck : Fin 16} {s : State} (h : Keeps z s₀ s) :
    Goes z s₀ (execRsaPrivate deck s) := by simp (maxDischargeDepth := 99) [execRsaPrivate, h]

@[simp] theorem execRsaOaepEncrypt_keeps {z : Bool} {s₀ : State} {deck : Fin 16} {s : State} (h : Keeps z s₀ s) :
    Goes z s₀ (execRsaOaepEncrypt deck s) := by simp (maxDischargeDepth := 99) [execRsaOaepEncrypt, h]

@[simp] theorem execRsaOaepDecrypt_keeps {z : Bool} {s₀ : State} {deck : Fin 16} {s : State} (h : Keeps z s₀ s) :
    Goes z s₀ (execRsaOaepDecrypt deck s) := by simp (maxDischargeDepth := 99) [execRsaOaepDecrypt, h]

@[simp] theorem execRsaPssSign_keeps {z : Bool} {s₀ : State} {deck : Fin 16} {s : State} (h : Keeps z s₀ s) :
    Goes z s₀ (execRsaPssSign deck s) := by simp (maxDischargeDepth := 99) [execRsaPssSign, h]

@[simp] theorem execRsaPssVerify_keeps {z : Bool} {s₀ : State} {deck : Fin 16} {s : State} (h : Keeps z s₀ s) :
    Goes z s₀ (execRsaPssVerify deck s) := by simp (maxDischargeDepth := 99) [execRsaPssVerify, h]

@[simp] theorem execRsaV15Sign_keeps {z : Bool} {s₀ : State} {deck : Fin 16} {s : State} (h : Keeps z s₀ s) :
    Goes z s₀ (execRsaV15Sign deck s) := by simp (maxDischargeDepth := 99) [execRsaV15Sign, h]

@[simp] theorem execRsaV15Verify_keeps {z : Bool} {s₀ : State} {deck : Fin 16} {s : State} (h : Keeps z s₀ s) :
    Goes z s₀ (execRsaV15Verify deck s) := by simp (maxDischargeDepth := 99) [execRsaV15Verify, h]

@[simp] theorem execDhKeygen_keeps {z : Bool} {s₀ : State} {deck : Fin 16} {s : State} (h : Keeps z s₀ s) :
    Goes z s₀ (execDhKeygen deck s) := by simp (maxDischargeDepth := 99) [execDhKeygen, h]

@[simp] theorem execDhDerive_keeps {z : Bool} {s₀ : State} {deck : Fin 16} {s : State} (h : Keeps z s₀ s) :
    Goes z s₀ (execDhDerive deck s) := by simp (maxDischargeDepth := 99) [execDhDerive, h]

@[simp] theorem execEcKeygen_keeps {z : Bool} {s₀ : State} {deck : Fin 16} {s : State} (h : Keeps z s₀ s) :
    Goes z s₀ (execEcKeygen deck s) := by simp (maxDischargeDepth := 99) [execEcKeygen, h]

@[simp] theorem execEcdsaSign_keeps {z : Bool} {s₀ : State} {deck : Fin 16} {s : State} (h : Keeps z s₀ s) :
    Goes z s₀ (execEcdsaSign deck s) := by simp (maxDischargeDepth := 99) [execEcdsaSign, h]

@[simp] theorem execEcdsaVerify_keeps {z : Bool} {s₀ : State} {deck : Fin 16} {s : State} (h : Keeps z s₀ s) :
    Goes z s₀ (execEcdsaVerify deck s) := by simp (maxDischargeDepth := 99) [execEcdsaVerify, h]

@[simp] theorem execEcdh_keeps {z : Bool} {s₀ : State} {deck : Fin 16} {s : State} (h : Keeps z s₀ s) :
    Goes z s₀ (execEcdh deck s) := by simp (maxDischargeDepth := 99) [execEcdh, h]

@[simp] theorem execEddsaSign_keeps {z : Bool} {s₀ : State} {deck : Fin 16} {s : State} (h : Keeps z s₀ s) :
    Goes z s₀ (execEddsaSign deck s) := by simp (maxDischargeDepth := 99) [execEddsaSign, h]

@[simp] theorem execEddsaVerify_keeps {z : Bool} {s₀ : State} {deck : Fin 16} {s : State} (h : Keeps z s₀ s) :
    Goes z s₀ (execEddsaVerify deck s) := by simp (maxDischargeDepth := 99) [execEddsaVerify, h]

@[simp] theorem execMlkemKeygen_keeps {z : Bool} {s₀ : State} {deck : Fin 16} {s : State} (h : Keeps z s₀ s) :
    Goes z s₀ (execMlkemKeygen deck s) := by simp (maxDischargeDepth := 99) [execMlkemKeygen, h]

@[simp] theorem execMlkemEncaps_keeps {z : Bool} {s₀ : State} {deck : Fin 16} {s : State} (h : Keeps z s₀ s) :
    Goes z s₀ (execMlkemEncaps deck s) := by simp (maxDischargeDepth := 99) [execMlkemEncaps, h]

@[simp] theorem execMlkemDecaps_keeps {z : Bool} {s₀ : State} {deck : Fin 16} {s : State} (h : Keeps z s₀ s) :
    Goes z s₀ (execMlkemDecaps deck s) := by simp (maxDischargeDepth := 99) [execMlkemDecaps, h]

@[simp] theorem execMldsaKeygen_keeps {z : Bool} {s₀ : State} {deck : Fin 16} {s : State} (h : Keeps z s₀ s) :
    Goes z s₀ (execMldsaKeygen deck s) := by simp (maxDischargeDepth := 99) [execMldsaKeygen, h]

@[simp] theorem execMldsaSign_keeps {z : Bool} {s₀ : State} {deck : Fin 16} {s : State} (h : Keeps z s₀ s) :
    Goes z s₀ (execMldsaSign deck s) := by simp (maxDischargeDepth := 99) [execMldsaSign, h]

@[simp] theorem execMldsaVerify_keeps {z : Bool} {s₀ : State} {deck : Fin 16} {s : State} (h : Keeps z s₀ s) :
    Goes z s₀ (execMldsaVerify deck s) := by simp (maxDischargeDepth := 99) [execMldsaVerify, h]

@[simp] theorem loadStart_keeps {z : Bool} {s₀ : State} {s : State} {k : Nat} (h : Keeps z s₀ s) :
    Keeps z s₀ (loadStart s k) := by
  unfold loadStart
  dsimp only
  (repeat' split) <;> simp (maxDischargeDepth := 99) [h]

@[simp] theorem refuseStart_keeps {z : Bool} {s₀ : State} {s : State} {k : Nat} (h : Keeps z s₀ s) :
    Keeps z s₀ (refuseStart s k) := by
  unfold refuseStart
  (repeat' split) <;> simp (maxDischargeDepth := 99) [h]

@[simp] theorem consumeStart_keeps {z : Bool} {s₀ : State} {s : State} {k : Nat} (h : Keeps z s₀ s) :
    Keeps z s₀ (consumeStart s k) := by
  unfold consumeStart
  (repeat' split) <;> simp (maxDischargeDepth := 99) [h]

@[simp] theorem unloadTurn_keeps {z : Bool} {s₀ : State} {s : State} {k : Nat} (h : Keeps z s₀ s) :
    Keeps z s₀ (unloadTurn s k) := by
  unfold unloadTurn
  (repeat' split) <;> simp (maxDischargeDepth := 99) [h]

@[simp] theorem clearTurn_keeps {z : Bool} {s₀ : State} {s : State} {k : Nat} (h : Keeps z s₀ s) :
    Keeps z s₀ (clearTurn s k) := by
  unfold clearTurn
  (repeat' split) <;> simp (maxDischargeDepth := 99) [h]

@[simp] theorem idleEngine_keeps {z : Bool} {s₀ : State} {s : State} {k : Nat} (h : Keeps z s₀ s) :
    Keeps z s₀ (idleEngine s k) := by simp (maxDischargeDepth := 99) [idleEngine, h]

end Sys2Proof.Machine
end

