-- ==== Sys2Proof/Laws/KeepsDealer.lean ====
section
/-!
SUPPORT. Every operation of Machine/Dealer.lean keeps what Laws/Keeps.lean names.
-/
namespace Sys2Proof.Machine

@[simp] theorem laneTurn_keeps {z : Bool} {s₀ : State} {s : State} {l : Nat} (h : Keeps z s₀ s) :
    Keeps z s₀ (laneTurn s l) := by simp (maxDischargeDepth := 99) [laneTurn, h]

@[simp] theorem enableLane_keeps {z : Bool} {s₀ : State} {s : State} {l : Nat} {v : Bool} (h : Keeps z s₀ s) :
    Keeps z s₀ (enableLane s l v) := by simp (maxDischargeDepth := 99) [enableLane, h]

@[simp] theorem laneEnWrite_keeps {z : Bool} {s₀ : State} {t : State} {w : Nat} {v : Word} (h : Keeps z s₀ t) :
    Keeps z s₀ (laneEnWrite t w v) := by simp (maxDischargeDepth := 99) [laneEnWrite, h]

@[simp] theorem execDealLaneEn_keeps {z : Bool} {s₀ : State} {f : Func} {w : Fin 4} {v : Word} {s : State} (h : Keeps z s₀ s) :
    Goes z s₀ (execDealLaneEn f w v s) := by simp (maxDischargeDepth := 99) [execDealLaneEn, h]

@[simp] theorem takeRecord_keeps {z : Bool} {s₀ : State} {s : State} {i : Nat} {g : Flight} (h : Keeps z s₀ s) :
    Keeps z s₀ (takeRecord s i g).1 := by
  unfold takeRecord
  (repeat' split) <;> simp (maxDischargeDepth := 99) [h]

@[simp] theorem bindSeg_keeps {z : Bool} {s₀ : State} {s : State} {i : Nat} {g : Flight} {l : Nat} (h : Keeps z s₀ s) :
    Keeps z s₀ (bindSeg s i g l) := by
  unfold bindSeg
  dsimp only
  (repeat' split) <;> simp (maxDischargeDepth := 99) [h]

@[simp] theorem grantBlocks_keeps {z : Bool} {s₀ : State} {s : State} {i : Nat} {g : Flight} (h : Keeps z s₀ s) :
    Keeps z s₀ (grantBlocks s i g) := by simp (maxDischargeDepth := 99) [grantBlocks, h]

theorem grantFrom_keeps {z : Bool} {s₀ : State} {s : State} {i : Nat} {a2 : List Flight} {a3 : List Nat} (h : Keeps z s₀ s) :
    ∀ t, grantFrom s i a2 a3 = some t → Keeps z s₀ t := by
  intro t
  induction a2 generalizing a3 with
  | nil => simp [grantFrom]
  | cons g l ih =>
    unfold grantFrom
    dsimp only
    (repeat' split) <;> intro e
    all_goals first
      | exact ih e
      | (injection e with e; subst e; simp [h])
      | (exact absurd e (by simp))

theorem grantSeat_keeps {z : Bool} {s₀ : State} {s : State} {i : Nat} {p : Nat} (h : Keeps z s₀ s) :
    ∀ t, grantSeat s i p = some t → Keeps z s₀ t := by
  intro t e
  unfold grantSeat at e
  dsimp only at e
  split at e
  · exact grantFrom_keeps h t e
  · simp at e

@[simp] theorem dealPass_keeps {z : Bool} {s₀ : State} {p : Nat} {a1 : List Nat} {a2 : State} (h : Keeps z s₀ a2) :
    Keeps z s₀ (dealPass p a1 a2).1 := by
  induction a1 generalizing a2 with
  | nil => exact h
  | cons i l ih =>
    unfold dealPass
    split
    · rename_i e
      exact ih (grantSeat_keeps h _ e)
    · exact ih h

@[simp] theorem dealPasses_keeps {z : Bool} {s₀ : State} {seats : List Nat} {a1 : Nat} {a2 : Nat} {a3 : State} (h : Keeps z s₀ a3) :
    Keeps z s₀ (dealPasses seats a1 a2 a3) := by
  induction a1 generalizing a2 a3 with
  | zero => exact h
  | succ n ih =>
    unfold dealPasses
    dsimp only
    split
    · exact ih (dealPass_keeps h)
    · exact dealPass_keeps h

@[simp] theorem dealSegments_keeps {z : Bool} {s₀ : State} {s : State} (h : Keeps z s₀ s) :
    Keeps z s₀ (dealSegments s) := by simp (maxDischargeDepth := 99) [dealSegments, h]

@[simp] theorem placeStart_keeps {z : Bool} {s₀ : State} {s : State} {k : Nat} (h : Keeps z s₀ s) :
    Keeps z s₀ (placeStart s k) := by
  unfold placeStart
  dsimp only
  (repeat' split) <;> simp (maxDischargeDepth := 99) [h]

@[simp] theorem bindCollects_keeps {z : Bool} {s₀ : State} {s : State} {k : Nat} (h : Keeps z s₀ s) :
    Keeps z s₀ (bindCollects s k) := by simp (maxDischargeDepth := 99) [bindCollects, h]

@[simp] theorem deficits_keeps {z : Bool} {s₀ : State} {s : State} (h : Keeps z s₀ s) :
    Keeps z s₀ (deficits s) := by simp (maxDischargeDepth := 99) [deficits, h]

@[simp] theorem composeCover_keeps {z : Bool} {s₀ : State} {s : State} (h : Keeps z s₀ s) :
    Keeps z s₀ (composeCover s) := by simp (maxDischargeDepth := 99) [composeCover, h]

@[simp] theorem dropHolds_keeps {z : Bool} {s₀ : State} {s : State} {i : Nat} (h : Keeps z s₀ s) :
    Keeps z s₀ (dropHolds s i) := by simp (maxDischargeDepth := 99) [dropHolds, h]

@[simp] theorem markWaits_keeps {z : Bool} {s₀ : State} {s : State} {i : Nat} (h : Keeps z s₀ s) :
    Keeps z s₀ (markWaits s i) := by simp (maxDischargeDepth := 99) [markWaits, h]

@[simp] theorem yieldLast_keeps {z : Bool} {s₀ : State} {s : State} (h : Keeps z s₀ s) :
    Keeps z s₀ (yieldLast s) := by
  unfold yieldLast
  (repeat' split) <;> simp (maxDischargeDepth := 99) [h]

@[simp] theorem yieldFor_keeps {z : Bool} {s₀ : State} {n k : Nat} {s : State} (h : Keeps z s₀ s) :
    Keeps z s₀ (yieldFor n k s) := by
  induction k generalizing s with
  | zero => simpa [yieldFor] using h
  | succ k ih =>
    unfold yieldFor
    split
    · exact h
    · exact ih (by simp [h])

@[simp] theorem houseRoom_keeps {z : Bool} {s₀ : State} {s : State} {n : Nat} (h : Keeps z s₀ s) :
    Keeps z s₀ (houseRoom s n) := by simp (maxDischargeDepth := 99) [houseRoom, h]

@[simp] theorem rearmDraw_keeps {z : Bool} {s₀ : State} {s : State} (h : Keeps z s₀ s) :
    Keeps z s₀ (rearmDraw s) := by simp (maxDischargeDepth := 99) [rearmDraw, h]

@[simp] theorem dropOccupants_keeps {z : Bool} {s₀ : State} {s : State} (h : Keeps z s₀ s) :
    Keeps z s₀ (dropOccupants s) := by
  unfold dropOccupants
  refine Keeps.foldl h fun t e => ?_
  (repeat' split) <;> simp

@[simp] theorem compose_keeps {z : Bool} {s₀ : State} {s : State} (h : Keeps z s₀ s) :
    Keeps z s₀ (compose s) := by simp (maxDischargeDepth := 99) [compose, h]

@[simp] theorem refreshTurn_keeps {z : Bool} {s₀ : State} {s : State} (h : Keeps z s₀ s) :
    Keeps z s₀ (refreshTurn s) := by
  unfold refreshTurn
  (repeat' split) <;> simp (maxDischargeDepth := 99) [h]

@[simp] theorem dummyTurn_keeps {z : Bool} {s₀ : State} {s : State} {p : Nat × Nat} (h : Keeps z s₀ s) :
    Keeps z s₀ (dummyTurn s p) := by simp (maxDischargeDepth := 99) [dummyTurn, h]

@[simp] theorem dummies_keeps {z : Bool} {s₀ : State} {s : State} (h : Keeps z s₀ s) :
    Keeps z s₀ (dummies s) := by
  unfold dummies
  (repeat' split) <;> simp (maxDischargeDepth := 99) [h]

@[simp] theorem dropSheets_keeps {z : Bool} {s₀ : State} {s : State} (h : Keeps z s₀ s) :
    Keeps z s₀ (dropSheets s) := by simp (maxDischargeDepth := 99) [dropSheets, h]

@[simp] theorem turnPointers_keeps {z : Bool} {s₀ : State} {s : State} (h : Keeps z s₀ s) :
    Keeps z s₀ (turnPointers s) := by simp (maxDischargeDepth := 99) [turnPointers, h]

@[simp] theorem execHandWaitExpiry_keeps {z : Bool} {s₀ : State} {seat : Fin 8192} {sq : Nat} {s : State} (h : Keeps z s₀ s) :
    Goes z s₀ (execHandWaitExpiry seat sq s) := by
  unfold execHandWaitExpiry
  (repeat' split) <;> simp (maxDischargeDepth := 99) [h]

end Sys2Proof.Machine
end

