-- ==== Sys2Proof/Laws/KeepsKeys.lean ====
section
/-!
SUPPORT. Every operation of Machine/Keys.lean keeps what Laws/Keeps.lean names.
-/
namespace Sys2Proof.Machine

@[simp] theorem endHouse_keeps {z : Bool} {s₀ : State} {s : State} {i : Nat} {g : Flight} {f : Fail} (h : Keeps z s₀ s) :
    Keeps z s₀ (endHouse s i g f) := by simp (maxDischargeDepth := 99) [endHouse, h]

@[simp] theorem commitHouse_keeps {z : Bool} {s₀ : State} {s : State} {i : Nat} {g : Flight} {out : Bytes} (h : Keeps z s₀ s) :
    Keeps z s₀ (commitHouse s i g out) := by simp (maxDischargeDepth := 99) [commitHouse, h]

@[simp] theorem serve_keeps {z : Bool} {s₀ : State} {s : State} {i : Nat} {g : Flight} {keyed : List Fail} {other : List Fail} {grans : List Nat} {commit : State → State × Bytes} (h_commit : ∀ t, Keeps z t (commit t).1) (h : Keeps z s₀ s) :
    Keeps z s₀ (serve s i g keyed other grans commit) := by
  unfold serve
  dsimp only
  split
  · simp (maxDischargeDepth := 99) [h]
  · split
    · simp (maxDischargeDepth := 99) [h]
    · exact commitHouse_keeps ((touchWords_keeps h).trans (h_commit _))

@[simp] theorem zeroGranules_keeps {z : Bool} {s₀ : State} {s : State} {gs : List Nat} (h : Keeps z s₀ s) :
    Keeps z s₀ (zeroGranules s gs) := by simp (maxDischargeDepth := 99) [zeroGranules, h]

@[simp] theorem allocHand_keeps {z : Bool} {s₀ : State} {s : State} {i : Nat} {h' : Nat} {d : Desc} (h : Keeps z s₀ s) :
    Keeps z s₀ (allocHand s i h' d) := by simp (maxDischargeDepth := 99) [allocHand, h]

@[simp] theorem execHandAlloc_keeps {z : Bool} {s₀ : State} {seat : Fin 8192} {sq : Nat} {s : State} (h : Keeps z s₀ s) :
    Goes z s₀ (execHandAlloc seat sq s) := by
  unfold execHandAlloc
  dsimp only
  (repeat' split) <;> simp (maxDischargeDepth := 99) [h]

@[simp] theorem execHandFree_keeps {z : Bool} {s₀ : State} {seat : Fin 8192} {sq : Nat} {s : State} (h : Keeps z s₀ s) :
    Goes z s₀ (execHandFree seat sq s) := by
  unfold execHandFree
  dsimp only
  (repeat' split) <;> simp (maxDischargeDepth := 99) [h]

@[simp] theorem execSlotClear_keeps {z : Bool} {s₀ : State} {seat : Fin 8192} {sq : Nat} {s : State} (h : Keeps z s₀ s) :
    Goes z s₀ (execSlotClear seat sq s) := by
  unfold execSlotClear
  dsimp only
  (repeat' split) <;> simp (maxDischargeDepth := 99) [h]

@[simp] theorem execKeyGen_keeps {z : Bool} {s₀ : State} {seat : Fin 8192} {sq : Nat} {s : State} (h : Keeps z s₀ s) :
    Goes z s₀ (execKeyGen seat sq s) := by
  unfold execKeyGen
  dsimp only
  (repeat' split) <;> simp (maxDischargeDepth := 99) [h]

@[simp] theorem execSlotInfo_keeps {z : Bool} {s₀ : State} {seat : Fin 8192} {sq : Nat} {s : State} (h : Keeps z s₀ s) :
    Goes z s₀ (execSlotInfo seat sq s) := by
  unfold execSlotInfo
  dsimp only
  (repeat' split) <;> simp (maxDischargeDepth := 99) [h]

@[simp] theorem execUsageTighten_keeps {z : Bool} {s₀ : State} {seat : Fin 8192} {sq : Nat} {s : State} (h : Keeps z s₀ s) :
    Goes z s₀ (execUsageTighten seat sq s) := by
  unfold execUsageTighten
  dsimp only
  (repeat' split) <;> simp (maxDischargeDepth := 99) [h]

@[simp] theorem execPubkeyRead_keeps {z : Bool} {s₀ : State} {seat : Fin 8192} {sq : Nat} {s : State} (h : Keeps z s₀ s) :
    Goes z s₀ (execPubkeyRead seat sq s) := by
  unfold execPubkeyRead
  dsimp only
  (repeat' split) <;> simp (maxDischargeDepth := 99) [h]

@[simp] theorem execSlotRetype_keeps {z : Bool} {s₀ : State} {seat : Fin 8192} {sq : Nat} {s : State} (h : Keeps z s₀ s) :
    Goes z s₀ (execSlotRetype seat sq s) := by
  unfold execSlotRetype
  dsimp only
  (repeat' split) <;> simp (maxDischargeDepth := 99) [h]

@[simp] theorem execNop_keeps {z : Bool} {s₀ : State} {seat : Fin 8192} {sq : Nat} {s : State} (h : Keeps z s₀ s) :
    Goes z s₀ (execNop seat sq s) := by
  unfold execNop
  (repeat' split) <;> simp (maxDischargeDepth := 99) [h]

@[simp] theorem execRandom_keeps {z : Bool} {s₀ : State} {seat : Fin 8192} {sq : Nat} {s : State} (h : Keeps z s₀ s) :
    Goes z s₀ (execRandom seat sq s) := by
  unfold execRandom
  dsimp only
  (repeat' split) <;> simp (maxDischargeDepth := 99) [h]

@[simp] theorem zeroiseWrite_keeps {z : Bool} {s₀ : State} {t : State} (h : Keeps z s₀ t) :
    Keeps z s₀ (zeroiseWrite t) := by simp (maxDischargeDepth := 99) [zeroiseWrite, h]

@[simp] theorem execZeroise_keeps {z : Bool} {s₀ : State} {f : Func} {s : State} (h : Keeps z s₀ s) :
    Goes z s₀ (execZeroise f s) := by simp (maxDischargeDepth := 99) [execZeroise, h]

@[simp] theorem rearmWrite_keeps {z : Bool} {s₀ : State} {t : State} {f : Func} (h : Keeps z s₀ t) :
    Keeps z s₀ (rearmWrite t f) := by simp (maxDischargeDepth := 99) [rearmWrite, h]

@[simp] theorem execRearm_keeps {z : Bool} {s₀ : State} {f : Func} {s : State} (h : Keeps z s₀ s) :
    Goes z s₀ (execRearm f s) := by simp (maxDischargeDepth := 99) [execRearm, h]

@[simp] theorem execRearmComplete_keeps {z : Bool} {s₀ : State} {s : State} (h : Keeps z s₀ s) :
    Goes z s₀ (execRearmComplete s) := by
  unfold execRearmComplete
  (repeat' split) <;> simp (maxDischargeDepth := 99) [h]

@[simp] theorem execWipeEnd_keeps {z : Bool} {s₀ : State} {s : State} (h : Keeps z s₀ s) :
    Goes z s₀ (execWipeEnd s) := by simp (maxDischargeDepth := 99) [execWipeEnd, h]

@[simp] theorem wipeWrite_keeps {z : Bool} {s₀ : State} {s : State} (h : Keeps z s₀ s) :
    Keeps z s₀ (wipeWrite s) := by simp (maxDischargeDepth := 99) [wipeWrite, h]

@[simp] theorem wipeTurn_keeps {z : Bool} {s₀ : State} {s : State} {bad : Bool} (h : Keeps z s₀ s) :
    Keeps z s₀ (wipeTurn s bad) := by simp (maxDischargeDepth := 99) [wipeTurn, h]

end Sys2Proof.Machine
end

