-- ==== Sys2Proof/Laws/KeepsCeremony.lean ====
section
/-!
SUPPORT. Every operation of Machine/Ceremony.lean keeps what Laws/Keeps.lean names.
-/
namespace Sys2Proof.Machine

@[simp] theorem keepUndo_keeps {z : Bool} {s₀ : State} {s : State} {i : Nat} {g : Flight} {u : Option Undo} (h : Keeps z s₀ s) :
    Keeps z s₀ (keepUndo s i g u) := by simp (maxDischargeDepth := 99) [keepUndo, h]

@[simp] theorem ceremony_keeps {z : Bool} {s₀ : State} {s : State} {i : Nat} {g : Flight} {keyed : List Fail} {other : List Fail} {grans : List Nat} {commit : State → State} (h_commit : ∀ t, Keeps z t (commit t)) (h : Keeps z s₀ s) :
    Keeps z s₀ (ceremony s i g keyed other grans commit) := by
  have k_commit : ∀ {t u}, Keeps z t u → Keeps z t (commit u) := fun k => k.trans (h_commit _)
  simp (maxDischargeDepth := 99) [ceremony, h, k_commit]

@[simp] theorem makeRoot_keeps {z : Bool} {s₀ : State} {s : State} {bs : List (BitVec 128)} (h : Keeps z s₀ s) :
    Keeps z s₀ (makeRoot s bs) := by simp (maxDischargeDepth := 99) [makeRoot, h]

@[simp] theorem storeInit_keeps {z : Bool} {s₀ : State} {s : State} {bs : List (BitVec 128)} {r : Option Round} (h : Keeps z s₀ s) :
    Keeps z s₀ (storeInit s bs r) := by simp (maxDischargeDepth := 99) [storeInit, h]

@[simp] theorem execStoreInit_keeps {z : Bool} {s₀ : State} {seat : Fin 8192} {sq : Nat} {s : State} (h : Keeps z s₀ s) :
    Goes z s₀ (execStoreInit seat sq s) := by
  unfold execStoreInit
  dsimp only
  (repeat' split) <;> simp (maxDischargeDepth := 99) [h]

@[simp] theorem execSuitAssign_keeps {z : Bool} {s₀ : State} {seat : Fin 8192} {sq : Nat} {s : State} (h : Keeps z s₀ s) :
    Goes z s₀ (execSuitAssign seat sq s) := by
  unfold execSuitAssign
  dsimp only
  (repeat' split) <;> simp (maxDischargeDepth := 99) [h]

@[simp] theorem execComponentLoad_keeps {z : Bool} {s₀ : State} {seat : Fin 8192} {sq : Nat} {s : State} (h : Keeps z s₀ s) :
    Goes z s₀ (execComponentLoad seat sq s) := by
  unfold execComponentLoad
  dsimp only
  (repeat' split) <;> simp (maxDischargeDepth := 99) [h]

@[simp] theorem execPolicyWiden_keeps {z : Bool} {s₀ : State} {seat : Fin 8192} {sq : Nat} {s : State} (h : Keeps z s₀ s) :
    Goes z s₀ (execPolicyWiden seat sq s) := by
  unfold execPolicyWiden
  dsimp only
  (repeat' split) <;> simp (maxDischargeDepth := 99) [h]

@[simp] theorem execOwnerSet_keeps {z : Bool} {s₀ : State} {seat : Fin 8192} {sq : Nat} {s : State} (h : Keeps z s₀ s) :
    Goes z s₀ (execOwnerSet seat sq s) := by
  unfold execOwnerSet
  dsimp only
  (repeat' split) <;> simp (maxDischargeDepth := 99) [h]

@[simp] theorem tcrStage_keeps {z : Bool} {s₀ : State} {s : State} {i : Nat} {g : Flight} {b : Bytes} (h : Keeps z s₀ s) :
    Keeps z s₀ (tcrStage s i g b) := by simp (maxDischargeDepth := 99) [tcrStage, h]

@[simp] theorem restartSources_keeps {z : Bool} {s₀ : State} {s : State} {is : List Nat} (h : Keeps z s₀ s) :
    Keeps z s₀ (restartSources s is) := by simp (maxDischargeDepth := 99) [restartSources, h]

@[simp] theorem tcrFlip_keeps {z : Bool} {s₀ : State} {s : State} {i : Nat} {g : Flight} {bankBad : Bool} (h : Keeps z s₀ s) :
    Keeps z s₀ (tcrFlip s i g bankBad) := by
  unfold tcrFlip
  dsimp only
  (repeat' split) <;> simp (maxDischargeDepth := 99) [h]

@[simp] theorem tcrBegin_keeps {z : Bool} {s₀ : State} {s : State} {i : Nat} {g : Flight} (h : Keeps z s₀ s) :
    Keeps z s₀ (tcrBegin s i g) := by
  unfold tcrBegin
  dsimp only
  (repeat' split) <;> simp (maxDischargeDepth := 99) [h]

@[simp] theorem execTcrCommit_keeps {z : Bool} {s₀ : State} {seat : Fin 8192} {sq : Nat} {bankBad : Bool} {s : State} (h : Keeps z s₀ s) :
    Goes z s₀ (execTcrCommit seat sq bankBad s) := by
  unfold execTcrCommit
  dsimp only
  (repeat' split) <;> simp (maxDischargeDepth := 99) [h]

@[simp] theorem clearLatch_keeps {z : Bool} {s₀ : State} {s : State} {i : Nat} (h : Keeps z s₀ s) :
    Keeps z s₀ (clearLatch s i) := by simp (maxDischargeDepth := 99) [clearLatch, h]

@[simp] theorem execLatchClear_keeps {z : Bool} {s₀ : State} {seat : Fin 8192} {sq : Nat} {s : State} (h : Keeps z s₀ s) :
    Goes z s₀ (execLatchClear seat sq s) := by
  unfold execLatchClear
  dsimp only
  (repeat' split) <;> simp (maxDischargeDepth := 99) [h]

theorem lifeCommit_keeps {z : Bool} {s t : State} {lc : Lifecycle} {owner : Bytes} (h : Keeps z s t)
    (hl : s.fuses.lc.code ≤ lc.code) (ho : lc = .provisioned → s.fuses.lc = .blank) : Keeps z s (lifeCommit t lc owner) := by
  have k : Keeps z s { t with fuses := { t.fuses with
      lc := lc, owner := if lc = .provisioned then owner else t.fuses.owner } } := by
    refine ⟨h.pending, h.round, ⟨hl, h.fuses.svn, h.fuses.top, ?_, h.fuses.made⟩, h.mem, fun k => { h.tables k with }⟩
    by_cases hp : lc = .provisioned
    · exact .inl (ho hp)
    · simpa [hp] using h.fuses.owner
  unfold lifeCommit
  dsimp only
  split
  · exact eraseStore_keeps (eraseRoot_keeps k)
  · exact k

/-- No failed check is carried only where there is none. -/
theorem worst_none {l : List Fail} (h : worst l = none) : l = [] := by
  cases l with
  | nil => rfl
  | cons f t =>
    unfold worst at h
    split at h
    · cases h
    · split at h <;> cases h

/-- A target the present state allows lies ahead of it. -/
theorem lifeTarget_ahead {lc lc' : Lifecycle} {n : Nat} (h : lifeTarget lc n = some lc') :
    lc.code ≤ lc'.code ∧ (lc' = .provisioned → lc = .blank) := by
  unfold lifeTarget at h
  split at h
  · cases h
    cases lc <;> simp [Lifecycle.code]
  · split at h
    · rename_i k
      cases h
      simp [k.2, Lifecycle.code]
    · split at h
      · rename_i k
        cases h
        simp [k.2, Lifecycle.code]
      · cases h

@[simp] theorem lifeSet_keeps {z : Bool} {s₀ : State} {s : State} {i : Nat} {g : Flight} {fuseBad : Bool} (h : Keeps z s₀ s) :
    Keeps z s₀ (lifeSet s i g fuseBad) := by
  refine h.trans ?_
  unfold lifeSet
  extract_lets d gate ok suit ks s1
  have k1 : Keeps z s s1 := by simp [s1]
  split
  · simp [k1]
  · split
    · simp [k1]
    · rename_i hw
      split
      · simp [k1]
      · obtain ⟨lc, e⟩ : ∃ lc, lifeTarget s.fuses.lc (byteAt d.inl 0).toNat = some lc := by
          have hok : lifeFields g.desc s.fuses.lc = true := by
            have := worst_none hw
            simp only [List.append_eq_nil_iff] at this
            by_cases k : lifeFields g.desc s.fuses.lc = true
            · exact k
            · have := this.2
              simp [need, ok, d, k] at this
          unfold lifeFields at hok
          cases e : lifeTarget s.fuses.lc (byteAt d.inl 0).toNat with
          | none => simp [d] at e; simp [e] at hok
          | some lc => exact ⟨lc, rfl⟩
        rw [e]
        exact lifeCommit_keeps (by simp [k1]) (lifeTarget_ahead e).1 (lifeTarget_ahead e).2

@[simp] theorem execLifecycleSet_keeps {z : Bool} {s₀ : State} {seat : Fin 8192} {sq : Nat} {fuseBad : Bool} {s : State} (h : Keeps z s₀ s) :
    Goes z s₀ (execLifecycleSet seat sq fuseBad s) := by
  unfold execLifecycleSet
  dsimp only
  (repeat' split) <;> simp (maxDischargeDepth := 99) [h]

end Sys2Proof.Machine
end

