-- ==== Sys2Proof/Laws/KeepsSlots.lean ====
section
/-!
SUPPORT. Every operation of Machine/Slots.lean keeps what Laws/Keeps.lean names.
-/
namespace Sys2Proof.Machine

@[simp] theorem slotEvent_keeps {z : Bool} {s₀ : State} {s : State} (h : Keeps z s₀ s) :
    Keeps z s₀ (slotEvent s) := by simp (maxDischargeDepth := 99) [slotEvent, h]

@[simp] theorem slotErr_keeps {z : Bool} {s₀ : State} {s : State} {n : Nat} {e : Byte} (h : Keeps z s₀ s) :
    Keeps z s₀ (slotErr s n e) := by simp (maxDischargeDepth := 99) [slotErr, h]

@[simp] theorem slotCut_keeps {z : Bool} {s₀ : State} {s : State} {n : Nat} (h : Keeps z s₀ s) :
    Keeps z s₀ (slotCut s n) := by simp (maxDischargeDepth := 99) [slotCut, h]

@[simp] theorem slotFault_keeps {z : Bool} {s₀ : State} {s : State} {n : Nat} {e : Byte} (h : Keeps z s₀ s) :
    Keeps z s₀ (slotFault s n e) := by simp (maxDischargeDepth := 99) [slotFault, h]

@[simp] theorem sendToken_keeps {z : Bool} {s₀ : State} {s : State} {n : Nat} {step : SlotStep} {cmd : Nat} {arg : Bytes} (h : Keeps z s₀ s) :
    Keeps z s₀ (sendToken s n step cmd arg) := by simp (maxDischargeDepth := 99) [sendToken, h]

@[simp] theorem sendBusy_keeps {z : Bool} {s₀ : State} {s : State} {n : Nat} {step : SlotStep} {cmd : Nat} {arg : Bytes} (h : Keeps z s₀ s) :
    Keeps z s₀ (sendBusy s n step cmd arg) := by simp (maxDischargeDepth := 99) [sendBusy, h]

@[simp] theorem powerSlot_keeps {z : Bool} {s₀ : State} {s : State} {n : Nat} {c : Nat} {probe : Bool} (h : Keeps z s₀ s) :
    Keeps z s₀ (powerSlot s n c probe) := by simp (maxDischargeDepth := 99) [powerSlot, h]

@[simp] theorem startSlot_keeps {z : Bool} {s₀ : State} {s : State} {n : Nat} (h : Keeps z s₀ s) :
    Keeps z s₀ (startSlot s n) := by
  unfold startSlot
  (repeat' split) <;> simp (maxDischargeDepth := 99) [h]

@[simp] theorem nextCardClass_keeps {z : Bool} {s₀ : State} {s : State} {n : Nat} (h : Keeps z s₀ s) :
    Keeps z s₀ (nextCardClass s n) := by
  unfold nextCardClass
  (repeat' split) <;> simp (maxDischargeDepth := 99) [h]

@[simp] theorem sendCard_keeps {z : Bool} {s₀ : State} {s : State} {n : Nat} {step : SlotStep} {b : Bytes} (h : Keeps z s₀ s) :
    Keeps z s₀ (sendCard s n step b) := by simp (maxDischargeDepth := 99) [sendCard, h]

@[simp] theorem selectFrom_keeps {z : Bool} {s₀ : State} {s : State} {n : Nat} {k : Nat} (h : Keeps z s₀ s) :
    Keeps z s₀ (selectFrom s n k) := by
  unfold selectFrom
  (repeat' split) <;> simp (maxDischargeDepth := 99) [h]

@[simp] theorem slotIdle_keeps {z : Bool} {s₀ : State} {s : State} {n : Nat} (h : Keeps z s₀ s) :
    Keeps z s₀ (slotIdle s n) := by simp (maxDischargeDepth := 99) [slotIdle, h]

@[simp] theorem takePw_keeps {z : Bool} {s₀ : State} {s : State} {n : Nat} (h : Keeps z s₀ s) :
    Keeps z s₀ (takePw s n) := by simp (maxDischargeDepth := 99) [takePw, h]

@[simp] theorem afterUnlock_keeps {z : Bool} {s₀ : State} {s : State} {n : Nat} (h : Keeps z s₀ s) :
    Keeps z s₀ (afterUnlock s n) := by simp (maxDischargeDepth := 99) [afterUnlock, h]

@[simp] theorem tryUnlock_keeps {z : Bool} {s₀ : State} {s : State} {n : Nat} (h : Keeps z s₀ s) :
    Keeps z s₀ (tryUnlock s n) := by simp (maxDischargeDepth := 99) [tryUnlock, h]

@[simp] theorem withEntry_keeps {z : Bool} {s₀ : State} {s : State} {n : Nat} {k : Nat} (h : Keeps z s₀ s) :
    Keeps z s₀ (withEntry s n k).2 := by simp (maxDischargeDepth := 99) [withEntry, h]

@[simp] theorem authStart_keeps {z : Bool} {s₀ : State} {s : State} {n : Nat} (h : Keeps z s₀ s) :
    Keeps z s₀ (authStart s n) := by
  unfold authStart
  dsimp only
  (repeat' split) <;> simp (maxDischargeDepth := 99) [h]

@[simp] theorem slotReady_keeps {z : Bool} {s₀ : State} {s : State} {n : Nat} (h : Keeps z s₀ s) :
    Keeps z s₀ (slotReady s n) := by simp (maxDischargeDepth := 99) [slotReady, h]

@[simp] theorem countCustodian_keeps {z : Bool} {s₀ : State} {s : State} {n : Nat} (h : Keeps z s₀ s) :
    Keeps z s₀ (countCustodian s n) := by simp (maxDischargeDepth := 99) [countCustodian, h]

@[simp] theorem writeUse_keeps {z : Bool} {s₀ : State} {s : State} {n : Nat} (h : Keeps z s₀ s) :
    Keeps z s₀ (writeUse s n) := by simp (maxDischargeDepth := 99) [writeUse, h]

@[simp] theorem readComp_keeps {z : Bool} {s₀ : State} {s : State} {n : Nat} (h : Keeps z s₀ s) :
    Keeps z s₀ (readComp s n) := by simp (maxDischargeDepth := 99) [readComp, h]

@[simp] theorem checkSig_keeps {z : Bool} {s₀ : State} {s : State} {n : Nat} {sig : Bytes} (h : Keeps z s₀ s) :
    Keeps z s₀ (checkSig s n sig) := by simp (maxDischargeDepth := 99) [checkSig, h]

@[simp] theorem gotComp_keeps {z : Bool} {s₀ : State} {s : State} {n : Nat} {b : Bytes} (h : Keeps z s₀ s) :
    Keeps z s₀ (gotComp s n b) := by simp (maxDischargeDepth := 99) [gotComp, h]

@[simp] theorem execChallengeDraw_keeps {z : Bool} {s₀ : State} {n : Fin 2} {s : State} (h : Keeps z s₀ s) :
    Goes z s₀ (execChallengeDraw n s) := by simp (maxDischargeDepth := 99) [execChallengeDraw, h]

@[simp] theorem challengeTurn_keeps {z : Bool} {s₀ : State} {s : State} {n : Nat} (h : Keeps z s₀ s) :
    Keeps z s₀ (challengeTurn s n) := by
  unfold challengeTurn
  (repeat' split) <;> simp (maxDischargeDepth := 99) [h]

@[simp] theorem sendSetbus_keeps {z : Bool} {s₀ : State} {s : State} {n : Nat} {clk : Nat} (h : Keeps z s₀ s) :
    Keeps z s₀ (sendSetbus s n clk) := by simp (maxDischargeDepth := 99) [sendSetbus, h]

@[simp] theorem sendTune_keeps {z : Bool} {s₀ : State} {s : State} {n : Nat} {p : Nat} (h : Keeps z s₀ s) :
    Keeps z s₀ (sendTune s n p) := by simp (maxDischargeDepth := 99) [sendTune, h]

@[simp] theorem tuneEnd_keeps {z : Bool} {s₀ : State} {s : State} {n : Nat} (h : Keeps z s₀ s) :
    Keeps z s₀ (tuneEnd s n) := by simp (maxDischargeDepth := 99) [tuneEnd, h]

@[simp] theorem afterBus_keeps {z : Bool} {s₀ : State} {s : State} {n : Nat} (h : Keeps z s₀ s) :
    Keeps z s₀ (afterBus s n) := by simp (maxDischargeDepth := 99) [afterBus, h]

@[simp] theorem tunePhase_keeps {z : Bool} {s₀ : State} {s : State} {n : Nat} {p : Nat} {ok : Bool} (h : Keeps z s₀ s) :
    Keeps z s₀ (tunePhase s n p ok) := by simp (maxDischargeDepth := 99) [tunePhase, h]

@[simp] theorem opcondAnswer_keeps {z : Bool} {s₀ : State} {s : State} {n : Nat} {b : Byte} (h : Keeps z s₀ s) :
    Keeps z s₀ (opcondAnswer s n b) := by simp (maxDischargeDepth := 99) [opcondAnswer, h]

@[simp] theorem identAnswer_keeps {z : Bool} {s₀ : State} {s : State} {n : Nat} {b : Bytes} (h : Keeps z s₀ s) :
    Keeps z s₀ (identAnswer s n b) := by simp (maxDischargeDepth := 99) [identAnswer, h]

@[simp] theorem tokenMiss_keeps {z : Bool} {s₀ : State} {s : State} {n : Nat} (h : Keeps z s₀ s) :
    Keeps z s₀ (tokenMiss s n) := by simp (maxDischargeDepth := 99) [tokenMiss, h]

@[simp] theorem tokenAnswer_keeps {z : Bool} {s₀ : State} {s : State} {n : Nat} {stat : Nat} {data : Bytes} {repeated : Bool} (h : Keeps z s₀ s) :
    Keeps z s₀ (tokenAnswer s n stat data repeated) := by
  unfold tokenAnswer
  dsimp only
  (repeat' split) <;> simp (maxDischargeDepth := 99) [h]

@[simp] theorem execRyenoResponse_keeps {z : Bool} {s₀ : State} {n : Fin 2} {frame : Bytes} {repeated : Bool} {s : State} (h : Keeps z s₀ s) :
    Goes z s₀ (execRyenoResponse n frame repeated s) := by
  unfold execRyenoResponse
  dsimp only
  (repeat' split) <;> simp (maxDischargeDepth := 99) [h]

@[simp] theorem execResponseTimeout_keeps {z : Bool} {s₀ : State} {n : Fin 2} {s : State} (h : Keeps z s₀ s) :
    Goes z s₀ (execResponseTimeout n s) := by simp (maxDischargeDepth := 99) [execResponseTimeout, h]

@[simp] theorem execBusyLimit_keeps {z : Bool} {s₀ : State} {n : Fin 2} {s : State} (h : Keeps z s₀ s) :
    Goes z s₀ (execBusyLimit n s) := by simp (maxDischargeDepth := 99) [execBusyLimit, h]

@[simp] theorem execOpcond_keeps {z : Bool} {s₀ : State} {n : Fin 2} {s : State} (h : Keeps z s₀ s) :
    Goes z s₀ (execOpcond n s) := by
  unfold execOpcond
  dsimp only
  (repeat' split) <;> simp (maxDischargeDepth := 99) [h]

@[simp] theorem wakeSlot_keeps {z : Bool} {s₀ : State} {s : State} {n : Nat} (h : Keeps z s₀ s) :
    Keeps z s₀ (wakeSlot s n) := by simp (maxDischargeDepth := 99) [wakeSlot, h]

@[simp] theorem execSlotSleepTimer_keeps {z : Bool} {s₀ : State} {n : Fin 2} {s : State} (h : Keeps z s₀ s) :
    Goes z s₀ (execSlotSleepTimer n s) := by simp (maxDischargeDepth := 99) [execSlotSleepTimer, h]

@[simp] theorem execCharacterRepetition_keeps {z : Bool} {s₀ : State} {n : Fin 2} {s : State} (h : Keeps z s₀ s) :
    Goes z s₀ (execCharacterRepetition n s) := by simp (maxDischargeDepth := 99) [execCharacterRepetition, h]

@[simp] theorem sendPps_keeps {z : Bool} {s₀ : State} {s : State} {n : Nat} {pps1 : Byte} (h : Keeps z s₀ s) :
    Keeps z s₀ (sendPps s n pps1) := by simp (maxDischargeDepth := 99) [sendPps, h]

@[simp] theorem takePair_keeps {z : Bool} {s₀ : State} {s : State} {n : Nat} {a : AtrInfo} (h : Keeps z s₀ s) :
    Keeps z s₀ (takePair s n a) := by
  unfold takePair
  dsimp only
  (repeat' split) <;> simp (maxDischargeDepth := 99) [h]

@[simp] theorem execAtr_keeps {z : Bool} {s₀ : State} {n : Fin 2} {b : Bytes} {s : State} (h : Keeps z s₀ s) :
    Goes z s₀ (execAtr n b s) := by simp (maxDischargeDepth := 99) [execAtr, h]

@[simp] theorem execAtrTimeout_keeps {z : Bool} {s₀ : State} {n : Fin 2} {s : State} (h : Keeps z s₀ s) :
    Goes z s₀ (execAtrTimeout n s) := by simp (maxDischargeDepth := 99) [execAtrTimeout, h]

@[simp] theorem ppsFail_keeps {z : Bool} {s₀ : State} {s : State} {n : Nat} (h : Keeps z s₀ s) :
    Keeps z s₀ (ppsFail s n) := by simp (maxDischargeDepth := 99) [ppsFail, h]

@[simp] theorem execPpsResponse_keeps {z : Bool} {s₀ : State} {n : Fin 2} {b : Bytes} {s : State} (h : Keeps z s₀ s) :
    Goes z s₀ (execPpsResponse n b s) := by simp (maxDischargeDepth := 99) [execPpsResponse, h]

@[simp] theorem cardSigned_keeps {z : Bool} {s₀ : State} {s : State} {n : Nat} {b : Bytes} (h : Keeps z s₀ s) :
    Keeps z s₀ (cardSigned s n b) := by
  unfold cardSigned
  dsimp only
  (repeat' split) <;> simp (maxDischargeDepth := 99) [h]

@[simp] theorem cardAnswer_keeps {z : Bool} {s₀ : State} {s : State} {n : Nat} {b : Bytes} {ok : Bool} {sw : BitVec 16} (h : Keeps z s₀ s) :
    Keeps z s₀ (cardAnswer s n b ok sw) := by
  unfold cardAnswer
  (repeat' split) <;> simp (maxDischargeDepth := 99) [h]

@[simp] theorem execCardResponse_keeps {z : Bool} {s₀ : State} {n : Fin 2} {data : Bytes} {sw : BitVec 16} {s : State} (h : Keeps z s₀ s) :
    Goes z s₀ (execCardResponse n data sw s) := by simp (maxDischargeDepth := 99) [execCardResponse, h]

@[simp] theorem execWaitingTimeExpiry_keeps {z : Bool} {s₀ : State} {n : Fin 2} {s : State} (h : Keeps z s₀ s) :
    Goes z s₀ (execWaitingTimeExpiry n s) := by simp (maxDischargeDepth := 99) [execWaitingTimeExpiry, h]

@[simp] theorem execNullByte_keeps {z : Bool} {s₀ : State} {n : Fin 2} {s : State} (h : Keeps z s₀ s) :
    Goes z s₀ (execNullByte n s) := by simp (maxDischargeDepth := 99) [execNullByte, h]

@[simp] theorem execSlotInsertion_keeps {z : Bool} {s₀ : State} {n : Fin 2} {s : State} (h : Keeps z s₀ s) :
    Goes z s₀ (execSlotInsertion n s) := by simp (maxDischargeDepth := 99) [execSlotInsertion, h]

@[simp] theorem execSlotRemoval_keeps {z : Bool} {s₀ : State} {n : Fin 2} {s : State} (h : Keeps z s₀ s) :
    Goes z s₀ (execSlotRemoval n s) := by simp (maxDischargeDepth := 99) [execSlotRemoval, h]

@[simp] theorem execSlotOvercurrent_keeps {z : Bool} {s₀ : State} {n : Fin 2} {s : State} (h : Keeps z s₀ s) :
    Goes z s₀ (execSlotOvercurrent n s) := by simp (maxDischargeDepth := 99) [execSlotOvercurrent, h]

@[simp] theorem slotWrite_keeps {z : Bool} {s₀ : State} {s : State} {f : Func} {off : Nat} {v : Word} (h : Keeps z s₀ s) :
    Keeps z s₀ (slotWrite s f off v) := by simp (maxDischargeDepth := 99) [slotWrite, h]

@[simp] theorem deactivateSlot_keeps {z : Bool} {s₀ : State} {s : State} {n : Nat} (h : Keeps z s₀ s) :
    Keeps z s₀ (deactivateSlot s n) := by simp (maxDischargeDepth := 99) [deactivateSlot, h]

@[simp] theorem activateSlot_keeps {z : Bool} {s₀ : State} {s : State} {n : Nat} (h : Keeps z s₀ s) :
    Keeps z s₀ (activateSlot s n) := by simp (maxDischargeDepth := 99) [activateSlot, h]

@[simp] theorem eraseToken_keeps {z : Bool} {s₀ : State} {s : State} {f : Func} {n : Nat} (h : Keeps z s₀ s) :
    Keeps z s₀ (eraseToken s f n) := by simp (maxDischargeDepth := 99) [eraseToken, h]

@[simp] theorem slotCtrl_keeps {z : Bool} {s₀ : State} {s : State} {f : Func} {n : Nat} {v : Word} (h : Keeps z s₀ s) :
    Keeps z s₀ (slotCtrl s f n v) := by simp (maxDischargeDepth := 99) [slotCtrl, h]

@[simp] theorem pwPlaced_keeps {z : Bool} {s₀ : State} {s : State} {n : Nat} (h : Keeps z s₀ s) :
    Keeps z s₀ (pwPlaced s n) := by simp (maxDischargeDepth := 99) [pwPlaced, h]

@[simp] theorem pwCtrl_keeps {z : Bool} {s₀ : State} {s : State} {n : Nat} {v : Word} (h : Keeps z s₀ s) :
    Keeps z s₀ (pwCtrl s n v) := by simp (maxDischargeDepth := 99) [pwCtrl, h]

@[simp] theorem quorumCtrl_keeps {z : Bool} {s₀ : State} {s : State} {f : Func} {v : Word} (h : Keeps z s₀ s) :
    Keeps z s₀ (quorumCtrl s f v) := by simp (maxDischargeDepth := 99) [quorumCtrl, h]

@[simp] theorem applySlotWrite_keeps {z : Bool} {s₀ : State} {s : State} {w : Func × Nat × Word} (h : Keeps z s₀ s) :
    Keeps z s₀ (applySlotWrite s w) := by simp (maxDischargeDepth := 99) [applySlotWrite, h]

@[simp] theorem slotTurn_keeps {z : Bool} {s₀ : State} {s : State} (h : Keeps z s₀ s) :
    Keeps z s₀ (slotTurn s) := by simp (maxDischargeDepth := 99) [slotTurn, h]

@[simp] theorem execActivate_keeps {z : Bool} {s₀ : State} {f : Func} {n : Fin 2} {s : State} (h : Keeps z s₀ s) :
    Goes z s₀ (execActivate f n s) := by simp (maxDischargeDepth := 99) [execActivate, h]

@[simp] theorem execEraseToken_keeps {z : Bool} {s₀ : State} {f : Func} {n : Fin 2} {s : State} (h : Keeps z s₀ s) :
    Goes z s₀ (execEraseToken f n s) := by simp (maxDischargeDepth := 99) [execEraseToken, h]

@[simp] theorem execDeactivate_keeps {z : Bool} {s₀ : State} {f : Func} {n : Fin 2} {s : State} (h : Keeps z s₀ s) :
    Goes z s₀ (execDeactivate f n s) := by simp (maxDischargeDepth := 99) [execDeactivate, h]

@[simp] theorem execSlotPwCtrl_keeps {z : Bool} {s₀ : State} {f : Func} {n : Fin 2} {v : Word} {s : State} (h : Keeps z s₀ s) :
    Goes z s₀ (execSlotPwCtrl f n v s) := by simp (maxDischargeDepth := 99) [execSlotPwCtrl, h]

@[simp] theorem execQuorumOpen_keeps {z : Bool} {s₀ : State} {f : Func} {m : BitVec 4} {s : State} (h : Keeps z s₀ s) :
    Goes z s₀ (execQuorumOpen f m s) := by simp (maxDischargeDepth := 99) [execQuorumOpen, h]

@[simp] theorem execQuorumClose_keeps {z : Bool} {s₀ : State} {f : Func} {s : State} (h : Keeps z s₀ s) :
    Goes z s₀ (execQuorumClose f s) := by simp (maxDischargeDepth := 99) [execQuorumClose, h]

@[simp] theorem execQuorumLimit_keeps {z : Bool} {s₀ : State} {s : State} (h : Keeps z s₀ s) :
    Goes z s₀ (execQuorumLimit s) := by simp (maxDischargeDepth := 99) [execQuorumLimit, h]

end Sys2Proof.Machine
end

