-- ==== Sys2Proof/Laws/KeepsWords.lean ====
section
/-!
SUPPORT. Every operation of Machine/Words.lean keeps what Laws/Keeps.lean names.
-/
namespace Sys2Proof.Machine

@[simp] theorem keepRc_keeps {z : Bool} {s₀ : State} {s : State} {f : Func} {off : Nat} {m : Word} (h : Keeps z s₀ s) :
    Keeps z s₀ (keepRc s f off m) := by simp (maxDischargeDepth := 99) [keepRc, h]

@[simp] theorem clearRc_keeps {z : Bool} {s₀ : State} {s : State} {f : Func} {off : Nat} (h : Keeps z s₀ s) :
    Keeps z s₀ (clearRc s f off) := by simp (maxDischargeDepth := 99) [clearRc, h]

@[simp] theorem holdStep_keeps {z : Bool} {s₀ : State} {s : State} {f : Func} {off : Nat} (h : Keeps z s₀ s) :
    Keeps z s₀ (holdStep s f off) := by
  unfold holdStep
  (repeat' split) <;> simp (maxDischargeDepth := 99) [h]

@[simp] theorem barRead_keeps {z : Bool} {s₀ : State} {s : State} {f : Func} {off : Nat} {size : Nat} (h : Keeps z s₀ s) :
    Keeps z s₀ (barRead s f off size) := by simp (maxDischargeDepth := 99) [barRead, h]

@[simp] theorem hostRead_keeps {z : Bool} {s₀ : State} {s : State} {f : Func} {off : Nat} {size : Nat} (h : Keeps z s₀ s) :
    Keeps z s₀ (hostRead s f off size) := by simp (maxDischargeDepth := 99) [hostRead, h]

@[simp] theorem execLowerWordRead_keeps {z : Bool} {s₀ : State} {f : Func} {off : Nat} {size : Nat} {s : State} (h : Keeps z s₀ s) :
    Goes z s₀ (execLowerWordRead f off size s) := by simp (maxDischargeDepth := 99) [execLowerWordRead, h]

@[simp] theorem execUpperWordRead_keeps {z : Bool} {s₀ : State} {f : Func} {off : Nat} {size : Nat} {s : State} (h : Keeps z s₀ s) :
    Goes z s₀ (execUpperWordRead f off size s) := by simp (maxDischargeDepth := 99) [execUpperWordRead, h]

@[simp] theorem rcRead_keeps {z : Bool} {s₀ : State} {s : State} {f : Func} {off : Nat} {whole : Bool} (h : Keeps z s₀ s) :
    Goes z s₀ (rcRead s f off whole) := by simp (maxDischargeDepth := 99) [rcRead, h]

@[simp] theorem execDbDiscardCnt_keeps {z : Bool} {s₀ : State} {f : Func} {whole : Bool} {s : State} (h : Keeps z s₀ s) :
    Goes z s₀ (execDbDiscardCnt f whole s) := by simp (maxDischargeDepth := 99) [execDbDiscardCnt, h]

@[simp] theorem execDealHandBusyCnt_keeps {z : Bool} {s₀ : State} {f : Func} {whole : Bool} {s : State} (h : Keeps z s₀ s) :
    Goes z s₀ (execDealHandBusyCnt f whole s) := by simp (maxDischargeDepth := 99) [execDealHandBusyCnt, h]

@[simp] theorem execKittyRefuseCnt_keeps {z : Bool} {s₀ : State} {f : Func} {whole : Bool} {s : State} (h : Keeps z s₀ s) :
    Goes z s₀ (execKittyRefuseCnt f whole s) := by simp (maxDischargeDepth := 99) [execKittyRefuseCnt, h]

@[simp] theorem execKittyDenyCnt_keeps {z : Bool} {s₀ : State} {f : Func} {whole : Bool} {s : State} (h : Keeps z s₀ s) :
    Goes z s₀ (execKittyDenyCnt f whole s) := by simp (maxDischargeDepth := 99) [execKittyDenyCnt, h]

@[simp] theorem execLaneMigWaitCnt_keeps {z : Bool} {s₀ : State} {f : Func} {whole : Bool} {s : State} (h : Keeps z s₀ s) :
    Goes z s₀ (execLaneMigWaitCnt f whole s) := by simp (maxDischargeDepth := 99) [execLaneMigWaitCnt, h]

@[simp] theorem execPkeInvalidCnt_keeps {z : Bool} {s₀ : State} {f : Func} {whole : Bool} {s : State} (h : Keeps z s₀ s) :
    Goes z s₀ (execPkeInvalidCnt f whole s) := by simp (maxDischargeDepth := 99) [execPkeInvalidCnt, h]

@[simp] theorem execPkeDsaMax_keeps {z : Bool} {s₀ : State} {f : Func} {whole : Bool} {s : State} (h : Keeps z s₀ s) :
    Goes z s₀ (execPkeDsaMax f whole s) := by simp (maxDischargeDepth := 99) [execPkeDsaMax, h]

@[simp] theorem execKeysDenyCnt_keeps {z : Bool} {s₀ : State} {f : Func} {whole : Bool} {s : State} (h : Keeps z s₀ s) :
    Goes z s₀ (execKeysDenyCnt f whole s) := by simp (maxDischargeDepth := 99) [execKeysDenyCnt, h]

@[simp] theorem execRngUnavailCnt_keeps {z : Bool} {s₀ : State} {f : Func} {whole : Bool} {s : State} (h : Keeps z s₀ s) :
    Goes z s₀ (execRngUnavailCnt f whole s) := by simp (maxDischargeDepth := 99) [execRngUnavailCnt, h]

@[simp] theorem execProtSuitFaultCnt_keeps {z : Bool} {s₀ : State} {f : Func} {whole : Bool} {s : State} (h : Keeps z s₀ s) :
    Goes z s₀ (execProtSuitFaultCnt f whole s) := by simp (maxDischargeDepth := 99) [execProtSuitFaultCnt, h]

@[simp] theorem execProtSpanCnt_keeps {z : Bool} {s₀ : State} {f : Func} {whole : Bool} {s : State} (h : Keeps z s₀ s) :
    Goes z s₀ (execProtSpanCnt f whole s) := by simp (maxDischargeDepth := 99) [execProtSpanCnt, h]

@[simp] theorem execDebugDenyCount_keeps {z : Bool} {s₀ : State} {f : Func} {whole : Bool} {s : State} (h : Keeps z s₀ s) :
    Goes z s₀ (execDebugDenyCount f whole s) := by simp (maxDischargeDepth := 99) [execDebugDenyCount, h]

@[simp] theorem execMemUeCnt_keeps {z : Bool} {s₀ : State} {f : Func} {whole : Bool} {s : State} (h : Keeps z s₀ s) :
    Goes z s₀ (execMemUeCnt f whole s) := by simp (maxDischargeDepth := 99) [execMemUeCnt, h]

@[simp] theorem execHouseMsg_keeps {z : Bool} {s₀ : State} {f : Func} {whole : Bool} {s : State} (h : Keeps z s₀ s) :
    Goes z s₀ (execHouseMsg f whole s) := by simp (maxDischargeDepth := 99) [execHouseMsg, h]

end Sys2Proof.Machine
end

