-- ==== Sys2Proof/Laws/KeepsScore.lean ====
section
/-!
SUPPORT. Every operation of Machine/Score.lean keeps what Laws/Keeps.lean names.
-/
namespace Sys2Proof.Machine

@[simp] theorem writeSheet_keeps {z : Bool} {s₀ : State} {s : State} {q : ScoreReq} (h : Keeps z s₀ s) :
    Keeps z s₀ (writeSheet s q) := by simp (maxDischargeDepth := 99) [writeSheet, h]

@[simp] theorem snapScores_keeps {z : Bool} {s₀ : State} {s : State} (h : Keeps z s₀ s) :
    Keeps z s₀ (snapScores s) := by simp (maxDischargeDepth := 99) [snapScores, h]

@[simp] theorem execScoreSheet_keeps {z : Bool} {s₀ : State} {s : State} (h : Keeps z s₀ s) :
    Goes z s₀ (execScoreSheet s) := by
  unfold execScoreSheet
  (repeat' split) <;> simp (maxDischargeDepth := 99) [h]

@[simp] theorem houseFatal_keeps {z : Bool} {s₀ : State} {s : State} {cause : Nat} {frame : Bytes} {data : Bytes} (h : Keeps z s₀ s) :
    Keeps z s₀ (houseFatal s cause frame data) := by simp (maxDischargeDepth := 99) [houseFatal, h]

@[simp] theorem stopLane_keeps {z : Bool} {s₀ : State} {s : State} {l : Nat} {st : Status} {d : BitVec 16} (h : Keeps z s₀ s) :
    Keeps z s₀ (stopLane s l st d) := by simp (maxDischargeDepth := 99) [stopLane, h]

@[simp] theorem laneCollapse_keeps {z : Bool} {s₀ : State} {s : State} {l : Nat} (h : Keeps z s₀ s) :
    Keeps z s₀ (laneCollapse s l) := by simp (maxDischargeDepth := 99) [laneCollapse, h]

@[simp] theorem execLaneRestart_keeps {z : Bool} {s₀ : State} {lane : Fin 128} {s : State} (h : Keeps z s₀ s) :
    Goes z s₀ (execLaneRestart lane s) := by simp (maxDischargeDepth := 99) [execLaneRestart, h]

end Sys2Proof.Machine
end

