-- ==== Sys2Proof/Laws/KeepsPower.lean ====
section
/-!
SUPPORT. Every operation of Machine/Power.lean keeps what Laws/Keeps.lean names.
-/
namespace Sys2Proof.Machine

@[simp] theorem mainReset_keeps {s₀ : State} {s : State} (h : Keeps true s₀ s) :
    Keeps true s₀ (mainReset s) := by
  refine h.trans ?_
  have k : ∀ {x : State}, Keeps true s x → Keeps true s (if s.quorum.st ≠ .idle then slotEvent x else x) := fun k => by
    split
    · exact slotEvent_keeps k
    · exact k
  unfold mainReset
  dsimp only
  simp only [decide_eq_true_eq]
  refine k ⟨rfl, .inr ⟨rfl, rfl⟩, .refl _, id, fun _ => ⟨rfl, rfl, rfl, rfl, rfl, ?_⟩⟩
  exact swf_sput _ _ _ _ (swf_sput _ _ _ _ rfl)

@[simp] theorem powerDown_keeps {s₀ : State} {s : State} (h : Keeps true s₀ s) :
    Keeps true s₀ (powerDown s) := by
  have k : Keeps true s₀ (mainReset s) := mainReset_keeps h
  unfold powerDown
  exact ⟨k.pending, k.round, k.fuses, fun w => swf_filter _ _ _ (h.mem w), fun w => { k.tables w with irq := rfl }⟩

@[simp] theorem sentinelCheck_keeps {z : Bool} {s₀ : State} {s : State} (h : Keeps z s₀ s) :
    Keeps z s₀ (sentinelCheck s) := by simp (maxDischargeDepth := 99) [sentinelCheck, h]

@[simp] theorem enterPhase_keeps {z : Bool} {s₀ : State} {s : State} {n : Nat} (h : Keeps z s₀ s) :
    Keeps z s₀ (enterPhase s n) := by simp (maxDischargeDepth := 99) [enterPhase, h]

@[simp] theorem bootStart_keeps {s₀ : State} {s : State} (h : Keeps true s₀ s) :
    Keeps true s₀ (bootStart s) := by
  unfold bootStart
  refine enterPhase_keeps (rngStart_keeps (eraseStore_keeps (sentinelCheck_keeps (h.trans ?_))))
  exact ⟨rfl, .inr ⟨rfl, rfl⟩, .refl _, id, fun k => { k with }⟩

@[simp] theorem bootFrom_keeps {s₀ : State} {s : State} {railsGood : Bool} (h : Keeps true s₀ s) :
    Keeps true s₀ (bootFrom s railsGood) := by simp (maxDischargeDepth := 99) [bootFrom, h]

@[simp] theorem applyDcr_keeps {z : Bool} {s₀ : State} {s : State} (h : Keeps z s₀ s) :
    Keeps z s₀ (applyDcr s) := by simp (maxDischargeDepth := 99) [applyDcr, h]

@[simp] theorem readDcr_keeps {z : Bool} {s₀ : State} {s : State} (h : Keeps z s₀ s) :
    Keeps z s₀ (readDcr s) := by simp (maxDischargeDepth := 99) [readDcr, h]

@[simp] theorem tcrBoot_keeps {z : Bool} {s₀ : State} {s : State} (h : Keeps z s₀ s) :
    Keeps z s₀ (tcrBoot s) := by simp (maxDischargeDepth := 99) [tcrBoot, h]

@[simp] theorem applyPending_keeps {z : Bool} {s₀ : State} {s : State} (h : Keeps z s₀ s) :
    Keeps z s₀ (applyPending s) := by simp (maxDischargeDepth := 99) [applyPending, h]

@[simp] theorem loadRegions_keeps {z : Bool} {s₀ : State} {s : State} {img : Bytes} (h : Keeps z s₀ s) :
    Keeps z s₀ (loadRegions s img) := by simp (maxDischargeDepth := 99) [loadRegions, h]

@[simp] theorem loadLane_keeps {z : Bool} {s₀ : State} {s : State} {play : Bytes} {kernel : Bytes} {l : Nat} (h : Keeps z s₀ s) :
    Keeps z s₀ (loadLane s play kernel l) := by simp (maxDischargeDepth := 99) [loadLane, h]

@[simp] theorem loadFirmware_keeps {z : Bool} {s₀ : State} {s : State} {base : Nat} (h : Keeps z s₀ s) :
    Keeps z s₀ (loadFirmware s base) := by simp (maxDischargeDepth := 99) [loadFirmware, h]

@[simp] theorem recover_keeps {z : Bool} {s₀ : State} {s : State} {err : Nat} (h : Keeps z s₀ s) :
    Keeps z s₀ (recover s err) := by simp (maxDischargeDepth := 99) [recover, h]

@[simp] theorem bootImages_keeps {z : Bool} {s₀ : State} {s : State} (h : Keeps z s₀ s) :
    Keeps z s₀ (bootImages s) := by simp (maxDischargeDepth := 99) [bootImages, h]

@[simp] theorem execFlashReady_keeps {z : Bool} {s₀ : State} {s : State} (h : Keeps z s₀ s) :
    Goes z s₀ (execFlashReady s) := by simp (maxDischargeDepth := 99) [execFlashReady, h]

@[simp] theorem execBootPhaseLimit_keeps {z : Bool} {s₀ : State} {s : State} (h : Keeps z s₀ s) :
    Goes z s₀ (execBootPhaseLimit s) := by simp (maxDischargeDepth := 99) [execBootPhaseLimit, h]

@[simp] theorem bootSeed_keeps {z : Bool} {s₀ : State} {s : State} (h : Keeps z s₀ s) :
    Keeps z s₀ (bootSeed s) := by simp (maxDischargeDepth := 99) [bootSeed, h]

@[simp] theorem bootRearm_keeps {z : Bool} {s₀ : State} {s : State} (h : Keeps z s₀ s) :
    Keeps z s₀ (bootRearm s) := by simp (maxDischargeDepth := 99) [bootRearm, h]

@[simp] theorem bootReady_keeps {z : Bool} {s₀ : State} {s : State} (h : Keeps z s₀ s) :
    Keeps z s₀ (bootReady s) := by
  unfold bootReady
  refine Keeps.foldl (bootRearm_keeps (h.trans ?_)) fun t x => ?_
  · exact ⟨rfl, .inl rfl, ⟨Nat.le_refl _, Nat.le_max_left _ _, fun k => by simp only; omega, .inr rfl, rfl, rfl, rfl⟩, id,
      fun k => { k with }⟩
  · split <;> simp

@[simp] theorem bootTurn_keeps {z : Bool} {s₀ : State} {s : State} (h : Keeps z s₀ s) :
    Keeps z s₀ (bootTurn s) := by
  unfold bootTurn
  (repeat' split) <;> simp (maxDischargeDepth := 99) [h]

@[simp] theorem powerRequest_keeps {s₀ : State} {s : State} {f : Func} {v : BitVec 2} (h : Keeps true s₀ s) :
    Keeps true s₀ (powerRequest s f v) := by simp (maxDischargeDepth := 99) [powerRequest, h]

@[simp] theorem pwrCtrlWrite_keeps {s₀ : State} {s : State} {f : Func} {v : Word} (h : Keeps true s₀ s) :
    Keeps true s₀ (pwrCtrlWrite s f v) := by simp (maxDischargeDepth := 99) [pwrCtrlWrite, h]

@[simp] theorem pwrCmd_keeps {s₀ : State} {s : State} {f : Func} {st : Nat} (h : Keeps true s₀ s) :
    Keeps true s₀ (pwrCmd s f st) := by simp (maxDischargeDepth := 99) [pwrCmd, h]

@[simp] theorem execStandbyRequest_keeps {s₀ : State} {f : Func} {s : State} (h : Keeps true s₀ s) :
    Goes true s₀ (execStandbyRequest f s) := by simp (maxDischargeDepth := 99) [execStandbyRequest, h]

@[simp] theorem execRunRequest_keeps {s₀ : State} {f : Func} {s : State} (h : Keeps true s₀ s) :
    Goes true s₀ (execRunRequest f s) := by simp (maxDischargeDepth := 99) [execRunRequest, h]

@[simp] theorem execAonOnlyRequest_keeps {s₀ : State} {f : Func} {s : State} (h : Keeps true s₀ s) :
    Goes true s₀ (execAonOnlyRequest f s) := by simp (maxDischargeDepth := 99) [execAonOnlyRequest, h]

@[simp] theorem holdTimers_keeps {z : Bool} {s₀ : State} {s : State} (h : Keeps z s₀ s) :
    Keeps z s₀ (holdTimers s) := by simp (maxDischargeDepth := 99) [holdTimers, h]

@[simp] theorem standbyEnter_keeps {z : Bool} {s₀ : State} {s : State} (h : Keeps z s₀ s) :
    Keeps z s₀ (standbyEnter s) := by simp (maxDischargeDepth := 99) [standbyEnter, h]

@[simp] theorem execPerstAssert_keeps {s₀ : State} {port : Fin 2} {s : State} (h : Keeps true s₀ s) :
    Goes true s₀ (execPerstAssert port s) := by simp (maxDischargeDepth := 99) [execPerstAssert, h]

@[simp] theorem execPerstRelease_keeps {s₀ : State} {port : Fin 2} {railsGood : Bool} {s : State} (h : Keeps true s₀ s) :
    Goes true s₀ (execPerstRelease port railsGood s) := by simp (maxDischargeDepth := 99) [execPerstRelease, h]

@[simp] theorem execMainPowerGood_keeps {s₀ : State} {s : State} (h : Keeps true s₀ s) :
    Goes true s₀ (execMainPowerGood s) := by simp (maxDischargeDepth := 99) [execMainPowerGood, h]

@[simp] theorem execMainPowerLoss_keeps {s₀ : State} {s : State} (h : Keeps true s₀ s) :
    Goes true s₀ (execMainPowerLoss s) := by simp (maxDischargeDepth := 99) [execMainPowerLoss, h]

@[simp] theorem execAonLoss_keeps {z : Bool} {s₀ : State} {s : State} (h : Keeps z s₀ s) :
    Goes z s₀ (execAonLoss s) := by simp (maxDischargeDepth := 99) [execAonLoss, h]

@[simp] theorem execVbatApplied_keeps {z : Bool} {s₀ : State} {s : State} (h : Keeps z s₀ s) :
    Goes z s₀ (execVbatApplied s) := by simp (maxDischargeDepth := 99) [execVbatApplied, h]

end Sys2Proof.Machine
end

