-- ==== Sys2Proof/Laws/KeepsRegs.lean ====
section
/-!
SUPPORT. Every operation of Machine/Regs.lean keeps what Laws/Keeps.lean names.
-/
namespace Sys2Proof.Machine

@[simp] theorem irqStatusWrite_keeps {z : Bool} {s₀ : State} {s : State} {f : Func} {v : Word} {same : Word} (h : Keeps z s₀ s) :
    Keeps z s₀ (irqStatusWrite s f v same) := by simp (maxDischargeDepth := 99) [irqStatusWrite, h]

@[simp] theorem irqWrite_keeps {z : Bool} {s₀ : State} {s : State} {f : Func} {o : Nat} {v : Word} (h : Keeps z s₀ s) :
    Keeps z s₀ (irqWrite s f o v) := by simp (maxDischargeDepth := 99) [irqWrite, h]

@[simp] theorem execIrqStatus_keeps {z : Bool} {s₀ : State} {f : Func} {v : Word} {sameCycle : Word} {s : State} (h : Keeps z s₀ s) :
    Goes z s₀ (execIrqStatus f v sameCycle s) := by simp (maxDischargeDepth := 99) [execIrqStatus, h]

@[simp] theorem contextPut_keeps {z : Bool} {s₀ : State} {s : State} {i : Nat} {r : Nat} {v : Word} (h : Keeps z s₀ s) :
    Keeps z s₀ (contextPut s i r v) := by simp (maxDischargeDepth := 99) [contextPut, h]

@[simp] theorem coalWrite_keeps {z : Bool} {s₀ : State} {s : State} {i : Nat} {v : Word} (h : Keeps z s₀ s) :
    Keeps z s₀ (coalWrite s i v) := by simp (maxDischargeDepth := 99) [coalWrite, h]

@[simp] theorem windowWrite_keeps {z : Bool} {s₀ : State} {s : State} {f : Func} {i : Nat} {r : Nat} {v : Word} (h : Keeps z s₀ s) :
    Keeps z s₀ (windowWrite s f i r v) := by simp (maxDischargeDepth := 99) [windowWrite, h]

@[simp] theorem seatBlockWrite_keeps {z : Bool} {s₀ : State} {s : State} {f : Func} {o : Nat} {v : Word} (h : Keeps z s₀ s) :
    Keeps z s₀ (seatBlockWrite s f o v) := by
  unfold seatBlockWrite
  (repeat' split) <;> simp (maxDischargeDepth := 99) [h]

@[simp] theorem dealWrite_keeps {z : Bool} {s₀ : State} {s : State} {o : Nat} {v : Word} (h : Keeps z s₀ s) :
    Keeps z s₀ (dealWrite s o v) := by
  unfold dealWrite
  (repeat' split) <;> simp (maxDischargeDepth := 99) [h]

@[simp] theorem kittyWrite_keeps {z : Bool} {s₀ : State} {s : State} {o : Nat} {v : Word} (h : Keeps z s₀ s) :
    Keeps z s₀ (kittyWrite s o v) := by
  unfold kittyWrite
  (repeat' split) <;> simp (maxDischargeDepth := 99) [h]

@[simp] theorem pkeWrite_keeps {z : Bool} {s₀ : State} {s : State} {o : Nat} {v : Word} (h : Keeps z s₀ s) :
    Keeps z s₀ (pkeWrite s o v) := by
  unfold pkeWrite
  (repeat' split) <;> simp (maxDischargeDepth := 99) [h]

@[simp] theorem keysWrite_keeps {z : Bool} {s₀ : State} {s : State} {f : Func} {o : Nat} {v : Word} (h : Keeps z s₀ s) :
    Keeps z s₀ (keysWrite s f o v) := by simp (maxDischargeDepth := 99) [keysWrite, h]

@[simp] theorem rngWrite_keeps {z : Bool} {s₀ : State} {s : State} {o : Nat} {v : Word} (h : Keeps z s₀ s) :
    Keeps z s₀ (rngWrite s o v) := by simp (maxDischargeDepth := 99) [rngWrite, h]

@[simp] theorem memRegWrite_keeps {z : Bool} {s₀ : State} {s : State} {o : Nat} {v : Word} (h : Keeps z s₀ s) :
    Keeps z s₀ (memRegWrite s o v) := by simp (maxDischargeDepth := 99) [memRegWrite, h]

@[simp] theorem tampWrite_keeps {z : Bool} {s₀ : State} {s : State} {f : Func} {o : Nat} {v : Word} (h : Keeps z s₀ s) :
    Keeps z s₀ (tampWrite s f o v) := by simp (maxDischargeDepth := 99) [tampWrite, h]

@[simp] theorem slotBlockWrite_keeps {z : Bool} {s₀ : State} {s : State} {f : Func} {o : Nat} {v : Word} (h : Keeps z s₀ s) :
    Keeps z s₀ (slotBlockWrite s f o v) := by
  unfold slotBlockWrite
  (repeat' split) <;> simp (maxDischargeDepth := 99) [h]

@[simp] theorem houseWrite_keeps {z : Bool} {s₀ : State} {s : State} {o : Nat} {v : Word} (h : Keeps z s₀ s) :
    Keeps z s₀ (houseWrite s o v) := by simp (maxDischargeDepth := 99) [houseWrite, h]

@[simp] theorem blockWrite_keeps {s₀ : State} {s : State} {f : Func} {off : Nat} {v : Word} (h : Keeps true s₀ s) :
    Keeps true s₀ (blockWrite s f off v) := by
  unfold blockWrite
  (repeat' split) <;> simp (maxDischargeDepth := 99) [h]

@[simp] theorem regWrite_keeps {s₀ : State} {s : State} {f : Func} {off : Nat} {v : Word} (h : Keeps true s₀ s) :
    Keeps true s₀ (regWrite s f off v) := by simp (maxDischargeDepth := 99) [regWrite, h]

@[simp] theorem hostWrite_keeps {s₀ : State} {s : State} {f : Func} {off : Nat} {size : Nat} {v : Word} (h : Keeps true s₀ s) :
    Keeps true s₀ (hostWrite s f off size v) := by simp (maxDischargeDepth := 99) [hostWrite, h]

@[simp] theorem execRegisterWrite_keeps {s₀ : State} {f : Func} {off : Nat} {size : Nat} {v : Word} {s : State} (h : Keeps true s₀ s) :
    Goes true s₀ (execRegisterWrite f off size v s) := by simp (maxDischargeDepth := 99) [execRegisterWrite, h]

end Sys2Proof.Machine
end

