-- ==== Sys2Proof/Laws/KeepsOrders.lean ====
section
/-!
SUPPORT. Every operation of Machine/Orders.lean keeps what Laws/Keeps.lean names.
-/
namespace Sys2Proof.Machine

@[simp] theorem retagWrite_keeps {z : Bool} {s₀ : State} {s : State} {v : Word} (h : Keeps z s₀ s) :
    Keeps z s₀ (retagWrite s v) := by simp (maxDischargeDepth := 99) [retagWrite, h]

@[simp] theorem retagTurn_keeps {z : Bool} {s₀ : State} {s : State} (h : Keeps z s₀ s) :
    Keeps z s₀ (retagTurn s) := by
  unfold retagTurn
  (repeat' split) <;> simp (maxDischargeDepth := 99) [h]

@[simp] theorem regionPut_keeps {z : Bool} {s₀ : State} {s : State} {i : Nat} {w : Word} (h : Keeps z s₀ s) :
    Keeps z s₀ (regionPut s i w) := by simp (maxDischargeDepth := 99) [regionPut, h]

@[simp] theorem barPoke_keeps {s₀ : State} {s : State} {off : Nat} {v : Word} (h : Keeps true s₀ s) :
    Keeps true s₀ (barPoke s off v) := by
  unfold barPoke
  (repeat' split) <;> simp (maxDischargeDepth := 99) [h]

@[simp] theorem barTouch_keeps {z : Bool} {s₀ : State} {s : State} {off : Nat} {n : Nat} (h : Keeps z s₀ s) :
    Keeps z s₀ (barTouch s off n) := by simp (maxDischargeDepth := 99) [barTouch, h]

@[simp] theorem barStore_keeps {s₀ : State} {s : State} {off : Nat} {b : Bytes} (h : Keeps true s₀ s) :
    Keeps true s₀ (barStore s off b) := by simp (maxDischargeDepth := 99) [barStore, h]

@[simp] theorem execProtRetag_keeps {z : Bool} {s₀ : State} {v : Word} {s : State} (h : Keeps z s₀ s) :
    Goes z s₀ (execProtRetag v s) := by simp (maxDischargeDepth := 99) [execProtRetag, h]

@[simp] theorem order_keeps {z : Bool} {s₀ : State} {s : State} {l : Nat} {act : State → State} (h_act : ∀ t, Keeps z t (act t)) (h : Keeps z s₀ s) :
    Keeps z s₀ (order s l act) := by
  have k_act : ∀ {t u}, Keeps z t u → Keeps z t (act u) := fun k => k.trans (h_act _)
  simp (maxDischargeDepth := 99) [order, h, k_act]

@[simp] theorem execReady_keeps {z : Bool} {s₀ : State} {lane : Fin 128} {s : State} (h : Keeps z s₀ s) :
    Goes z s₀ (execReady lane s) := by simp (maxDischargeDepth := 99) [execReady, h]

@[simp] theorem execRetag_keeps {z : Bool} {s₀ : State} {lane : Fin 128} {page : Fin 16} {suit : BitVec 16} {s : State} (h : Keeps z s₀ s) :
    Goes z s₀ (execRetag lane page suit s) := by simp (maxDischargeDepth := 99) [execRetag, h]

@[simp] theorem execRegionSet_keeps {z : Bool} {s₀ : State} {lane : Fin 128} {r : Fin 16} {w0 : Word} {w1 : Word} {s : State} (h : Keeps z s₀ s) :
    Goes z s₀ (execRegionSet lane r w0 w1 s) := by simp (maxDischargeDepth := 99) [execRegionSet, h]

@[simp] theorem reloadPlay_keeps {z : Bool} {s₀ : State} {s : State} {l : Nat} (h : Keeps z s₀ s) :
    Keeps z s₀ (reloadPlay s l) := by simp (maxDischargeDepth := 99) [reloadPlay, h]

@[simp] theorem execPtReload_keeps {z : Bool} {s₀ : State} {lane : Fin 128} {s : State} (h : Keeps z s₀ s) :
    Goes z s₀ (execPtReload lane s) := by simp (maxDischargeDepth := 99) [execPtReload, h]

@[simp] theorem execNote_keeps {z : Bool} {s₀ : State} {lane : Fin 128} {w : BitVec 16} {s : State} (h : Keeps z s₀ s) :
    Goes z s₀ (execNote lane w s) := by simp (maxDischargeDepth := 99) [execNote, h]

@[simp] theorem execEccWriteBack_keeps {z : Bool} {s₀ : State} {mem : Nat} {word : Nat} {s : State} (h : Keeps z s₀ s) :
    Goes z s₀ (execEccWriteBack mem word s) := by simp (maxDischargeDepth := 99) [execEccWriteBack, h]

@[simp] theorem execLeakDecrement_keeps {z : Bool} {s₀ : State} {s : State} (h : Keeps z s₀ s) :
    Goes z s₀ (execLeakDecrement s) := by simp (maxDischargeDepth := 99) [execLeakDecrement, h]

@[simp] theorem debugRefused_keeps {z : Bool} {s₀ : State} {s : State} {addr : Nat} {len : Nat} (h : Keeps z s₀ s) :
    Keeps z s₀ (debugRefused s addr len) := by simp (maxDischargeDepth := 99) [debugRefused, h]

@[simp] theorem debugTouch_keeps {z : Bool} {s₀ : State} {s : State} {a : Nat} (h : Keeps z s₀ s) :
    Keeps z s₀ (debugTouch s a) := by
  unfold debugTouch
  (repeat' split) <;> simp (maxDischargeDepth := 99) [h]

@[simp] theorem debugPut_keeps {s₀ : State} {s : State} {a : Nat} {v : Byte} (h : Keeps true s₀ s) :
    Keeps true s₀ (debugPut s a v) := by
  unfold debugPut
  (repeat' split) <;> simp (maxDischargeDepth := 99) [h]

@[simp] theorem execDebugAccess_keeps {s₀ : State} {addr : Nat} {len : Nat} {write : Option Bytes} {s : State} (h : Keeps true s₀ s) :
    Goes true s₀ (execDebugAccess addr len write s) := by
  unfold execDebugAccess
  (repeat' split) <;> simp (maxDischargeDepth := 99) [h]

end Sys2Proof.Machine
end

