-- ==== Sys2Proof/Laws/KeepsSide.lean ====
section
/-!
SUPPORT. Every operation of Machine/Side.lean keeps what Laws/Keeps.lean names.
-/
namespace Sys2Proof.Machine

@[simp] theorem sideband_keeps {z : Bool} {s₀ : State} {s : State} {f : State → State} (h_f : ∀ t, Keeps z t (f t)) (h : Keeps z s₀ s) :
    Goes z s₀ (sideband s f) := by
  have k_f : ∀ {t u}, Keeps z t u → Keeps z t (f u) := fun k => k.trans (h_f _)
  simp (maxDischargeDepth := 99) [sideband, h, k_f]

@[simp] theorem reply_keeps {z : Bool} {s₀ : State} {s : State} {a : Answer} (h : Keeps z s₀ s) :
    Keeps z s₀ (reply s a) := by simp (maxDischargeDepth := 99) [reply, h]

@[simp] theorem execGetStatus_keeps {z : Bool} {s₀ : State} {s : State} (h : Keeps z s₀ s) :
    Goes z s₀ (execGetStatus s) := by simp (maxDischargeDepth := 99) [execGetStatus, h]

@[simp] theorem execReadReg_keeps {z : Bool} {s₀ : State} {off : Nat} {s : State} (h : Keeps z s₀ s) :
    Goes z s₀ (execReadReg off s) := by simp (maxDischargeDepth := 99) [execReadReg, h]

@[simp] theorem execReadLog_keeps {z : Bool} {s₀ : State} {k : Nat} {s : State} (h : Keeps z s₀ s) :
    Goes z s₀ (execReadLog k s) := by simp (maxDischargeDepth := 99) [execReadLog, h]

@[simp] theorem execReadScore_keeps {z : Bool} {s₀ : State} {k : Nat} {s : State} (h : Keeps z s₀ s) :
    Goes z s₀ (execReadScore k s) := by simp (maxDischargeDepth := 99) [execReadScore, h]

@[simp] theorem execSetPower_keeps {s₀ : State} {v : BitVec 2} {s : State} (h : Keeps true s₀ s) :
    Goes true s₀ (execSetPower v s) := by simp (maxDischargeDepth := 99) [execSetPower, h]

@[simp] theorem execFlashErase_keeps {z : Bool} {s₀ : State} {sector : Nat} {s : State} (h : Keeps z s₀ s) :
    Goes z s₀ (execFlashErase sector s) := by
  unfold execFlashErase
  refine sideband_keeps (fun t => ?_) h
  split
  · exact reply_keeps (.refl t)
  · exact reply_keeps (store_keeps (.refl t))

@[simp] theorem execFlashWrite_keeps {z : Bool} {s₀ : State} {addr : Nat} {data : Bytes} {s : State} (h : Keeps z s₀ s) :
    Goes z s₀ (execFlashWrite addr data s) := by simp (maxDischargeDepth := 99) [execFlashWrite, h]

@[simp] theorem execSetEndpointId_keeps {z : Bool} {s₀ : State} {eid : Byte} {s : State} (h : Keeps z s₀ s) :
    Goes z s₀ (execSetEndpointId eid s) := by simp (maxDischargeDepth := 99) [execSetEndpointId, h]

@[simp] theorem execGetEndpointId_keeps {z : Bool} {s₀ : State} {s : State} (h : Keeps z s₀ s) :
    Goes z s₀ (execGetEndpointId s) := by simp (maxDischargeDepth := 99) [execGetEndpointId, h]

@[simp] theorem execGetMctpVersionSupport_keeps {z : Bool} {s₀ : State} {msgType : Byte} {s : State} (h : Keeps z s₀ s) :
    Goes z s₀ (execGetMctpVersionSupport msgType s) := by simp (maxDischargeDepth := 99) [execGetMctpVersionSupport, h]

@[simp] theorem execGetMessageTypeSupport_keeps {z : Bool} {s₀ : State} {s : State} (h : Keeps z s₀ s) :
    Goes z s₀ (execGetMessageTypeSupport s) := by simp (maxDischargeDepth := 99) [execGetMessageTypeSupport, h]

@[simp] theorem execGetVendorDefinedMessageSupport_keeps {z : Bool} {s₀ : State} {s : State} (h : Keeps z s₀ s) :
    Goes z s₀ (execGetVendorDefinedMessageSupport s) := by simp (maxDischargeDepth := 99) [execGetVendorDefinedMessageSupport, h]

@[simp] theorem tapLoad_keeps {z : Bool} {s₀ : State} {s : State} {n : Nat} {f : State → State} (h_f : ∀ t, Keeps z t (f t)) (h : Keeps z s₀ s) :
    Goes z s₀ (tapLoad s n f) := by
  have k_f : ∀ {t u}, Keeps z t u → Keeps z t (f u) := fun k => k.trans (h_f _)
  simp (maxDischargeDepth := 99) [tapLoad, h, k_f]

@[simp] theorem execBypass_keeps {z : Bool} {s₀ : State} {s : State} (h : Keeps z s₀ s) :
    Goes z s₀ (execBypass s) := by simp (maxDischargeDepth := 99) [execBypass, h]

@[simp] theorem execIdcode_keeps {z : Bool} {s₀ : State} {s : State} (h : Keeps z s₀ s) :
    Goes z s₀ (execIdcode s) := by simp (maxDischargeDepth := 99) [execIdcode, h]

@[simp] theorem execSamplePreload_keeps {z : Bool} {s₀ : State} {pins : Bytes} {s : State} (h : Keeps z s₀ s) :
    Goes z s₀ (execSamplePreload pins s) := by simp (maxDischargeDepth := 99) [execSamplePreload, h]

@[simp] theorem execExtest_keeps {z : Bool} {s₀ : State} {s : State} (h : Keeps z s₀ s) :
    Goes z s₀ (execExtest s) := by simp (maxDischargeDepth := 99) [execExtest, h]

@[simp] theorem execDebug_keeps {z : Bool} {s₀ : State} {s : State} (h : Keeps z s₀ s) :
    Goes z s₀ (execDebug s) := by simp (maxDischargeDepth := 99) [execDebug, h]

end Sys2Proof.Machine
end

