-- ==== Sys2Proof/Laws/KeepsBus.lean ====
section
/-!
SUPPORT. Every operation of Machine/Bus.lean keeps what Laws/Keeps.lean names.
-/
namespace Sys2Proof.Machine

@[simp] theorem keyinWrite_keeps {z : Bool} {s₀ : State} {s : State} {l : Nat} {v : Byte} (h : Keeps z s₀ s) :
    Keeps z s₀ (keyinWrite s l v) := by simp (maxDischargeDepth := 99) [keyinWrite, h]

@[simp] theorem pkrGo_keeps {z : Bool} {s₀ : State} {s : State} {l : Nat} {v : Byte} (h : Keeps z s₀ s) :
    Keeps z s₀ (pkrGo s l v) := by simp (maxDischargeDepth := 99) [pkrGo, h]

@[simp] theorem laneRegWrite_keeps {z : Bool} {s₀ : State} {s : State} {l : Nat} {lv : Nat} {o : Nat} {v : Byte} (h : Keeps z s₀ s) :
    Keeps z s₀ (laneRegWrite s l lv o v) := by simp (maxDischargeDepth := 99) [laneRegWrite, h]

@[simp] theorem houseRegWrite_keeps {z : Bool} {s₀ : State} {s : State} {o : Nat} {v : Byte} (h : Keeps z s₀ s) :
    Keeps z s₀ (houseRegWrite s o v) := by simp (maxDischargeDepth := 99) [houseRegWrite, h]

@[simp] theorem placeRead_keeps {z : Bool} {s₀ : State} {s : State} {c : CoreId} {p : Place} {a : Nat} {w : Nat} (h : Keeps z s₀ s) :
    Keeps z s₀ (placeRead s c p a w).1 := by
  unfold placeRead
  (repeat' split) <;> simp (maxDischargeDepth := 99) [h]

@[simp] theorem placeWrite_keeps {s₀ : State} {s : State} {c : CoreId} {lv : Nat} {p : Place} {a : Nat} {b : Bytes} (h : Keeps true s₀ s) :
    Keeps true s₀ (placeWrite s c lv p a b).1 := by
  unfold placeWrite
  dsimp only
  (repeat' split) <;> simp (maxDischargeDepth := 99) [h]

@[simp] theorem drainOne_keeps {s₀ : State} {s : State} {c : CoreId} (h : Keeps true s₀ s) :
    Keeps true s₀ (drainOne s c) := by
  unfold drainOne
  dsimp only
  split
  · exact h
  · split
    · simp [h]
    · split <;> rename_i e <;> exact setCore_keeps (.of_fst (placeWrite_keeps h) e)

@[simp] theorem drainAll_keeps {s₀ : State} {s : State} {c : CoreId} (h : Keeps true s₀ s) :
    Keeps true s₀ (drainAll s c).1 := by simp (maxDischargeDepth := 99) [drainAll, h]

@[simp] theorem bufferPush_keeps {s₀ : State} {s : State} {c : CoreId} {lv : Nat} {a : Nat} {b : Bytes} {after : Nat} (h : Keeps true s₀ s) :
    Keeps true s₀ (bufferPush s c lv a b after).1 := by simp (maxDischargeDepth := 99) [bufferPush, h]

@[simp] theorem coreRead_keeps {s₀ : State} {s : State} {c : CoreId} {lv : Nat} {a : Nat} {w : Nat} (h : Keeps true s₀ s) :
    Keeps true s₀ (coreRead s c lv a w).1 := by
  unfold coreRead
  dsimp only
  split
  · exact h
  · split
    · split
      · simp [h]
      · split <;> rename_i e <;> exact .of_fst (placeRead_keeps (drainAll_keeps h)) e
    · split <;> rename_i e <;> exact .of_fst (placeRead_keeps h) e

@[simp] theorem coreWrite_keeps {s₀ : State} {s : State} {c : CoreId} {lv : Nat} {a : Nat} {b : Bytes} (h : Keeps true s₀ s) :
    Keeps true s₀ (coreWrite s c lv a b).1 := by
  unfold coreWrite
  dsimp only
  split
  · exact h
  · split
    · exact bufferPush_keeps h
    · split <;> rename_i e <;> exact .of_fst (placeWrite_keeps h) e

end Sys2Proof.Machine
end

