-- ==== Sys2Proof/Laws/KeepsG8.lean ====
section
/-!
SUPPORT. Every operation of Machine/G8.lean keeps what Laws/Keeps.lean names.
-/
namespace Sys2Proof.Machine

@[simp] theorem framePut_keeps {s₀ : State} {c : CoreId} {t sp : Nat} {b : Bytes} {x : State × Nat} {j : Nat}
    (h : Keeps true s₀ x.1) : Keeps true s₀ (framePut c t sp b x j).1 := by
  unfold framePut
  dsimp only
  split
  · exact bufferPush_keeps h
  · exact placeWrite_keeps h

theorem pushFrame_keeps {s₀ s : State} {c : CoreId} {k : Core} {t top : Nat} {b : Bytes}
    (h : Keeps true s₀ s) {p : State × Nat × Nat} (e : pushFrame s c k t top b = some p) : Keeps true s₀ p.1 := by
  unfold pushFrame at e
  dsimp only at e
  split at e
  · cases e
  · split at e
    · cases e
      exact Keeps.foldlOn (fun q : State × Nat => q.1) h fun q j => framePut_keeps (.refl _)
    · cases e

@[simp] theorem pushTried_keeps {z : Bool} {s₀ : State} {s : State} {c : CoreId} {k : Core} {t : Nat} {top : Nat} (h : Keeps z s₀ s) :
    Keeps z s₀ (pushTried s c k t top) := by simp (maxDischargeDepth := 99) [pushTried, h]

@[simp] theorem holdCore_keeps {z : Bool} {s₀ : State} {s : State} {c : CoreId} (h : Keeps z s₀ s) :
    Keeps z s₀ (holdCore s c) := by simp (maxDischargeDepth := 99) [holdCore, h]

@[simp] theorem collapse_keeps {z : Bool} {s₀ : State} {s : State} {c : CoreId} (h : Keeps z s₀ s) :
    Keeps z s₀ (collapse s c) := by
  unfold collapse
  (repeat' split) <;> simp (maxDischargeDepth := 99) [h]

@[simp] theorem takeCause_keeps {s₀ : State} {s : State} {c : CoreId} {cause : Nat} {info : Nat} {pc : BitVec 16} (h : Keeps true s₀ s) :
    Keeps true s₀ (takeCause s c cause info pc) := by
  unfold takeCause
  dsimp only
  split
  · exact holdCore_keeps h
  · split
    · exact collapse_keeps (touchWords_keeps h)
    · split <;> rename_i e
      · exact collapse_keeps (touchWords_keeps (pushTried_keeps h))
      · exact touchWords_keeps (setCore_keeps (pushFrame_keeps h e))

@[simp] theorem lockstep_keeps {z : Bool} {s₀ : State} {s : State} (h : Keeps z s₀ s) :
    Keeps z s₀ (lockstep s) := by simp (maxDischargeDepth := 99) [lockstep, h]

@[simp] theorem act_keeps {z : Bool} {s₀ : State} {s : State} {c : CoreId} {f : State → State} (h_f : ∀ t, Keeps z t (f t)) (h : Keeps z s₀ s) :
    Keeps z s₀ (act s c f) := by
  have k_f : ∀ {t u}, Keeps z t u → Keeps z t (f u) := fun k => k.trans (h_f _)
  unfold act
  (repeat' split) <;> simp (maxDischargeDepth := 99) [h, k_f]

@[simp] theorem stopped_keeps {s₀ : State} {s : State} {c : CoreId} {x : Stop} (h : Keeps true s₀ s) :
    Keeps true s₀ (stopped s c x) := by
  unfold stopped
  dsimp only
  (repeat' split) <;> simp (maxDischargeDepth := 99) [h]

/-- What a body accesses keeps what every operation keeps. -/
def BodyKeeps (b : Body) : Prop := ∀ c i k s, Keeps true s (b c i k s).1

@[simp] theorem plain_keeps {s₀ s : State} {b : Body} {c : CoreId} {i : G8Word} (hb : BodyKeeps b)
    (h : Keeps true s₀ s) : Keeps true s₀ (plain b c i s) := by
  unfold plain
  dsimp only
  split <;> rename_i e
  · exact stopped_keeps (h.trans (.of_fst (hb _ _ _ _) e))
  · exact setCore_keeps (h.trans (.of_fst (hb _ _ _ _) e))

@[simp] theorem fetch_keeps {z : Bool} {s₀ : State} {s : State} {c : CoreId} (h : Keeps z s₀ s) :
    Keeps z s₀ (fetch s c).1 := by
  unfold fetch
  dsimp only
  split
  · exact h
  · split <;> rename_i e <;> exact .of_fst (placeRead_keeps h) e

@[simp] theorem fetchFault_keeps {s₀ : State} {s : State} {c : CoreId} {x : Stop} (h : Keeps true s₀ s) :
    Keeps true s₀ (fetchFault s c x) := by
  unfold fetchFault
  (repeat' split) <;> simp (maxDischargeDepth := 99) [h]

@[simp] theorem g8Row_keeps {s₀ : State} {p : Nat → Bool} {f : CoreId → G8Word → State → State} {c : CoreId} {s : State} (h_f : ∀ c g t, Keeps true t (f c g t)) (h : Keeps true s₀ s) :
    Keeps true s₀ (g8Row p f c s) := by
  unfold g8Row
  split
  · exact h
  · refine act_keeps (fun t => ?_) h
    dsimp only
    split <;> rename_i e
    · exact fetchFault_keeps (.of_fst (fetch_keeps (.refl t)) e)
    · have k : Keeps true t _ := .of_fst (fetch_keeps (.refl t)) e
      split
      · exact .refl t
      · split
        · exact k.trans (h_f _ _ _)
        · exact stopped_keeps k

@[simp] theorem finalTaken_keeps {z : Bool} {s₀ : State} {s : State} {c : CoreId} {cause : Nat} (h : Keeps z s₀ s) :
    Keeps z s₀ (finalTaken s c cause) := by
  unfold finalTaken
  (repeat' split) <;> simp (maxDischargeDepth := 99) [h]

@[simp] theorem execInterruptEntry_keeps {s₀ : State} {c : CoreId} {s : State} (h : Keeps true s₀ s) :
    Goes true s₀ (execInterruptEntry c s) := by
  unfold execInterruptEntry
  (repeat' split) <;> simp (maxDischargeDepth := 99) [h]

@[simp] theorem execStoreDrain_keeps {s₀ : State} {c : CoreId} {s : State} (h : Keeps true s₀ s) :
    Goes true s₀ (execStoreDrain c s) := by
  unfold execStoreDrain
  (repeat' split) <;> simp (maxDischargeDepth := 99) [h]

@[simp] theorem execLateStoreInfo_keeps {z : Bool} {s₀ : State} {c : CoreId} {s : State} (h : Keeps z s₀ s) :
    Goes z s₀ (execLateStoreInfo c s) := by simp (maxDischargeDepth := 99) [execLateStoreInfo, h]

@[simp] theorem execIrqPend_keeps {z : Bool} {s₀ : State} {c : CoreId} {v : Byte} {sameCycle : Byte} {s : State} (h : Keeps z s₀ s) :
    Goes z s₀ (execIrqPend c v sameCycle s) := by simp (maxDischargeDepth := 99) [execIrqPend, h]

end Sys2Proof.Machine
end

