-- ==== Sys2Proof/Laws/KeepsInsns.lean ====
section
/-!
SUPPORT. Every operation of Machine/Insns.lean keeps what Laws/Keeps.lean names.
-/
namespace Sys2Proof.Machine

@[simp] theorem operand_keeps {s₀ s : State} {w : Nat} {c : CoreId} {i : G8Word} {k : Core}
    (h : Keeps true s₀ s) : Keeps true s₀ (operand w c i k s).1 := by
  unfold operand
  split
  · exact h
  · split
    · exact h
    · exact coreRead_keeps h

theorem reading_body (w : Nat) (dest : G8Word → Nat) (g : G8Word → Nat → Core → Core) :
    BodyKeeps (reading w dest g) := by
  intro c i k s
  unfold reading
  split <;> rename_i e <;> exact .of_fst (operand_keeps (.refl s)) e

theorem local_body (g : G8Word → Core → Core) : BodyKeeps (local_ g) := fun _ _ _ s => .refl s

@[simp] theorem opLd_body : BodyKeeps opLd := by
  intro c i k s
  unfold opLd
  dsimp only
  split <;> rename_i e <;> exact .of_fst (coreRead_keeps (.refl s)) e

@[simp] theorem opSt_body : BodyKeeps opSt := by
  intro c i k s
  unfold opSt
  dsimp only
  split
  · exact .refl s
  · split <;> rename_i e <;> exact .of_fst (coreWrite_keeps (.refl s)) e

@[simp] theorem opPush_body : BodyKeeps opPush := by
  intro c i k s
  unfold opPush
  dsimp only
  split <;> rename_i e <;> exact .of_fst (coreWrite_keeps (.refl s)) e

@[simp] theorem opPop_body : BodyKeeps opPop := by
  intro c i k s
  unfold opPop
  dsimp only
  split <;> rename_i e <;> exact .of_fst (coreRead_keeps (.refl s)) e

@[simp] theorem opCall_body : BodyKeeps opCall := by
  intro c i k s
  unfold opCall
  dsimp only
  split <;> rename_i e <;> exact .of_fst (coreWrite_keeps (.refl s)) e

@[simp] theorem opRet_body : BodyKeeps opRet := by
  intro c i k s
  unfold opRet
  split <;> rename_i e <;> exact .of_fst (coreRead_keeps (.refl s)) e

@[simp] theorem opFence_body : BodyKeeps opFence := by
  intro c i k s
  unfold opFence
  dsimp only
  split <;> exact drainAll_keeps (.refl s)

@[simp] theorem opPlay_body : BodyKeeps opPlay := by
  intro c i k s
  unfold opPlay
  dsimp only
  (repeat' split) <;> (dsimp only; exact modLane_keeps (.refl s))

@[simp] theorem opLoop_body : BodyKeeps opLoop := by
  intro c i k s
  unfold opLoop
  dsimp only
  split <;> exact .refl s

@[simp] theorem opAdd_body : BodyKeeps opAdd := reading_body _ _ _
@[simp] theorem opAdc_body : BodyKeeps opAdc := reading_body _ _ _
@[simp] theorem opSub_body : BodyKeeps opSub := reading_body _ _ _
@[simp] theorem opSbc_body : BodyKeeps opSbc := reading_body _ _ _
@[simp] theorem opCmp_body : BodyKeeps opCmp := reading_body _ _ _
@[simp] theorem opAnd_body : BodyKeeps opAnd := reading_body _ _ _
@[simp] theorem opOr_body : BodyKeeps opOr := reading_body _ _ _
@[simp] theorem opXor_body : BodyKeeps opXor := reading_body _ _ _
@[simp] theorem opBit_body : BodyKeeps opBit := reading_body _ _ _
@[simp] theorem opCpr_body : BodyKeeps opCpr := reading_body _ _ _
@[simp] theorem opMul_body : BodyKeeps opMul := reading_body _ _ _
@[simp] theorem opAdw_body : BodyKeeps opAdw := reading_body _ _ _
@[simp] theorem opSbw_body : BodyKeeps opSbw := reading_body _ _ _
@[simp] theorem opCselt_body : BodyKeeps opCselt := reading_body _ _ _
@[simp] theorem opCself_body : BodyKeeps opCself := reading_body _ _ _
@[simp] theorem opLea_body : BodyKeeps opLea := local_body _
@[simp] theorem opMov_body : BodyKeeps opMov := local_body _
@[simp] theorem opNop_body : BodyKeeps opNop := local_body _
@[simp] theorem opShl_body : BodyKeeps opShl := local_body _
@[simp] theorem opShr_body : BodyKeeps opShr := local_body _
@[simp] theorem opSar_body : BodyKeeps opSar := local_body _
@[simp] theorem opRol_body : BodyKeeps opRol := local_body _
@[simp] theorem opRor_body : BodyKeeps opRor := local_body _
@[simp] theorem opInc_body : BodyKeeps opInc := local_body _
@[simp] theorem opDec_body : BodyKeeps opDec := local_body _
@[simp] theorem opMaskt_body : BodyKeeps opMaskt := local_body _
@[simp] theorem opMaskf_body : BodyKeeps opMaskf := local_body _
@[simp] theorem opBt_body : BodyKeeps opBt := fun _ _ _ s => .refl s
@[simp] theorem opBf_body : BodyKeeps opBf := fun _ _ _ s => .refl s
@[simp] theorem opJmp_body : BodyKeeps opJmp := fun _ _ _ s => .refl s
@[simp] theorem opWait_body : BodyKeeps opWait := fun _ _ _ s => .refl s

@[simp] theorem gateCount_keeps {z : Bool} {s₀ : State} {s : State} {c : CoreId} {k : Core} {check : Nat} (h : Keeps z s₀ s) :
    Keeps z s₀ (gateCount s c k check) := by simp (maxDischargeDepth := 99) [gateCount, h]

@[simp] theorem runGate_keeps {s₀ : State} {c : CoreId} {i : G8Word} {s : State} (h : Keeps true s₀ s) :
    Keeps true s₀ (runGate c i s) := by
  unfold runGate
  dsimp only
  split
  · exact stopped_keeps (touchWords_keeps h)
  · split
    · exact stopped_keeps (touchWords_keeps h)
    · split
      · split <;> rename_i e
        · split
          · exact holdCore_keeps h
          · exact collapse_keeps (touchWords_keeps (pushTried_keeps h))
        · exact touchWords_keeps (setCore_keeps (pushFrame_keeps h e))
      · exact stopped_keeps (touchWords_keeps (gateCount_keeps h))

@[simp] theorem runMcall_keeps {z : Bool} {s₀ : State} {c : CoreId} {a1 : G8Word} {s : State} (h : Keeps z s₀ s) :
    Keeps z s₀ (runMcall c a1 s) := by simp (maxDischargeDepth := 99) [runMcall, h]

@[simp] theorem readFrame_keeps {s₀ : State} {s : State} {c : CoreId} {lv : Nat} {sp : BitVec 16} (h : Keeps true s₀ s) :
    Keeps true s₀ (readFrame s c lv sp).1 := by
  unfold readFrame
  refine Keeps.foldlOn (fun q : State × Except Stop (Bytes × Nat) => q.1) h fun q j => ?_
  rcases q with ⟨t, e | ⟨b, n⟩⟩
  · exact .refl t
  · dsimp only
    split <;> rename_i e <;> exact .of_fst (coreRead_keeps (.refl t)) e

@[simp] theorem runRetx_keeps {s₀ : State} {c : CoreId} {a1 : G8Word} {s : State} (h : Keeps true s₀ s) :
    Keeps true s₀ (runRetx c a1 s) := by
  unfold runRetx
  dsimp only
  split
  · simp [h]
  · split <;> rename_i e
    · exact stopped_keeps (.of_fst (readFrame_keeps h) e)
    · have k := Keeps.of_fst (readFrame_keeps h) e
      split <;> simp [k]

@[simp] theorem insn_keeps {s₀ : State} {opc : Nat} {f : CoreId → G8Word → State → State} {c : CoreId} {s : State} (h_f : ∀ c g t, Keeps true t (f c g t)) (h : Keeps true s₀ s) :
    Goes true s₀ (insn opc f c s) := by simp (maxDischargeDepth := 99) [insn, h, h_f]

@[simp] theorem execLd_keeps {s₀ : State} {c : CoreId} {s : State} (h : Keeps true s₀ s) :
    Goes true s₀ (execLd c s) := by simp (maxDischargeDepth := 99) [execLd, h]

@[simp] theorem execSt_keeps {s₀ : State} {c : CoreId} {s : State} (h : Keeps true s₀ s) :
    Goes true s₀ (execSt c s) := by simp (maxDischargeDepth := 99) [execSt, h]

@[simp] theorem execLea_keeps {s₀ : State} {c : CoreId} {s : State} (h : Keeps true s₀ s) :
    Goes true s₀ (execLea c s) := by simp (maxDischargeDepth := 99) [execLea, h]

@[simp] theorem execMov_keeps {s₀ : State} {c : CoreId} {s : State} (h : Keeps true s₀ s) :
    Goes true s₀ (execMov c s) := by simp (maxDischargeDepth := 99) [execMov, h]

@[simp] theorem execPush_keeps {s₀ : State} {c : CoreId} {s : State} (h : Keeps true s₀ s) :
    Goes true s₀ (execPush c s) := by simp (maxDischargeDepth := 99) [execPush, h]

@[simp] theorem execPop_keeps {s₀ : State} {c : CoreId} {s : State} (h : Keeps true s₀ s) :
    Goes true s₀ (execPop c s) := by simp (maxDischargeDepth := 99) [execPop, h]

@[simp] theorem execG8Nop_keeps {s₀ : State} {c : CoreId} {s : State} (h : Keeps true s₀ s) :
    Goes true s₀ (execG8Nop c s) := by simp (maxDischargeDepth := 99) [execG8Nop, h]

@[simp] theorem execAdd_keeps {s₀ : State} {c : CoreId} {s : State} (h : Keeps true s₀ s) :
    Goes true s₀ (execAdd c s) := by simp (maxDischargeDepth := 99) [execAdd, h]

@[simp] theorem execAdc_keeps {s₀ : State} {c : CoreId} {s : State} (h : Keeps true s₀ s) :
    Goes true s₀ (execAdc c s) := by simp (maxDischargeDepth := 99) [execAdc, h]

@[simp] theorem execSub_keeps {s₀ : State} {c : CoreId} {s : State} (h : Keeps true s₀ s) :
    Goes true s₀ (execSub c s) := by simp (maxDischargeDepth := 99) [execSub, h]

@[simp] theorem execSbc_keeps {s₀ : State} {c : CoreId} {s : State} (h : Keeps true s₀ s) :
    Goes true s₀ (execSbc c s) := by simp (maxDischargeDepth := 99) [execSbc, h]

@[simp] theorem execCmp_keeps {s₀ : State} {c : CoreId} {s : State} (h : Keeps true s₀ s) :
    Goes true s₀ (execCmp c s) := by simp (maxDischargeDepth := 99) [execCmp, h]

@[simp] theorem execAnd_keeps {s₀ : State} {c : CoreId} {s : State} (h : Keeps true s₀ s) :
    Goes true s₀ (execAnd c s) := by simp (maxDischargeDepth := 99) [execAnd, h]

@[simp] theorem execOr_keeps {s₀ : State} {c : CoreId} {s : State} (h : Keeps true s₀ s) :
    Goes true s₀ (execOr c s) := by simp (maxDischargeDepth := 99) [execOr, h]

@[simp] theorem execXor_keeps {s₀ : State} {c : CoreId} {s : State} (h : Keeps true s₀ s) :
    Goes true s₀ (execXor c s) := by simp (maxDischargeDepth := 99) [execXor, h]

@[simp] theorem execBit_keeps {s₀ : State} {c : CoreId} {s : State} (h : Keeps true s₀ s) :
    Goes true s₀ (execBit c s) := by simp (maxDischargeDepth := 99) [execBit, h]

@[simp] theorem execShl_keeps {s₀ : State} {c : CoreId} {s : State} (h : Keeps true s₀ s) :
    Goes true s₀ (execShl c s) := by simp (maxDischargeDepth := 99) [execShl, h]

@[simp] theorem execShr_keeps {s₀ : State} {c : CoreId} {s : State} (h : Keeps true s₀ s) :
    Goes true s₀ (execShr c s) := by simp (maxDischargeDepth := 99) [execShr, h]

@[simp] theorem execSar_keeps {s₀ : State} {c : CoreId} {s : State} (h : Keeps true s₀ s) :
    Goes true s₀ (execSar c s) := by simp (maxDischargeDepth := 99) [execSar, h]

@[simp] theorem execRol_keeps {s₀ : State} {c : CoreId} {s : State} (h : Keeps true s₀ s) :
    Goes true s₀ (execRol c s) := by simp (maxDischargeDepth := 99) [execRol, h]

@[simp] theorem execRor_keeps {s₀ : State} {c : CoreId} {s : State} (h : Keeps true s₀ s) :
    Goes true s₀ (execRor c s) := by simp (maxDischargeDepth := 99) [execRor, h]

@[simp] theorem execInc_keeps {s₀ : State} {c : CoreId} {s : State} (h : Keeps true s₀ s) :
    Goes true s₀ (execInc c s) := by simp (maxDischargeDepth := 99) [execInc, h]

@[simp] theorem execDec_keeps {s₀ : State} {c : CoreId} {s : State} (h : Keeps true s₀ s) :
    Goes true s₀ (execDec c s) := by simp (maxDischargeDepth := 99) [execDec, h]

@[simp] theorem execCpr_keeps {s₀ : State} {c : CoreId} {s : State} (h : Keeps true s₀ s) :
    Goes true s₀ (execCpr c s) := by simp (maxDischargeDepth := 99) [execCpr, h]

@[simp] theorem execMul_keeps {s₀ : State} {c : CoreId} {s : State} (h : Keeps true s₀ s) :
    Goes true s₀ (execMul c s) := by simp (maxDischargeDepth := 99) [execMul, h]

@[simp] theorem execAdw_keeps {s₀ : State} {c : CoreId} {s : State} (h : Keeps true s₀ s) :
    Goes true s₀ (execAdw c s) := by simp (maxDischargeDepth := 99) [execAdw, h]

@[simp] theorem execSbw_keeps {s₀ : State} {c : CoreId} {s : State} (h : Keeps true s₀ s) :
    Goes true s₀ (execSbw c s) := by simp (maxDischargeDepth := 99) [execSbw, h]

@[simp] theorem execCselt_keeps {s₀ : State} {c : CoreId} {s : State} (h : Keeps true s₀ s) :
    Goes true s₀ (execCselt c s) := by simp (maxDischargeDepth := 99) [execCselt, h]

@[simp] theorem execCself_keeps {s₀ : State} {c : CoreId} {s : State} (h : Keeps true s₀ s) :
    Goes true s₀ (execCself c s) := by simp (maxDischargeDepth := 99) [execCself, h]

@[simp] theorem execMaskt_keeps {s₀ : State} {c : CoreId} {s : State} (h : Keeps true s₀ s) :
    Goes true s₀ (execMaskt c s) := by simp (maxDischargeDepth := 99) [execMaskt, h]

@[simp] theorem execMaskf_keeps {s₀ : State} {c : CoreId} {s : State} (h : Keeps true s₀ s) :
    Goes true s₀ (execMaskf c s) := by simp (maxDischargeDepth := 99) [execMaskf, h]

@[simp] theorem execBt_keeps {s₀ : State} {c : CoreId} {s : State} (h : Keeps true s₀ s) :
    Goes true s₀ (execBt c s) := by simp (maxDischargeDepth := 99) [execBt, h]

@[simp] theorem execBf_keeps {s₀ : State} {c : CoreId} {s : State} (h : Keeps true s₀ s) :
    Goes true s₀ (execBf c s) := by simp (maxDischargeDepth := 99) [execBf, h]

@[simp] theorem execJmp_keeps {s₀ : State} {c : CoreId} {s : State} (h : Keeps true s₀ s) :
    Goes true s₀ (execJmp c s) := by simp (maxDischargeDepth := 99) [execJmp, h]

@[simp] theorem execCall_keeps {s₀ : State} {c : CoreId} {s : State} (h : Keeps true s₀ s) :
    Goes true s₀ (execCall c s) := by simp (maxDischargeDepth := 99) [execCall, h]

@[simp] theorem execRet_keeps {s₀ : State} {c : CoreId} {s : State} (h : Keeps true s₀ s) :
    Goes true s₀ (execRet c s) := by simp (maxDischargeDepth := 99) [execRet, h]

@[simp] theorem execLoop_keeps {s₀ : State} {c : CoreId} {s : State} (h : Keeps true s₀ s) :
    Goes true s₀ (execLoop c s) := by simp (maxDischargeDepth := 99) [execLoop, h]

@[simp] theorem execWait_keeps {s₀ : State} {c : CoreId} {s : State} (h : Keeps true s₀ s) :
    Goes true s₀ (execWait c s) := by simp (maxDischargeDepth := 99) [execWait, h]

@[simp] theorem execFence_keeps {s₀ : State} {c : CoreId} {s : State} (h : Keeps true s₀ s) :
    Goes true s₀ (execFence c s) := by simp (maxDischargeDepth := 99) [execFence, h]

@[simp] theorem execPlay_keeps {s₀ : State} {c : CoreId} {s : State} (h : Keeps true s₀ s) :
    Goes true s₀ (execPlay c s) := by simp (maxDischargeDepth := 99) [execPlay, h]

@[simp] theorem execGate_keeps {s₀ : State} {c : CoreId} {s : State} (h : Keeps true s₀ s) :
    Goes true s₀ (execGate c s) := by simp (maxDischargeDepth := 99) [execGate, h]

@[simp] theorem execMcall_keeps {s₀ : State} {c : CoreId} {s : State} (h : Keeps true s₀ s) :
    Goes true s₀ (execMcall c s) := by simp (maxDischargeDepth := 99) [execMcall, h]

@[simp] theorem execRetx_keeps {s₀ : State} {c : CoreId} {s : State} (h : Keeps true s₀ s) :
    Goes true s₀ (execRetx c s) := by simp (maxDischargeDepth := 99) [execRetx, h]

@[simp] theorem execReservedOpc_keeps {s₀ : State} {c : CoreId} {s : State} (h : Keeps true s₀ s) :
    Goes true s₀ (execReservedOpc c s) := by simp (maxDischargeDepth := 99) [execReservedOpc, h]

end Sys2Proof.Machine
end

