-- ==== Sys2Proof/Laws/KeepsTick.lean ====
section
/-!
SUPPORT. Every operation of Machine/Tick.lean keeps what Laws/Keeps.lean names.
-/
namespace Sys2Proof.Machine

@[simp] theorem haltEngine_keeps {z : Bool} {s₀ : State} {s : State} {i : Nat} {d : BitVec 16} {k : Nat} (h : Keeps z s₀ s) :
    Keeps z s₀ (haltEngine s i d k) := by simp (maxDischargeDepth := 99) [haltEngine, h]

@[simp] theorem haltFirst_keeps {z : Bool} {s₀ : State} {s : State} {i : Nat} (h : Keeps z s₀ s) :
    Keeps z s₀ (haltFirst s i) := by simp (maxDischargeDepth := 99) [haltFirst, h]

@[simp] theorem haltFlight_keeps {z : Bool} {s₀ : State} {i : Nat} {d : BitVec 16} {e : Round} {t : State} {g : Flight} (h : Keeps z s₀ t) :
    Keeps z s₀ (haltFlight i d e t g) := by simp (maxDischargeDepth := 99) [haltFlight, h]

@[simp] theorem haltRest_keeps {z : Bool} {s₀ : State} {s : State} {i : Nat} (h : Keeps z s₀ s) :
    Keeps z s₀ (haltRest s i) := by simp (maxDischargeDepth := 99) [haltRest, h]

@[simp] theorem haltTurn_keeps {z : Bool} {s₀ : State} {s : State} {i : Nat} (h : Keeps z s₀ s) :
    Keeps z s₀ (haltTurn s i) := by simp (maxDischargeDepth := 99) [haltTurn, h]

@[simp] theorem playBad_keeps {z : Bool} {s₀ : State} {s : State} {l : Nat} {b : Binding} (h : Keeps z s₀ s) :
    Keeps z s₀ (playBad s l b) := by
  unfold playBad
  dsimp only
  (repeat' split) <;> simp (maxDischargeDepth := 99) [h]

@[simp] theorem playStart_keeps {z : Bool} {s₀ : State} {s : State} {l : Nat} {b : Binding} (h : Keeps z s₀ s) :
    Keeps z s₀ (playStart s l b) := by
  unfold playStart
  (repeat' split) <;> simp (maxDischargeDepth := 99) [h]

@[simp] theorem standardRound_keeps {z : Bool} {s₀ : State} {s : State} {l : Nat} {b : Binding} (h : Keeps z s₀ s) :
    Keeps z s₀ (standardRound s l b) := by simp (maxDischargeDepth := 99) [standardRound, h]

@[simp] theorem playRound_keeps {z : Bool} {s₀ : State} {s : State} {l : Nat} (h : Keeps z s₀ s) :
    Keeps z s₀ (playRound s l) := by
  unfold playRound
  (repeat' split) <;> simp (maxDischargeDepth := 99) [h]

@[simp] theorem bindTurn_keeps {z : Bool} {s₀ : State} {s : State} {l : Nat} (h : Keeps z s₀ s) :
    Keeps z s₀ (bindTurn s l) := by simp (maxDischargeDepth := 99) [bindTurn, h]

@[simp] theorem laneStart_keeps {z : Bool} {s₀ : State} {s : State} {l : Nat} (h : Keeps z s₀ s) :
    Keeps z s₀ (laneStart s l) := by simp (maxDischargeDepth := 99) [laneStart, h]

@[simp] theorem holdResult_keeps {z : Bool} {s₀ : State} {s : State} {l : Nat} (h : Keeps z s₀ s) :
    Keeps z s₀ (holdResult s l) := by simp (maxDischargeDepth := 99) [holdResult, h]

@[simp] theorem engineTurn_keeps {z : Bool} {s₀ : State} {s : State} {k : Nat} (h : Keeps z s₀ s) :
    Keeps z s₀ (engineTurn s k) := by simp (maxDischargeDepth := 99) [engineTurn, h]

@[simp] theorem upset_keeps {z : Bool} {s₀ : State} {s : State} {u : Upset} (h : Keeps z s₀ s) :
    Keeps z s₀ (upset s u) := by simp (maxDischargeDepth := 99) [upset, h]

@[simp] theorem scrubTurn_keeps {z : Bool} {s₀ : State} {s : State} (h : Keeps z s₀ s) :
    Keeps z s₀ (scrubTurn s) := by simp (maxDischargeDepth := 99) [scrubTurn, h]

@[simp] theorem coresTurn_keeps {z : Bool} {s₀ : State} {s : State} {upset : Byte} (h : Keeps z s₀ s) :
    Keeps z s₀ (coresTurn s upset) := by simp (maxDischargeDepth := 99) [coresTurn, h]

@[simp] theorem quietTurn_keeps {z : Bool} {s₀ : State} {s : State} (h : Keeps z s₀ s) :
    Keeps z s₀ (quietTurn s) := by simp (maxDischargeDepth := 99) [quietTurn, h]

@[simp] theorem endRound_keeps {z : Bool} {s₀ : State} {s : State} {env : RoundEnv} (h : Keeps z s₀ s) :
    Keeps z s₀ (endRound s env) := by simp (maxDischargeDepth := 99) [endRound, h]

@[simp] theorem resetTurn_keeps {s₀ : State} {s : State} (h : Keeps true s₀ s) :
    Keeps true s₀ (resetTurn s) := by simp (maxDischargeDepth := 99) [resetTurn, h]

@[simp] theorem openRound_keeps {z : Bool} {s₀ : State} {s : State} (h : Keeps z s₀ s) :
    Keeps z s₀ (openRound s) := by simp (maxDischargeDepth := 99) [openRound, h]

@[simp] theorem seatsRound_keeps {z : Bool} {s₀ : State} {s : State} (h : Keeps z s₀ s) :
    Keeps z s₀ (seatsRound s) := by simp (maxDischargeDepth := 99) [seatsRound, h]

@[simp] theorem lanesRound_keeps {z : Bool} {s₀ : State} {s : State} {differ : Bool} (h : Keeps z s₀ s) :
    Keeps z s₀ (lanesRound s differ) := by simp (maxDischargeDepth := 99) [lanesRound, h]

@[simp] theorem storeRound_keeps {z : Bool} {s₀ : State} {s : State} {env : RoundEnv} (h : Keeps z s₀ s) :
    Keeps z s₀ (storeRound s env) := by
  unfold storeRound
  (repeat' split) <;> simp (maxDischargeDepth := 99) [h]

@[simp] theorem sheetRound_keeps {z : Bool} {s₀ : State} {s : State} (h : Keeps z s₀ s) :
    Keeps z s₀ (sheetRound s) := by simp (maxDischargeDepth := 99) [sheetRound, h]

theorem beginRound_keeps {z : Bool} (s : State) (env : RoundEnv) :
    Keeps z { s with round := s.round + 1 } (beginRound s env) := by
  unfold beginRound
  simp (maxDischargeDepth := 99)

/-- A round boundary: ROUND_COUNT holds, goes to 0 with a main reset, or counts. -/
theorem roundTick_keeps (s : State) (env : RoundEnv) :
    Keeps true s (roundTick s env) ∨ Keeps false { s with round := s.round + 1 } (roundTick s env) := by
  unfold roundTick
  dsimp only
  split
  · have k : Keeps false s (quietTurn (endRound s env)) := quietTurn_keeps (endRound_keeps (.refl s))
    split
    · exact .inl (resetTurn_keeps k.weaken)
    · split
      · exact .inl (standbyEnter_keeps k.weaken)
      · exact .inr (.trans k.tick (beginRound_keeps _ env))
  · split
    · exact .inl (resetTurn_keeps (quietTurn_keeps (tripTurn_keeps (.refl s))))
    · exact .inl (quietTurn_keeps (tripTurn_keeps (.refl s)))

@[simp] theorem execApplet_keeps {z : Bool} {s₀ : State} {lane : Fin 128} {s : State} (h : Keeps z s₀ s) :
    Goes z s₀ (execApplet lane s) := by
  unfold execApplet
  dsimp only
  (repeat' split) <;> simp (maxDischargeDepth := 99) [h]

end Sys2Proof.Machine
end

