-- ==== Sys2Proof/Laws/Exec.lean ====
section
/-!
SUPPORT. What every command keeps, and that every command goes on.
-/
namespace Sys2Proof.Machine

set_option maxHeartbeats 1000000 in
/-- Every command but a round boundary goes on to a next state that keeps what Laws/Keeps.lean names. -/
theorem exec_goes (i : Instr) (s : State) (h : ∀ env, i ≠ .roundTick env) : Goes true s (exec i s) := by
  cases i <;> first | exact absurd rfl (h _) | simp [exec]

/-- Every command goes on: ROUND_COUNT counts at a round boundary alone. -/
theorem exec_next (i : Instr) (s : State) : ∃ t, exec i s = .next t ∧
    (Keeps true s t ∨ ((∃ env, i = .roundTick env) ∧ Keeps false { s with round := s.round + 1 } t)) := by
  by_cases h : ∃ env, i = .roundTick env
  · obtain ⟨env, rfl⟩ := h
    refine ⟨_, rfl, ?_⟩
    rcases roundTick_keeps s env with k | k
    · exact .inl k
    · exact .inr ⟨⟨env, rfl⟩, k⟩
  · obtain ⟨t, e, k⟩ := exec_goes i s fun env e => h ⟨env, e⟩
    exact ⟨t, e, .inl k⟩

end Sys2Proof.Machine
end

