-- ==== Sys2Proof/Laws/State.lean ====
section
/-!
SUPPORT. What each update of one part of the state leaves in every other part, and what a part reads after it was
written.
-/
namespace Sys2Proof.Machine

variable (s : State)

/-! setSeat -/

@[simp] theorem setSeat_pending (i : Nat) (x : Seat) : (setSeat s i x).pending = s.pending := rfl
@[simp] theorem setSeat_round (i : Nat) (x : Seat) : (setSeat s i x).round = s.round := rfl
@[simp] theorem setSeat_mem (i : Nat) (x : Seat) : (setSeat s i x).mem = s.mem := rfl
@[simp] theorem setSeat_power (i : Nat) (x : Seat) : (setSeat s i x).power = s.power := rfl
@[simp] theorem setSeat_fuses (i : Nat) (x : Seat) : (setSeat s i x).fuses = s.fuses := rfl
@[simp] theorem setSeat_aon (i : Nat) (x : Seat) : (setSeat s i x).aon = s.aon := rfl
@[simp] theorem setSeat_link (i : Nat) (x : Seat) : (setSeat s i x).link = s.link := rfl
@[simp] theorem setSeat_irq (i : Nat) (x : Seat) : (setSeat s i x).irq = s.irq := rfl
@[simp] theorem setSeat_kitty (i : Nat) (x : Seat) : (setSeat s i x).kitty = s.kitty := rfl
@[simp] theorem setSeat_dealer (i : Nat) (x : Seat) : (setSeat s i x).dealer = s.dealer := rfl
@[simp] theorem setSeat_lanes (i : Nat) (x : Seat) : (setSeat s i x).lanes = s.lanes := rfl
@[simp] theorem setSeat_records (i : Nat) (x : Seat) : (setSeat s i x).records = s.records := rfl
@[simp] theorem setSeat_engines (i : Nat) (x : Seat) : (setSeat s i x).engines = s.engines := rfl
@[simp] theorem setSeat_keys (i : Nat) (x : Seat) : (setSeat s i x).keys = s.keys := rfl
@[simp] theorem setSeat_rng (i : Nat) (x : Seat) : (setSeat s i x).rng = s.rng := rfl
@[simp] theorem setSeat_prot (i : Nat) (x : Seat) : (setSeat s i x).prot = s.prot := rfl
@[simp] theorem setSeat_house (i : Nat) (x : Seat) : (setSeat s i x).house = s.house := rfl
@[simp] theorem setSeat_slots (i : Nat) (x : Seat) : (setSeat s i x).slots = s.slots := rfl
@[simp] theorem setSeat_quorum (i : Nat) (x : Seat) : (setSeat s i x).quorum = s.quorum := rfl
@[simp] theorem setSeat_cnt (i : Nat) (x : Seat) : (setSeat s i x).cnt = s.cnt := rfl
@[simp] theorem setSeat_answer (i : Nat) (x : Seat) : (setSeat s i x).answer = s.answer := rfl
@[simp] theorem getSeat_setSeat (i : Nat) (x : Seat) : getSeat (setSeat s i x) i = x := sget_sput_self ..
theorem getSeat_setSeat_ne {i j : Nat} (x : Seat) (h : j ≠ i) : getSeat (setSeat s i x) j = getSeat s j := sget_sput_ne _ _ _ h
@[simp] theorem getLane_setSeat (i j : Nat) (x : Seat) : getLane (setSeat s i x) j = getLane s j := rfl
@[simp] theorem getEngine_setSeat (i j : Nat) (x : Seat) : getEngine (setSeat s i x) j = getEngine s j := rfl
@[simp] theorem getSlot_setSeat (i j : Nat) (x : Seat) : getSlot (setSeat s i x) j = getSlot s j := rfl
@[simp] theorem getHand_setSeat (i j : Nat) (x : Seat) : getHand (setSeat s i x) j = getHand s j := rfl
@[simp] theorem getSource_setSeat (i j : Nat) (x : Seat) : getSource (setSeat s i x) j = getSource s j := rfl
@[simp] theorem getRec_setSeat (i j : Nat) (x : Seat) : getRec (setSeat s i x) j = getRec s j := rfl
@[simp] theorem getFlag_setSeat (i j : Nat) (x : Seat) : getFlag (setSeat s i x) j = getFlag s j := rfl
@[simp] theorem getIrq_setSeat (i j : Nat) (x : Seat) : getIrq (setSeat s i x) j = getIrq s j := rfl

/-! setLane -/

@[simp] theorem setLane_pending (i : Nat) (x : Lane) : (setLane s i x).pending = s.pending := rfl
@[simp] theorem setLane_round (i : Nat) (x : Lane) : (setLane s i x).round = s.round := rfl
@[simp] theorem setLane_mem (i : Nat) (x : Lane) : (setLane s i x).mem = s.mem := rfl
@[simp] theorem setLane_power (i : Nat) (x : Lane) : (setLane s i x).power = s.power := rfl
@[simp] theorem setLane_fuses (i : Nat) (x : Lane) : (setLane s i x).fuses = s.fuses := rfl
@[simp] theorem setLane_aon (i : Nat) (x : Lane) : (setLane s i x).aon = s.aon := rfl
@[simp] theorem setLane_link (i : Nat) (x : Lane) : (setLane s i x).link = s.link := rfl
@[simp] theorem setLane_irq (i : Nat) (x : Lane) : (setLane s i x).irq = s.irq := rfl
@[simp] theorem setLane_seats (i : Nat) (x : Lane) : (setLane s i x).seats = s.seats := rfl
@[simp] theorem setLane_kitty (i : Nat) (x : Lane) : (setLane s i x).kitty = s.kitty := rfl
@[simp] theorem setLane_dealer (i : Nat) (x : Lane) : (setLane s i x).dealer = s.dealer := rfl
@[simp] theorem setLane_records (i : Nat) (x : Lane) : (setLane s i x).records = s.records := rfl
@[simp] theorem setLane_engines (i : Nat) (x : Lane) : (setLane s i x).engines = s.engines := rfl
@[simp] theorem setLane_keys (i : Nat) (x : Lane) : (setLane s i x).keys = s.keys := rfl
@[simp] theorem setLane_rng (i : Nat) (x : Lane) : (setLane s i x).rng = s.rng := rfl
@[simp] theorem setLane_prot (i : Nat) (x : Lane) : (setLane s i x).prot = s.prot := rfl
@[simp] theorem setLane_house (i : Nat) (x : Lane) : (setLane s i x).house = s.house := rfl
@[simp] theorem setLane_slots (i : Nat) (x : Lane) : (setLane s i x).slots = s.slots := rfl
@[simp] theorem setLane_quorum (i : Nat) (x : Lane) : (setLane s i x).quorum = s.quorum := rfl
@[simp] theorem setLane_cnt (i : Nat) (x : Lane) : (setLane s i x).cnt = s.cnt := rfl
@[simp] theorem setLane_answer (i : Nat) (x : Lane) : (setLane s i x).answer = s.answer := rfl
@[simp] theorem getLane_setLane (i : Nat) (x : Lane) : getLane (setLane s i x) i = x := sget_sput_self ..
theorem getLane_setLane_ne {i j : Nat} (x : Lane) (h : j ≠ i) : getLane (setLane s i x) j = getLane s j := sget_sput_ne _ _ _ h
@[simp] theorem getSeat_setLane (i j : Nat) (x : Lane) : getSeat (setLane s i x) j = getSeat s j := rfl
@[simp] theorem getEngine_setLane (i j : Nat) (x : Lane) : getEngine (setLane s i x) j = getEngine s j := rfl
@[simp] theorem getSlot_setLane (i j : Nat) (x : Lane) : getSlot (setLane s i x) j = getSlot s j := rfl
@[simp] theorem getHand_setLane (i j : Nat) (x : Lane) : getHand (setLane s i x) j = getHand s j := rfl
@[simp] theorem getSource_setLane (i j : Nat) (x : Lane) : getSource (setLane s i x) j = getSource s j := rfl
@[simp] theorem getRec_setLane (i j : Nat) (x : Lane) : getRec (setLane s i x) j = getRec s j := rfl
@[simp] theorem getFlag_setLane (i j : Nat) (x : Lane) : getFlag (setLane s i x) j = getFlag s j := rfl
@[simp] theorem getIrq_setLane (i j : Nat) (x : Lane) : getIrq (setLane s i x) j = getIrq s j := rfl

/-! setEngine -/

@[simp] theorem setEngine_pending (i : Nat) (x : Engine) : (setEngine s i x).pending = s.pending := rfl
@[simp] theorem setEngine_round (i : Nat) (x : Engine) : (setEngine s i x).round = s.round := rfl
@[simp] theorem setEngine_mem (i : Nat) (x : Engine) : (setEngine s i x).mem = s.mem := rfl
@[simp] theorem setEngine_power (i : Nat) (x : Engine) : (setEngine s i x).power = s.power := rfl
@[simp] theorem setEngine_fuses (i : Nat) (x : Engine) : (setEngine s i x).fuses = s.fuses := rfl
@[simp] theorem setEngine_aon (i : Nat) (x : Engine) : (setEngine s i x).aon = s.aon := rfl
@[simp] theorem setEngine_link (i : Nat) (x : Engine) : (setEngine s i x).link = s.link := rfl
@[simp] theorem setEngine_irq (i : Nat) (x : Engine) : (setEngine s i x).irq = s.irq := rfl
@[simp] theorem setEngine_seats (i : Nat) (x : Engine) : (setEngine s i x).seats = s.seats := rfl
@[simp] theorem setEngine_kitty (i : Nat) (x : Engine) : (setEngine s i x).kitty = s.kitty := rfl
@[simp] theorem setEngine_dealer (i : Nat) (x : Engine) : (setEngine s i x).dealer = s.dealer := rfl
@[simp] theorem setEngine_lanes (i : Nat) (x : Engine) : (setEngine s i x).lanes = s.lanes := rfl
@[simp] theorem setEngine_records (i : Nat) (x : Engine) : (setEngine s i x).records = s.records := rfl
@[simp] theorem setEngine_keys (i : Nat) (x : Engine) : (setEngine s i x).keys = s.keys := rfl
@[simp] theorem setEngine_rng (i : Nat) (x : Engine) : (setEngine s i x).rng = s.rng := rfl
@[simp] theorem setEngine_prot (i : Nat) (x : Engine) : (setEngine s i x).prot = s.prot := rfl
@[simp] theorem setEngine_house (i : Nat) (x : Engine) : (setEngine s i x).house = s.house := rfl
@[simp] theorem setEngine_slots (i : Nat) (x : Engine) : (setEngine s i x).slots = s.slots := rfl
@[simp] theorem setEngine_quorum (i : Nat) (x : Engine) : (setEngine s i x).quorum = s.quorum := rfl
@[simp] theorem setEngine_cnt (i : Nat) (x : Engine) : (setEngine s i x).cnt = s.cnt := rfl
@[simp] theorem setEngine_answer (i : Nat) (x : Engine) : (setEngine s i x).answer = s.answer := rfl
@[simp] theorem getEngine_setEngine (i : Nat) (x : Engine) : getEngine (setEngine s i x) i = x := sget_sput_self ..
theorem getEngine_setEngine_ne {i j : Nat} (x : Engine) (h : j ≠ i) : getEngine (setEngine s i x) j = getEngine s j := sget_sput_ne _ _ _ h
@[simp] theorem getSeat_setEngine (i j : Nat) (x : Engine) : getSeat (setEngine s i x) j = getSeat s j := rfl
@[simp] theorem getLane_setEngine (i j : Nat) (x : Engine) : getLane (setEngine s i x) j = getLane s j := rfl
@[simp] theorem getSlot_setEngine (i j : Nat) (x : Engine) : getSlot (setEngine s i x) j = getSlot s j := rfl
@[simp] theorem getHand_setEngine (i j : Nat) (x : Engine) : getHand (setEngine s i x) j = getHand s j := rfl
@[simp] theorem getSource_setEngine (i j : Nat) (x : Engine) : getSource (setEngine s i x) j = getSource s j := rfl
@[simp] theorem getRec_setEngine (i j : Nat) (x : Engine) : getRec (setEngine s i x) j = getRec s j := rfl
@[simp] theorem getFlag_setEngine (i j : Nat) (x : Engine) : getFlag (setEngine s i x) j = getFlag s j := rfl
@[simp] theorem getIrq_setEngine (i j : Nat) (x : Engine) : getIrq (setEngine s i x) j = getIrq s j := rfl

/-! setSlot -/

@[simp] theorem setSlot_pending (i : Nat) (x : Slot) : (setSlot s i x).pending = s.pending := rfl
@[simp] theorem setSlot_round (i : Nat) (x : Slot) : (setSlot s i x).round = s.round := rfl
@[simp] theorem setSlot_mem (i : Nat) (x : Slot) : (setSlot s i x).mem = s.mem := rfl
@[simp] theorem setSlot_power (i : Nat) (x : Slot) : (setSlot s i x).power = s.power := rfl
@[simp] theorem setSlot_fuses (i : Nat) (x : Slot) : (setSlot s i x).fuses = s.fuses := rfl
@[simp] theorem setSlot_aon (i : Nat) (x : Slot) : (setSlot s i x).aon = s.aon := rfl
@[simp] theorem setSlot_link (i : Nat) (x : Slot) : (setSlot s i x).link = s.link := rfl
@[simp] theorem setSlot_irq (i : Nat) (x : Slot) : (setSlot s i x).irq = s.irq := rfl
@[simp] theorem setSlot_seats (i : Nat) (x : Slot) : (setSlot s i x).seats = s.seats := rfl
@[simp] theorem setSlot_kitty (i : Nat) (x : Slot) : (setSlot s i x).kitty = s.kitty := rfl
@[simp] theorem setSlot_dealer (i : Nat) (x : Slot) : (setSlot s i x).dealer = s.dealer := rfl
@[simp] theorem setSlot_lanes (i : Nat) (x : Slot) : (setSlot s i x).lanes = s.lanes := rfl
@[simp] theorem setSlot_records (i : Nat) (x : Slot) : (setSlot s i x).records = s.records := rfl
@[simp] theorem setSlot_engines (i : Nat) (x : Slot) : (setSlot s i x).engines = s.engines := rfl
@[simp] theorem setSlot_keys (i : Nat) (x : Slot) : (setSlot s i x).keys = s.keys := rfl
@[simp] theorem setSlot_rng (i : Nat) (x : Slot) : (setSlot s i x).rng = s.rng := rfl
@[simp] theorem setSlot_prot (i : Nat) (x : Slot) : (setSlot s i x).prot = s.prot := rfl
@[simp] theorem setSlot_house (i : Nat) (x : Slot) : (setSlot s i x).house = s.house := rfl
@[simp] theorem setSlot_quorum (i : Nat) (x : Slot) : (setSlot s i x).quorum = s.quorum := rfl
@[simp] theorem setSlot_cnt (i : Nat) (x : Slot) : (setSlot s i x).cnt = s.cnt := rfl
@[simp] theorem setSlot_answer (i : Nat) (x : Slot) : (setSlot s i x).answer = s.answer := rfl
@[simp] theorem getSlot_setSlot (i : Nat) (x : Slot) : getSlot (setSlot s i x) i = x := sget_sput_self ..
theorem getSlot_setSlot_ne {i j : Nat} (x : Slot) (h : j ≠ i) : getSlot (setSlot s i x) j = getSlot s j := sget_sput_ne _ _ _ h
@[simp] theorem getSeat_setSlot (i j : Nat) (x : Slot) : getSeat (setSlot s i x) j = getSeat s j := rfl
@[simp] theorem getLane_setSlot (i j : Nat) (x : Slot) : getLane (setSlot s i x) j = getLane s j := rfl
@[simp] theorem getEngine_setSlot (i j : Nat) (x : Slot) : getEngine (setSlot s i x) j = getEngine s j := rfl
@[simp] theorem getHand_setSlot (i j : Nat) (x : Slot) : getHand (setSlot s i x) j = getHand s j := rfl
@[simp] theorem getSource_setSlot (i j : Nat) (x : Slot) : getSource (setSlot s i x) j = getSource s j := rfl
@[simp] theorem getRec_setSlot (i j : Nat) (x : Slot) : getRec (setSlot s i x) j = getRec s j := rfl
@[simp] theorem getFlag_setSlot (i j : Nat) (x : Slot) : getFlag (setSlot s i x) j = getFlag s j := rfl
@[simp] theorem getIrq_setSlot (i j : Nat) (x : Slot) : getIrq (setSlot s i x) j = getIrq s j := rfl

/-! setHand -/

@[simp] theorem setHand_pending (i : Nat) (x : Hand) : (setHand s i x).pending = s.pending := rfl
@[simp] theorem setHand_round (i : Nat) (x : Hand) : (setHand s i x).round = s.round := rfl
@[simp] theorem setHand_mem (i : Nat) (x : Hand) : (setHand s i x).mem = s.mem := rfl
@[simp] theorem setHand_power (i : Nat) (x : Hand) : (setHand s i x).power = s.power := rfl
@[simp] theorem setHand_fuses (i : Nat) (x : Hand) : (setHand s i x).fuses = s.fuses := rfl
@[simp] theorem setHand_aon (i : Nat) (x : Hand) : (setHand s i x).aon = s.aon := rfl
@[simp] theorem setHand_link (i : Nat) (x : Hand) : (setHand s i x).link = s.link := rfl
@[simp] theorem setHand_irq (i : Nat) (x : Hand) : (setHand s i x).irq = s.irq := rfl
@[simp] theorem setHand_seats (i : Nat) (x : Hand) : (setHand s i x).seats = s.seats := rfl
@[simp] theorem setHand_kitty (i : Nat) (x : Hand) : (setHand s i x).kitty = s.kitty := rfl
@[simp] theorem setHand_dealer (i : Nat) (x : Hand) : (setHand s i x).dealer = s.dealer := rfl
@[simp] theorem setHand_lanes (i : Nat) (x : Hand) : (setHand s i x).lanes = s.lanes := rfl
@[simp] theorem setHand_records (i : Nat) (x : Hand) : (setHand s i x).records = s.records := rfl
@[simp] theorem setHand_engines (i : Nat) (x : Hand) : (setHand s i x).engines = s.engines := rfl
@[simp] theorem setHand_rng (i : Nat) (x : Hand) : (setHand s i x).rng = s.rng := rfl
@[simp] theorem setHand_prot (i : Nat) (x : Hand) : (setHand s i x).prot = s.prot := rfl
@[simp] theorem setHand_house (i : Nat) (x : Hand) : (setHand s i x).house = s.house := rfl
@[simp] theorem setHand_slots (i : Nat) (x : Hand) : (setHand s i x).slots = s.slots := rfl
@[simp] theorem setHand_quorum (i : Nat) (x : Hand) : (setHand s i x).quorum = s.quorum := rfl
@[simp] theorem setHand_cnt (i : Nat) (x : Hand) : (setHand s i x).cnt = s.cnt := rfl
@[simp] theorem setHand_answer (i : Nat) (x : Hand) : (setHand s i x).answer = s.answer := rfl
@[simp] theorem getHand_setHand (i : Nat) (x : Hand) : getHand (setHand s i x) i = x := sget_sput_self ..
theorem getHand_setHand_ne {i j : Nat} (x : Hand) (h : j ≠ i) : getHand (setHand s i x) j = getHand s j := sget_sput_ne _ _ _ h
@[simp] theorem getSeat_setHand (i j : Nat) (x : Hand) : getSeat (setHand s i x) j = getSeat s j := rfl
@[simp] theorem getLane_setHand (i j : Nat) (x : Hand) : getLane (setHand s i x) j = getLane s j := rfl
@[simp] theorem getEngine_setHand (i j : Nat) (x : Hand) : getEngine (setHand s i x) j = getEngine s j := rfl
@[simp] theorem getSlot_setHand (i j : Nat) (x : Hand) : getSlot (setHand s i x) j = getSlot s j := rfl
@[simp] theorem getSource_setHand (i j : Nat) (x : Hand) : getSource (setHand s i x) j = getSource s j := rfl
@[simp] theorem getRec_setHand (i j : Nat) (x : Hand) : getRec (setHand s i x) j = getRec s j := rfl
@[simp] theorem getFlag_setHand (i j : Nat) (x : Hand) : getFlag (setHand s i x) j = getFlag s j := rfl
@[simp] theorem getIrq_setHand (i j : Nat) (x : Hand) : getIrq (setHand s i x) j = getIrq s j := rfl

/-! setSource -/

@[simp] theorem setSource_pending (i : Nat) (x : Source) : (setSource s i x).pending = s.pending := rfl
@[simp] theorem setSource_round (i : Nat) (x : Source) : (setSource s i x).round = s.round := rfl
@[simp] theorem setSource_mem (i : Nat) (x : Source) : (setSource s i x).mem = s.mem := rfl
@[simp] theorem setSource_power (i : Nat) (x : Source) : (setSource s i x).power = s.power := rfl
@[simp] theorem setSource_fuses (i : Nat) (x : Source) : (setSource s i x).fuses = s.fuses := rfl
@[simp] theorem setSource_aon (i : Nat) (x : Source) : (setSource s i x).aon = s.aon := rfl
@[simp] theorem setSource_link (i : Nat) (x : Source) : (setSource s i x).link = s.link := rfl
@[simp] theorem setSource_irq (i : Nat) (x : Source) : (setSource s i x).irq = s.irq := rfl
@[simp] theorem setSource_seats (i : Nat) (x : Source) : (setSource s i x).seats = s.seats := rfl
@[simp] theorem setSource_kitty (i : Nat) (x : Source) : (setSource s i x).kitty = s.kitty := rfl
@[simp] theorem setSource_dealer (i : Nat) (x : Source) : (setSource s i x).dealer = s.dealer := rfl
@[simp] theorem setSource_lanes (i : Nat) (x : Source) : (setSource s i x).lanes = s.lanes := rfl
@[simp] theorem setSource_records (i : Nat) (x : Source) : (setSource s i x).records = s.records := rfl
@[simp] theorem setSource_engines (i : Nat) (x : Source) : (setSource s i x).engines = s.engines := rfl
@[simp] theorem setSource_keys (i : Nat) (x : Source) : (setSource s i x).keys = s.keys := rfl
@[simp] theorem setSource_prot (i : Nat) (x : Source) : (setSource s i x).prot = s.prot := rfl
@[simp] theorem setSource_house (i : Nat) (x : Source) : (setSource s i x).house = s.house := rfl
@[simp] theorem setSource_slots (i : Nat) (x : Source) : (setSource s i x).slots = s.slots := rfl
@[simp] theorem setSource_quorum (i : Nat) (x : Source) : (setSource s i x).quorum = s.quorum := rfl
@[simp] theorem setSource_cnt (i : Nat) (x : Source) : (setSource s i x).cnt = s.cnt := rfl
@[simp] theorem setSource_answer (i : Nat) (x : Source) : (setSource s i x).answer = s.answer := rfl
@[simp] theorem getSource_setSource (i : Nat) (x : Source) : getSource (setSource s i x) i = x := sget_sput_self ..
theorem getSource_setSource_ne {i j : Nat} (x : Source) (h : j ≠ i) : getSource (setSource s i x) j = getSource s j := sget_sput_ne _ _ _ h
@[simp] theorem getSeat_setSource (i j : Nat) (x : Source) : getSeat (setSource s i x) j = getSeat s j := rfl
@[simp] theorem getLane_setSource (i j : Nat) (x : Source) : getLane (setSource s i x) j = getLane s j := rfl
@[simp] theorem getEngine_setSource (i j : Nat) (x : Source) : getEngine (setSource s i x) j = getEngine s j := rfl
@[simp] theorem getSlot_setSource (i j : Nat) (x : Source) : getSlot (setSource s i x) j = getSlot s j := rfl
@[simp] theorem getHand_setSource (i j : Nat) (x : Source) : getHand (setSource s i x) j = getHand s j := rfl
@[simp] theorem getRec_setSource (i j : Nat) (x : Source) : getRec (setSource s i x) j = getRec s j := rfl
@[simp] theorem getFlag_setSource (i j : Nat) (x : Source) : getFlag (setSource s i x) j = getFlag s j := rfl
@[simp] theorem getIrq_setSource (i j : Nat) (x : Source) : getIrq (setSource s i x) j = getIrq s j := rfl

/-! setRec -/

@[simp] theorem setRec_pending (i : Nat) (x : Option MigRec) : (setRec s i x).pending = s.pending := rfl
@[simp] theorem setRec_round (i : Nat) (x : Option MigRec) : (setRec s i x).round = s.round := rfl
@[simp] theorem setRec_mem (i : Nat) (x : Option MigRec) : (setRec s i x).mem = s.mem := rfl
@[simp] theorem setRec_power (i : Nat) (x : Option MigRec) : (setRec s i x).power = s.power := rfl
@[simp] theorem setRec_fuses (i : Nat) (x : Option MigRec) : (setRec s i x).fuses = s.fuses := rfl
@[simp] theorem setRec_aon (i : Nat) (x : Option MigRec) : (setRec s i x).aon = s.aon := rfl
@[simp] theorem setRec_link (i : Nat) (x : Option MigRec) : (setRec s i x).link = s.link := rfl
@[simp] theorem setRec_irq (i : Nat) (x : Option MigRec) : (setRec s i x).irq = s.irq := rfl
@[simp] theorem setRec_seats (i : Nat) (x : Option MigRec) : (setRec s i x).seats = s.seats := rfl
@[simp] theorem setRec_kitty (i : Nat) (x : Option MigRec) : (setRec s i x).kitty = s.kitty := rfl
@[simp] theorem setRec_dealer (i : Nat) (x : Option MigRec) : (setRec s i x).dealer = s.dealer := rfl
@[simp] theorem setRec_lanes (i : Nat) (x : Option MigRec) : (setRec s i x).lanes = s.lanes := rfl
@[simp] theorem setRec_engines (i : Nat) (x : Option MigRec) : (setRec s i x).engines = s.engines := rfl
@[simp] theorem setRec_keys (i : Nat) (x : Option MigRec) : (setRec s i x).keys = s.keys := rfl
@[simp] theorem setRec_rng (i : Nat) (x : Option MigRec) : (setRec s i x).rng = s.rng := rfl
@[simp] theorem setRec_prot (i : Nat) (x : Option MigRec) : (setRec s i x).prot = s.prot := rfl
@[simp] theorem setRec_house (i : Nat) (x : Option MigRec) : (setRec s i x).house = s.house := rfl
@[simp] theorem setRec_slots (i : Nat) (x : Option MigRec) : (setRec s i x).slots = s.slots := rfl
@[simp] theorem setRec_quorum (i : Nat) (x : Option MigRec) : (setRec s i x).quorum = s.quorum := rfl
@[simp] theorem setRec_cnt (i : Nat) (x : Option MigRec) : (setRec s i x).cnt = s.cnt := rfl
@[simp] theorem setRec_answer (i : Nat) (x : Option MigRec) : (setRec s i x).answer = s.answer := rfl
@[simp] theorem getRec_setRec (i : Nat) (x : Option MigRec) : getRec (setRec s i x) i = x := sget_sput_self ..
theorem getRec_setRec_ne {i j : Nat} (x : Option MigRec) (h : j ≠ i) : getRec (setRec s i x) j = getRec s j := sget_sput_ne _ _ _ h
@[simp] theorem getSeat_setRec (i j : Nat) (x : Option MigRec) : getSeat (setRec s i x) j = getSeat s j := rfl
@[simp] theorem getLane_setRec (i j : Nat) (x : Option MigRec) : getLane (setRec s i x) j = getLane s j := rfl
@[simp] theorem getEngine_setRec (i j : Nat) (x : Option MigRec) : getEngine (setRec s i x) j = getEngine s j := rfl
@[simp] theorem getSlot_setRec (i j : Nat) (x : Option MigRec) : getSlot (setRec s i x) j = getSlot s j := rfl
@[simp] theorem getHand_setRec (i j : Nat) (x : Option MigRec) : getHand (setRec s i x) j = getHand s j := rfl
@[simp] theorem getSource_setRec (i j : Nat) (x : Option MigRec) : getSource (setRec s i x) j = getSource s j := rfl
@[simp] theorem getFlag_setRec (i j : Nat) (x : Option MigRec) : getFlag (setRec s i x) j = getFlag s j := rfl
@[simp] theorem getIrq_setRec (i j : Nat) (x : Option MigRec) : getIrq (setRec s i x) j = getIrq s j := rfl

/-! setFlag -/

@[simp] theorem setFlag_pending (i : Nat) (x : Flag) : (setFlag s i x).pending = s.pending := rfl
@[simp] theorem setFlag_round (i : Nat) (x : Flag) : (setFlag s i x).round = s.round := rfl
@[simp] theorem setFlag_mem (i : Nat) (x : Flag) : (setFlag s i x).mem = s.mem := rfl
@[simp] theorem setFlag_power (i : Nat) (x : Flag) : (setFlag s i x).power = s.power := rfl
@[simp] theorem setFlag_fuses (i : Nat) (x : Flag) : (setFlag s i x).fuses = s.fuses := rfl
@[simp] theorem setFlag_aon (i : Nat) (x : Flag) : (setFlag s i x).aon = s.aon := rfl
@[simp] theorem setFlag_link (i : Nat) (x : Flag) : (setFlag s i x).link = s.link := rfl
@[simp] theorem setFlag_irq (i : Nat) (x : Flag) : (setFlag s i x).irq = s.irq := rfl
@[simp] theorem setFlag_seats (i : Nat) (x : Flag) : (setFlag s i x).seats = s.seats := rfl
@[simp] theorem setFlag_dealer (i : Nat) (x : Flag) : (setFlag s i x).dealer = s.dealer := rfl
@[simp] theorem setFlag_lanes (i : Nat) (x : Flag) : (setFlag s i x).lanes = s.lanes := rfl
@[simp] theorem setFlag_records (i : Nat) (x : Flag) : (setFlag s i x).records = s.records := rfl
@[simp] theorem setFlag_engines (i : Nat) (x : Flag) : (setFlag s i x).engines = s.engines := rfl
@[simp] theorem setFlag_keys (i : Nat) (x : Flag) : (setFlag s i x).keys = s.keys := rfl
@[simp] theorem setFlag_rng (i : Nat) (x : Flag) : (setFlag s i x).rng = s.rng := rfl
@[simp] theorem setFlag_prot (i : Nat) (x : Flag) : (setFlag s i x).prot = s.prot := rfl
@[simp] theorem setFlag_house (i : Nat) (x : Flag) : (setFlag s i x).house = s.house := rfl
@[simp] theorem setFlag_slots (i : Nat) (x : Flag) : (setFlag s i x).slots = s.slots := rfl
@[simp] theorem setFlag_quorum (i : Nat) (x : Flag) : (setFlag s i x).quorum = s.quorum := rfl
@[simp] theorem setFlag_cnt (i : Nat) (x : Flag) : (setFlag s i x).cnt = s.cnt := rfl
@[simp] theorem setFlag_answer (i : Nat) (x : Flag) : (setFlag s i x).answer = s.answer := rfl
@[simp] theorem getFlag_setFlag (i : Nat) (x : Flag) : getFlag (setFlag s i x) i = x := sget_sput_self ..
theorem getFlag_setFlag_ne {i j : Nat} (x : Flag) (h : j ≠ i) : getFlag (setFlag s i x) j = getFlag s j := sget_sput_ne _ _ _ h
@[simp] theorem getSeat_setFlag (i j : Nat) (x : Flag) : getSeat (setFlag s i x) j = getSeat s j := rfl
@[simp] theorem getLane_setFlag (i j : Nat) (x : Flag) : getLane (setFlag s i x) j = getLane s j := rfl
@[simp] theorem getEngine_setFlag (i j : Nat) (x : Flag) : getEngine (setFlag s i x) j = getEngine s j := rfl
@[simp] theorem getSlot_setFlag (i j : Nat) (x : Flag) : getSlot (setFlag s i x) j = getSlot s j := rfl
@[simp] theorem getHand_setFlag (i j : Nat) (x : Flag) : getHand (setFlag s i x) j = getHand s j := rfl
@[simp] theorem getSource_setFlag (i j : Nat) (x : Flag) : getSource (setFlag s i x) j = getSource s j := rfl
@[simp] theorem getRec_setFlag (i j : Nat) (x : Flag) : getRec (setFlag s i x) j = getRec s j := rfl
@[simp] theorem getIrq_setFlag (i j : Nat) (x : Flag) : getIrq (setFlag s i x) j = getIrq s j := rfl

/-! setIrq -/

@[simp] theorem setIrq_pending (i : Nat) (x : IrqBlock) : (setIrq s i x).pending = s.pending := rfl
@[simp] theorem setIrq_round (i : Nat) (x : IrqBlock) : (setIrq s i x).round = s.round := rfl
@[simp] theorem setIrq_mem (i : Nat) (x : IrqBlock) : (setIrq s i x).mem = s.mem := rfl
@[simp] theorem setIrq_power (i : Nat) (x : IrqBlock) : (setIrq s i x).power = s.power := rfl
@[simp] theorem setIrq_fuses (i : Nat) (x : IrqBlock) : (setIrq s i x).fuses = s.fuses := rfl
@[simp] theorem setIrq_aon (i : Nat) (x : IrqBlock) : (setIrq s i x).aon = s.aon := rfl
@[simp] theorem setIrq_link (i : Nat) (x : IrqBlock) : (setIrq s i x).link = s.link := rfl
@[simp] theorem setIrq_seats (i : Nat) (x : IrqBlock) : (setIrq s i x).seats = s.seats := rfl
@[simp] theorem setIrq_kitty (i : Nat) (x : IrqBlock) : (setIrq s i x).kitty = s.kitty := rfl
@[simp] theorem setIrq_dealer (i : Nat) (x : IrqBlock) : (setIrq s i x).dealer = s.dealer := rfl
@[simp] theorem setIrq_lanes (i : Nat) (x : IrqBlock) : (setIrq s i x).lanes = s.lanes := rfl
@[simp] theorem setIrq_records (i : Nat) (x : IrqBlock) : (setIrq s i x).records = s.records := rfl
@[simp] theorem setIrq_engines (i : Nat) (x : IrqBlock) : (setIrq s i x).engines = s.engines := rfl
@[simp] theorem setIrq_keys (i : Nat) (x : IrqBlock) : (setIrq s i x).keys = s.keys := rfl
@[simp] theorem setIrq_rng (i : Nat) (x : IrqBlock) : (setIrq s i x).rng = s.rng := rfl
@[simp] theorem setIrq_prot (i : Nat) (x : IrqBlock) : (setIrq s i x).prot = s.prot := rfl
@[simp] theorem setIrq_house (i : Nat) (x : IrqBlock) : (setIrq s i x).house = s.house := rfl
@[simp] theorem setIrq_slots (i : Nat) (x : IrqBlock) : (setIrq s i x).slots = s.slots := rfl
@[simp] theorem setIrq_quorum (i : Nat) (x : IrqBlock) : (setIrq s i x).quorum = s.quorum := rfl
@[simp] theorem setIrq_cnt (i : Nat) (x : IrqBlock) : (setIrq s i x).cnt = s.cnt := rfl
@[simp] theorem setIrq_answer (i : Nat) (x : IrqBlock) : (setIrq s i x).answer = s.answer := rfl
@[simp] theorem getIrq_setIrq (i : Nat) (x : IrqBlock) : getIrq (setIrq s i x) i = x := sget_sput_self ..
theorem getIrq_setIrq_ne {i j : Nat} (x : IrqBlock) (h : j ≠ i) : getIrq (setIrq s i x) j = getIrq s j := sget_sput_ne _ _ _ h
@[simp] theorem getSeat_setIrq (i j : Nat) (x : IrqBlock) : getSeat (setIrq s i x) j = getSeat s j := rfl
@[simp] theorem getLane_setIrq (i j : Nat) (x : IrqBlock) : getLane (setIrq s i x) j = getLane s j := rfl
@[simp] theorem getEngine_setIrq (i j : Nat) (x : IrqBlock) : getEngine (setIrq s i x) j = getEngine s j := rfl
@[simp] theorem getSlot_setIrq (i j : Nat) (x : IrqBlock) : getSlot (setIrq s i x) j = getSlot s j := rfl
@[simp] theorem getHand_setIrq (i j : Nat) (x : IrqBlock) : getHand (setIrq s i x) j = getHand s j := rfl
@[simp] theorem getSource_setIrq (i j : Nat) (x : IrqBlock) : getSource (setIrq s i x) j = getSource s j := rfl
@[simp] theorem getRec_setIrq (i j : Nat) (x : IrqBlock) : getRec (setIrq s i x) j = getRec s j := rfl
@[simp] theorem getFlag_setIrq (i j : Nat) (x : IrqBlock) : getFlag (setIrq s i x) j = getFlag s j := rfl

/-! modSeat -/

@[simp] theorem modSeat_pending (i : Nat) (f : Seat → Seat) : (modSeat s i f).pending = s.pending := rfl
@[simp] theorem modSeat_round (i : Nat) (f : Seat → Seat) : (modSeat s i f).round = s.round := rfl
@[simp] theorem modSeat_mem (i : Nat) (f : Seat → Seat) : (modSeat s i f).mem = s.mem := rfl
@[simp] theorem modSeat_power (i : Nat) (f : Seat → Seat) : (modSeat s i f).power = s.power := rfl
@[simp] theorem modSeat_fuses (i : Nat) (f : Seat → Seat) : (modSeat s i f).fuses = s.fuses := rfl
@[simp] theorem modSeat_aon (i : Nat) (f : Seat → Seat) : (modSeat s i f).aon = s.aon := rfl
@[simp] theorem modSeat_link (i : Nat) (f : Seat → Seat) : (modSeat s i f).link = s.link := rfl
@[simp] theorem modSeat_irq (i : Nat) (f : Seat → Seat) : (modSeat s i f).irq = s.irq := rfl
@[simp] theorem modSeat_kitty (i : Nat) (f : Seat → Seat) : (modSeat s i f).kitty = s.kitty := rfl
@[simp] theorem modSeat_dealer (i : Nat) (f : Seat → Seat) : (modSeat s i f).dealer = s.dealer := rfl
@[simp] theorem modSeat_lanes (i : Nat) (f : Seat → Seat) : (modSeat s i f).lanes = s.lanes := rfl
@[simp] theorem modSeat_records (i : Nat) (f : Seat → Seat) : (modSeat s i f).records = s.records := rfl
@[simp] theorem modSeat_engines (i : Nat) (f : Seat → Seat) : (modSeat s i f).engines = s.engines := rfl
@[simp] theorem modSeat_keys (i : Nat) (f : Seat → Seat) : (modSeat s i f).keys = s.keys := rfl
@[simp] theorem modSeat_rng (i : Nat) (f : Seat → Seat) : (modSeat s i f).rng = s.rng := rfl
@[simp] theorem modSeat_prot (i : Nat) (f : Seat → Seat) : (modSeat s i f).prot = s.prot := rfl
@[simp] theorem modSeat_house (i : Nat) (f : Seat → Seat) : (modSeat s i f).house = s.house := rfl
@[simp] theorem modSeat_slots (i : Nat) (f : Seat → Seat) : (modSeat s i f).slots = s.slots := rfl
@[simp] theorem modSeat_quorum (i : Nat) (f : Seat → Seat) : (modSeat s i f).quorum = s.quorum := rfl
@[simp] theorem modSeat_cnt (i : Nat) (f : Seat → Seat) : (modSeat s i f).cnt = s.cnt := rfl
@[simp] theorem modSeat_answer (i : Nat) (f : Seat → Seat) : (modSeat s i f).answer = s.answer := rfl
@[simp] theorem getSeat_modSeat (i : Nat) (f : Seat → Seat) : getSeat (modSeat s i f) i = f (getSeat s i) := sget_sput_self ..
theorem getSeat_modSeat_ne {i j : Nat} (f : Seat → Seat) (h : j ≠ i) : getSeat (modSeat s i f) j = getSeat s j := sget_sput_ne _ _ _ h

/-! modLane -/

@[simp] theorem modLane_pending (i : Nat) (f : Lane → Lane) : (modLane s i f).pending = s.pending := rfl
@[simp] theorem modLane_round (i : Nat) (f : Lane → Lane) : (modLane s i f).round = s.round := rfl
@[simp] theorem modLane_mem (i : Nat) (f : Lane → Lane) : (modLane s i f).mem = s.mem := rfl
@[simp] theorem modLane_power (i : Nat) (f : Lane → Lane) : (modLane s i f).power = s.power := rfl
@[simp] theorem modLane_fuses (i : Nat) (f : Lane → Lane) : (modLane s i f).fuses = s.fuses := rfl
@[simp] theorem modLane_aon (i : Nat) (f : Lane → Lane) : (modLane s i f).aon = s.aon := rfl
@[simp] theorem modLane_link (i : Nat) (f : Lane → Lane) : (modLane s i f).link = s.link := rfl
@[simp] theorem modLane_irq (i : Nat) (f : Lane → Lane) : (modLane s i f).irq = s.irq := rfl
@[simp] theorem modLane_seats (i : Nat) (f : Lane → Lane) : (modLane s i f).seats = s.seats := rfl
@[simp] theorem modLane_kitty (i : Nat) (f : Lane → Lane) : (modLane s i f).kitty = s.kitty := rfl
@[simp] theorem modLane_dealer (i : Nat) (f : Lane → Lane) : (modLane s i f).dealer = s.dealer := rfl
@[simp] theorem modLane_records (i : Nat) (f : Lane → Lane) : (modLane s i f).records = s.records := rfl
@[simp] theorem modLane_engines (i : Nat) (f : Lane → Lane) : (modLane s i f).engines = s.engines := rfl
@[simp] theorem modLane_keys (i : Nat) (f : Lane → Lane) : (modLane s i f).keys = s.keys := rfl
@[simp] theorem modLane_rng (i : Nat) (f : Lane → Lane) : (modLane s i f).rng = s.rng := rfl
@[simp] theorem modLane_prot (i : Nat) (f : Lane → Lane) : (modLane s i f).prot = s.prot := rfl
@[simp] theorem modLane_house (i : Nat) (f : Lane → Lane) : (modLane s i f).house = s.house := rfl
@[simp] theorem modLane_slots (i : Nat) (f : Lane → Lane) : (modLane s i f).slots = s.slots := rfl
@[simp] theorem modLane_quorum (i : Nat) (f : Lane → Lane) : (modLane s i f).quorum = s.quorum := rfl
@[simp] theorem modLane_cnt (i : Nat) (f : Lane → Lane) : (modLane s i f).cnt = s.cnt := rfl
@[simp] theorem modLane_answer (i : Nat) (f : Lane → Lane) : (modLane s i f).answer = s.answer := rfl
@[simp] theorem getLane_modLane (i : Nat) (f : Lane → Lane) : getLane (modLane s i f) i = f (getLane s i) := sget_sput_self ..
theorem getLane_modLane_ne {i j : Nat} (f : Lane → Lane) (h : j ≠ i) : getLane (modLane s i f) j = getLane s j := sget_sput_ne _ _ _ h

/-! modEngine -/

@[simp] theorem modEngine_pending (i : Nat) (f : Engine → Engine) : (modEngine s i f).pending = s.pending := rfl
@[simp] theorem modEngine_round (i : Nat) (f : Engine → Engine) : (modEngine s i f).round = s.round := rfl
@[simp] theorem modEngine_mem (i : Nat) (f : Engine → Engine) : (modEngine s i f).mem = s.mem := rfl
@[simp] theorem modEngine_power (i : Nat) (f : Engine → Engine) : (modEngine s i f).power = s.power := rfl
@[simp] theorem modEngine_fuses (i : Nat) (f : Engine → Engine) : (modEngine s i f).fuses = s.fuses := rfl
@[simp] theorem modEngine_aon (i : Nat) (f : Engine → Engine) : (modEngine s i f).aon = s.aon := rfl
@[simp] theorem modEngine_link (i : Nat) (f : Engine → Engine) : (modEngine s i f).link = s.link := rfl
@[simp] theorem modEngine_irq (i : Nat) (f : Engine → Engine) : (modEngine s i f).irq = s.irq := rfl
@[simp] theorem modEngine_seats (i : Nat) (f : Engine → Engine) : (modEngine s i f).seats = s.seats := rfl
@[simp] theorem modEngine_kitty (i : Nat) (f : Engine → Engine) : (modEngine s i f).kitty = s.kitty := rfl
@[simp] theorem modEngine_dealer (i : Nat) (f : Engine → Engine) : (modEngine s i f).dealer = s.dealer := rfl
@[simp] theorem modEngine_lanes (i : Nat) (f : Engine → Engine) : (modEngine s i f).lanes = s.lanes := rfl
@[simp] theorem modEngine_records (i : Nat) (f : Engine → Engine) : (modEngine s i f).records = s.records := rfl
@[simp] theorem modEngine_keys (i : Nat) (f : Engine → Engine) : (modEngine s i f).keys = s.keys := rfl
@[simp] theorem modEngine_rng (i : Nat) (f : Engine → Engine) : (modEngine s i f).rng = s.rng := rfl
@[simp] theorem modEngine_prot (i : Nat) (f : Engine → Engine) : (modEngine s i f).prot = s.prot := rfl
@[simp] theorem modEngine_house (i : Nat) (f : Engine → Engine) : (modEngine s i f).house = s.house := rfl
@[simp] theorem modEngine_slots (i : Nat) (f : Engine → Engine) : (modEngine s i f).slots = s.slots := rfl
@[simp] theorem modEngine_quorum (i : Nat) (f : Engine → Engine) : (modEngine s i f).quorum = s.quorum := rfl
@[simp] theorem modEngine_cnt (i : Nat) (f : Engine → Engine) : (modEngine s i f).cnt = s.cnt := rfl
@[simp] theorem modEngine_answer (i : Nat) (f : Engine → Engine) : (modEngine s i f).answer = s.answer := rfl
@[simp] theorem getEngine_modEngine (i : Nat) (f : Engine → Engine) : getEngine (modEngine s i f) i = f (getEngine s i) := sget_sput_self ..
theorem getEngine_modEngine_ne {i j : Nat} (f : Engine → Engine) (h : j ≠ i) : getEngine (modEngine s i f) j = getEngine s j := sget_sput_ne _ _ _ h

/-! modSlot -/

@[simp] theorem modSlot_pending (i : Nat) (f : Slot → Slot) : (modSlot s i f).pending = s.pending := rfl
@[simp] theorem modSlot_round (i : Nat) (f : Slot → Slot) : (modSlot s i f).round = s.round := rfl
@[simp] theorem modSlot_mem (i : Nat) (f : Slot → Slot) : (modSlot s i f).mem = s.mem := rfl
@[simp] theorem modSlot_power (i : Nat) (f : Slot → Slot) : (modSlot s i f).power = s.power := rfl
@[simp] theorem modSlot_fuses (i : Nat) (f : Slot → Slot) : (modSlot s i f).fuses = s.fuses := rfl
@[simp] theorem modSlot_aon (i : Nat) (f : Slot → Slot) : (modSlot s i f).aon = s.aon := rfl
@[simp] theorem modSlot_link (i : Nat) (f : Slot → Slot) : (modSlot s i f).link = s.link := rfl
@[simp] theorem modSlot_irq (i : Nat) (f : Slot → Slot) : (modSlot s i f).irq = s.irq := rfl
@[simp] theorem modSlot_seats (i : Nat) (f : Slot → Slot) : (modSlot s i f).seats = s.seats := rfl
@[simp] theorem modSlot_kitty (i : Nat) (f : Slot → Slot) : (modSlot s i f).kitty = s.kitty := rfl
@[simp] theorem modSlot_dealer (i : Nat) (f : Slot → Slot) : (modSlot s i f).dealer = s.dealer := rfl
@[simp] theorem modSlot_lanes (i : Nat) (f : Slot → Slot) : (modSlot s i f).lanes = s.lanes := rfl
@[simp] theorem modSlot_records (i : Nat) (f : Slot → Slot) : (modSlot s i f).records = s.records := rfl
@[simp] theorem modSlot_engines (i : Nat) (f : Slot → Slot) : (modSlot s i f).engines = s.engines := rfl
@[simp] theorem modSlot_keys (i : Nat) (f : Slot → Slot) : (modSlot s i f).keys = s.keys := rfl
@[simp] theorem modSlot_rng (i : Nat) (f : Slot → Slot) : (modSlot s i f).rng = s.rng := rfl
@[simp] theorem modSlot_prot (i : Nat) (f : Slot → Slot) : (modSlot s i f).prot = s.prot := rfl
@[simp] theorem modSlot_house (i : Nat) (f : Slot → Slot) : (modSlot s i f).house = s.house := rfl
@[simp] theorem modSlot_quorum (i : Nat) (f : Slot → Slot) : (modSlot s i f).quorum = s.quorum := rfl
@[simp] theorem modSlot_cnt (i : Nat) (f : Slot → Slot) : (modSlot s i f).cnt = s.cnt := rfl
@[simp] theorem modSlot_answer (i : Nat) (f : Slot → Slot) : (modSlot s i f).answer = s.answer := rfl
@[simp] theorem getSlot_modSlot (i : Nat) (f : Slot → Slot) : getSlot (modSlot s i f) i = f (getSlot s i) := sget_sput_self ..
theorem getSlot_modSlot_ne {i j : Nat} (f : Slot → Slot) (h : j ≠ i) : getSlot (modSlot s i f) j = getSlot s j := sget_sput_ne _ _ _ h

/-! modHand -/

@[simp] theorem modHand_pending (i : Nat) (f : Hand → Hand) : (modHand s i f).pending = s.pending := rfl
@[simp] theorem modHand_round (i : Nat) (f : Hand → Hand) : (modHand s i f).round = s.round := rfl
@[simp] theorem modHand_mem (i : Nat) (f : Hand → Hand) : (modHand s i f).mem = s.mem := rfl
@[simp] theorem modHand_power (i : Nat) (f : Hand → Hand) : (modHand s i f).power = s.power := rfl
@[simp] theorem modHand_fuses (i : Nat) (f : Hand → Hand) : (modHand s i f).fuses = s.fuses := rfl
@[simp] theorem modHand_aon (i : Nat) (f : Hand → Hand) : (modHand s i f).aon = s.aon := rfl
@[simp] theorem modHand_link (i : Nat) (f : Hand → Hand) : (modHand s i f).link = s.link := rfl
@[simp] theorem modHand_irq (i : Nat) (f : Hand → Hand) : (modHand s i f).irq = s.irq := rfl
@[simp] theorem modHand_seats (i : Nat) (f : Hand → Hand) : (modHand s i f).seats = s.seats := rfl
@[simp] theorem modHand_kitty (i : Nat) (f : Hand → Hand) : (modHand s i f).kitty = s.kitty := rfl
@[simp] theorem modHand_dealer (i : Nat) (f : Hand → Hand) : (modHand s i f).dealer = s.dealer := rfl
@[simp] theorem modHand_lanes (i : Nat) (f : Hand → Hand) : (modHand s i f).lanes = s.lanes := rfl
@[simp] theorem modHand_records (i : Nat) (f : Hand → Hand) : (modHand s i f).records = s.records := rfl
@[simp] theorem modHand_engines (i : Nat) (f : Hand → Hand) : (modHand s i f).engines = s.engines := rfl
@[simp] theorem modHand_rng (i : Nat) (f : Hand → Hand) : (modHand s i f).rng = s.rng := rfl
@[simp] theorem modHand_prot (i : Nat) (f : Hand → Hand) : (modHand s i f).prot = s.prot := rfl
@[simp] theorem modHand_house (i : Nat) (f : Hand → Hand) : (modHand s i f).house = s.house := rfl
@[simp] theorem modHand_slots (i : Nat) (f : Hand → Hand) : (modHand s i f).slots = s.slots := rfl
@[simp] theorem modHand_quorum (i : Nat) (f : Hand → Hand) : (modHand s i f).quorum = s.quorum := rfl
@[simp] theorem modHand_cnt (i : Nat) (f : Hand → Hand) : (modHand s i f).cnt = s.cnt := rfl
@[simp] theorem modHand_answer (i : Nat) (f : Hand → Hand) : (modHand s i f).answer = s.answer := rfl
@[simp] theorem getHand_modHand (i : Nat) (f : Hand → Hand) : getHand (modHand s i f) i = f (getHand s i) := sget_sput_self ..
theorem getHand_modHand_ne {i j : Nat} (f : Hand → Hand) (h : j ≠ i) : getHand (modHand s i f) j = getHand s j := sget_sput_ne _ _ _ h

end Sys2Proof.Machine
end

