-- ==== Sys2Proof/Laws/Frames.lean ====
section
/-!
SUPPORT. Which parts of the state the shared operations leave as they are.
-/
namespace Sys2Proof.Machine

variable (s : State)

/-- A fold leaves what each of its steps leaves. -/
theorem foldl_same {α β : Type} (p : State → β) (f : State → α → State) (h : ∀ t x, p (f t x) = p t) (l : List α) :
    ∀ t, p (l.foldl f t) = p t := by
  induction l with
  | nil => intro t; rfl
  | cons x l ih => intro t; exact (ih _).trans (h t x)

/-! pushWrite -/

@[simp] theorem pushWrite_pending (w : LinkWrite) : (pushWrite s w).pending = s.pending := rfl
@[simp] theorem pushWrite_round (w : LinkWrite) : (pushWrite s w).round = s.round := rfl
@[simp] theorem pushWrite_mem (w : LinkWrite) : (pushWrite s w).mem = s.mem := rfl
@[simp] theorem pushWrite_power (w : LinkWrite) : (pushWrite s w).power = s.power := rfl
@[simp] theorem pushWrite_fuses (w : LinkWrite) : (pushWrite s w).fuses = s.fuses := rfl
@[simp] theorem pushWrite_aon (w : LinkWrite) : (pushWrite s w).aon = s.aon := rfl
@[simp] theorem pushWrite_irq (w : LinkWrite) : (pushWrite s w).irq = s.irq := rfl
@[simp] theorem pushWrite_seats (w : LinkWrite) : (pushWrite s w).seats = s.seats := rfl
@[simp] theorem pushWrite_kitty (w : LinkWrite) : (pushWrite s w).kitty = s.kitty := rfl
@[simp] theorem pushWrite_dealer (w : LinkWrite) : (pushWrite s w).dealer = s.dealer := rfl
@[simp] theorem pushWrite_lanes (w : LinkWrite) : (pushWrite s w).lanes = s.lanes := rfl
@[simp] theorem pushWrite_records (w : LinkWrite) : (pushWrite s w).records = s.records := rfl
@[simp] theorem pushWrite_engines (w : LinkWrite) : (pushWrite s w).engines = s.engines := rfl
@[simp] theorem pushWrite_keys (w : LinkWrite) : (pushWrite s w).keys = s.keys := rfl
@[simp] theorem pushWrite_rng (w : LinkWrite) : (pushWrite s w).rng = s.rng := rfl
@[simp] theorem pushWrite_prot (w : LinkWrite) : (pushWrite s w).prot = s.prot := rfl
@[simp] theorem pushWrite_house (w : LinkWrite) : (pushWrite s w).house = s.house := rfl
@[simp] theorem pushWrite_slots (w : LinkWrite) : (pushWrite s w).slots = s.slots := rfl
@[simp] theorem pushWrite_quorum (w : LinkWrite) : (pushWrite s w).quorum = s.quorum := rfl
@[simp] theorem pushWrite_cnt (w : LinkWrite) : (pushWrite s w).cnt = s.cnt := rfl
@[simp] theorem pushWrite_answer (w : LinkWrite) : (pushWrite s w).answer = s.answer := rfl

/-! sendMsi -/

@[simp] theorem sendMsi_pending (f : Func) (v : BitVec 11) : (sendMsi s f v).pending = s.pending := by simp only [sendMsi]; (repeat' split) <;> simp
@[simp] theorem sendMsi_round (f : Func) (v : BitVec 11) : (sendMsi s f v).round = s.round := by simp only [sendMsi]; (repeat' split) <;> simp
@[simp] theorem sendMsi_mem (f : Func) (v : BitVec 11) : (sendMsi s f v).mem = s.mem := by simp only [sendMsi]; (repeat' split) <;> simp
@[simp] theorem sendMsi_power (f : Func) (v : BitVec 11) : (sendMsi s f v).power = s.power := by simp only [sendMsi]; (repeat' split) <;> simp
@[simp] theorem sendMsi_fuses (f : Func) (v : BitVec 11) : (sendMsi s f v).fuses = s.fuses := by simp only [sendMsi]; (repeat' split) <;> simp
@[simp] theorem sendMsi_aon (f : Func) (v : BitVec 11) : (sendMsi s f v).aon = s.aon := by simp only [sendMsi]; (repeat' split) <;> simp
@[simp] theorem sendMsi_irq (f : Func) (v : BitVec 11) : (sendMsi s f v).irq = s.irq := by simp only [sendMsi]; (repeat' split) <;> simp
@[simp] theorem sendMsi_seats (f : Func) (v : BitVec 11) : (sendMsi s f v).seats = s.seats := by simp only [sendMsi]; (repeat' split) <;> simp
@[simp] theorem sendMsi_kitty (f : Func) (v : BitVec 11) : (sendMsi s f v).kitty = s.kitty := by simp only [sendMsi]; (repeat' split) <;> simp
@[simp] theorem sendMsi_dealer (f : Func) (v : BitVec 11) : (sendMsi s f v).dealer = s.dealer := by simp only [sendMsi]; (repeat' split) <;> simp
@[simp] theorem sendMsi_lanes (f : Func) (v : BitVec 11) : (sendMsi s f v).lanes = s.lanes := by simp only [sendMsi]; (repeat' split) <;> simp
@[simp] theorem sendMsi_records (f : Func) (v : BitVec 11) : (sendMsi s f v).records = s.records := by simp only [sendMsi]; (repeat' split) <;> simp
@[simp] theorem sendMsi_engines (f : Func) (v : BitVec 11) : (sendMsi s f v).engines = s.engines := by simp only [sendMsi]; (repeat' split) <;> simp
@[simp] theorem sendMsi_keys (f : Func) (v : BitVec 11) : (sendMsi s f v).keys = s.keys := by simp only [sendMsi]; (repeat' split) <;> simp
@[simp] theorem sendMsi_rng (f : Func) (v : BitVec 11) : (sendMsi s f v).rng = s.rng := by simp only [sendMsi]; (repeat' split) <;> simp
@[simp] theorem sendMsi_prot (f : Func) (v : BitVec 11) : (sendMsi s f v).prot = s.prot := by simp only [sendMsi]; (repeat' split) <;> simp
@[simp] theorem sendMsi_house (f : Func) (v : BitVec 11) : (sendMsi s f v).house = s.house := by simp only [sendMsi]; (repeat' split) <;> simp
@[simp] theorem sendMsi_slots (f : Func) (v : BitVec 11) : (sendMsi s f v).slots = s.slots := by simp only [sendMsi]; (repeat' split) <;> simp
@[simp] theorem sendMsi_quorum (f : Func) (v : BitVec 11) : (sendMsi s f v).quorum = s.quorum := by simp only [sendMsi]; (repeat' split) <;> simp
@[simp] theorem sendMsi_cnt (f : Func) (v : BitVec 11) : (sendMsi s f v).cnt = s.cnt := by simp only [sendMsi]; (repeat' split) <;> simp
@[simp] theorem sendMsi_answer (f : Func) (v : BitVec 11) : (sendMsi s f v).answer = s.answer := by simp only [sendMsi]; (repeat' split) <;> simp

/-! raiseIrq -/

@[simp] theorem raiseIrq_pending (pl b : Nat) (again : Bool) : (raiseIrq s pl b again).pending = s.pending := by simp only [raiseIrq]; (repeat' split) <;> simp
@[simp] theorem raiseIrq_round (pl b : Nat) (again : Bool) : (raiseIrq s pl b again).round = s.round := by simp only [raiseIrq]; (repeat' split) <;> simp
@[simp] theorem raiseIrq_mem (pl b : Nat) (again : Bool) : (raiseIrq s pl b again).mem = s.mem := by simp only [raiseIrq]; (repeat' split) <;> simp
@[simp] theorem raiseIrq_power (pl b : Nat) (again : Bool) : (raiseIrq s pl b again).power = s.power := by simp only [raiseIrq]; (repeat' split) <;> simp
@[simp] theorem raiseIrq_fuses (pl b : Nat) (again : Bool) : (raiseIrq s pl b again).fuses = s.fuses := by simp only [raiseIrq]; (repeat' split) <;> simp
@[simp] theorem raiseIrq_aon (pl b : Nat) (again : Bool) : (raiseIrq s pl b again).aon = s.aon := by simp only [raiseIrq]; (repeat' split) <;> simp
@[simp] theorem raiseIrq_seats (pl b : Nat) (again : Bool) : (raiseIrq s pl b again).seats = s.seats := by simp only [raiseIrq]; (repeat' split) <;> simp
@[simp] theorem raiseIrq_kitty (pl b : Nat) (again : Bool) : (raiseIrq s pl b again).kitty = s.kitty := by simp only [raiseIrq]; (repeat' split) <;> simp
@[simp] theorem raiseIrq_dealer (pl b : Nat) (again : Bool) : (raiseIrq s pl b again).dealer = s.dealer := by simp only [raiseIrq]; (repeat' split) <;> simp
@[simp] theorem raiseIrq_lanes (pl b : Nat) (again : Bool) : (raiseIrq s pl b again).lanes = s.lanes := by simp only [raiseIrq]; (repeat' split) <;> simp
@[simp] theorem raiseIrq_records (pl b : Nat) (again : Bool) : (raiseIrq s pl b again).records = s.records := by simp only [raiseIrq]; (repeat' split) <;> simp
@[simp] theorem raiseIrq_engines (pl b : Nat) (again : Bool) : (raiseIrq s pl b again).engines = s.engines := by simp only [raiseIrq]; (repeat' split) <;> simp
@[simp] theorem raiseIrq_keys (pl b : Nat) (again : Bool) : (raiseIrq s pl b again).keys = s.keys := by simp only [raiseIrq]; (repeat' split) <;> simp
@[simp] theorem raiseIrq_rng (pl b : Nat) (again : Bool) : (raiseIrq s pl b again).rng = s.rng := by simp only [raiseIrq]; (repeat' split) <;> simp
@[simp] theorem raiseIrq_prot (pl b : Nat) (again : Bool) : (raiseIrq s pl b again).prot = s.prot := by simp only [raiseIrq]; (repeat' split) <;> simp
@[simp] theorem raiseIrq_house (pl b : Nat) (again : Bool) : (raiseIrq s pl b again).house = s.house := by simp only [raiseIrq]; (repeat' split) <;> simp
@[simp] theorem raiseIrq_slots (pl b : Nat) (again : Bool) : (raiseIrq s pl b again).slots = s.slots := by simp only [raiseIrq]; (repeat' split) <;> simp
@[simp] theorem raiseIrq_quorum (pl b : Nat) (again : Bool) : (raiseIrq s pl b again).quorum = s.quorum := by simp only [raiseIrq]; (repeat' split) <;> simp
@[simp] theorem raiseIrq_cnt (pl b : Nat) (again : Bool) : (raiseIrq s pl b again).cnt = s.cnt := by simp only [raiseIrq]; (repeat' split) <;> simp
@[simp] theorem raiseIrq_answer (pl b : Nat) (again : Bool) : (raiseIrq s pl b again).answer = s.answer := by simp only [raiseIrq]; (repeat' split) <;> simp

/-! accessErr -/

@[simp] theorem accessErr_pending (f : Func) (info : Word) : (accessErr s f info).pending = s.pending := by simp only [accessErr]; (repeat' split) <;> simp
@[simp] theorem accessErr_round (f : Func) (info : Word) : (accessErr s f info).round = s.round := by simp only [accessErr]; (repeat' split) <;> simp
@[simp] theorem accessErr_mem (f : Func) (info : Word) : (accessErr s f info).mem = s.mem := by simp only [accessErr]; (repeat' split) <;> simp
@[simp] theorem accessErr_power (f : Func) (info : Word) : (accessErr s f info).power = s.power := by simp only [accessErr]; (repeat' split) <;> simp
@[simp] theorem accessErr_fuses (f : Func) (info : Word) : (accessErr s f info).fuses = s.fuses := by simp only [accessErr]; (repeat' split) <;> simp
@[simp] theorem accessErr_aon (f : Func) (info : Word) : (accessErr s f info).aon = s.aon := by simp only [accessErr]; (repeat' split) <;> simp
@[simp] theorem accessErr_seats (f : Func) (info : Word) : (accessErr s f info).seats = s.seats := by simp only [accessErr]; (repeat' split) <;> simp
@[simp] theorem accessErr_kitty (f : Func) (info : Word) : (accessErr s f info).kitty = s.kitty := by simp only [accessErr]; (repeat' split) <;> simp
@[simp] theorem accessErr_dealer (f : Func) (info : Word) : (accessErr s f info).dealer = s.dealer := by simp only [accessErr]; (repeat' split) <;> simp
@[simp] theorem accessErr_lanes (f : Func) (info : Word) : (accessErr s f info).lanes = s.lanes := by simp only [accessErr]; (repeat' split) <;> simp
@[simp] theorem accessErr_records (f : Func) (info : Word) : (accessErr s f info).records = s.records := by simp only [accessErr]; (repeat' split) <;> simp
@[simp] theorem accessErr_engines (f : Func) (info : Word) : (accessErr s f info).engines = s.engines := by simp only [accessErr]; (repeat' split) <;> simp
@[simp] theorem accessErr_keys (f : Func) (info : Word) : (accessErr s f info).keys = s.keys := by simp only [accessErr]; (repeat' split) <;> simp
@[simp] theorem accessErr_rng (f : Func) (info : Word) : (accessErr s f info).rng = s.rng := by simp only [accessErr]; (repeat' split) <;> simp
@[simp] theorem accessErr_prot (f : Func) (info : Word) : (accessErr s f info).prot = s.prot := by simp only [accessErr]; (repeat' split) <;> simp
@[simp] theorem accessErr_house (f : Func) (info : Word) : (accessErr s f info).house = s.house := by simp only [accessErr]; (repeat' split) <;> simp
@[simp] theorem accessErr_slots (f : Func) (info : Word) : (accessErr s f info).slots = s.slots := by simp only [accessErr]; (repeat' split) <;> simp
@[simp] theorem accessErr_quorum (f : Func) (info : Word) : (accessErr s f info).quorum = s.quorum := by simp only [accessErr]; (repeat' split) <;> simp
@[simp] theorem accessErr_cnt (f : Func) (info : Word) : (accessErr s f info).cnt = s.cnt := by simp only [accessErr]; (repeat' split) <;> simp
@[simp] theorem accessErr_answer (f : Func) (info : Word) : (accessErr s f info).answer = s.answer := by simp only [accessErr]; (repeat' split) <;> simp

/-! regErr -/

@[simp] theorem regErr_pending (f : Func) (off : Nat) : (regErr s f off).pending = s.pending := by simp only [regErr]; (repeat' split) <;> simp
@[simp] theorem regErr_round (f : Func) (off : Nat) : (regErr s f off).round = s.round := by simp only [regErr]; (repeat' split) <;> simp
@[simp] theorem regErr_mem (f : Func) (off : Nat) : (regErr s f off).mem = s.mem := by simp only [regErr]; (repeat' split) <;> simp
@[simp] theorem regErr_power (f : Func) (off : Nat) : (regErr s f off).power = s.power := by simp only [regErr]; (repeat' split) <;> simp
@[simp] theorem regErr_fuses (f : Func) (off : Nat) : (regErr s f off).fuses = s.fuses := by simp only [regErr]; (repeat' split) <;> simp
@[simp] theorem regErr_aon (f : Func) (off : Nat) : (regErr s f off).aon = s.aon := by simp only [regErr]; (repeat' split) <;> simp
@[simp] theorem regErr_seats (f : Func) (off : Nat) : (regErr s f off).seats = s.seats := by simp only [regErr]; (repeat' split) <;> simp
@[simp] theorem regErr_kitty (f : Func) (off : Nat) : (regErr s f off).kitty = s.kitty := by simp only [regErr]; (repeat' split) <;> simp
@[simp] theorem regErr_dealer (f : Func) (off : Nat) : (regErr s f off).dealer = s.dealer := by simp only [regErr]; (repeat' split) <;> simp
@[simp] theorem regErr_lanes (f : Func) (off : Nat) : (regErr s f off).lanes = s.lanes := by simp only [regErr]; (repeat' split) <;> simp
@[simp] theorem regErr_records (f : Func) (off : Nat) : (regErr s f off).records = s.records := by simp only [regErr]; (repeat' split) <;> simp
@[simp] theorem regErr_engines (f : Func) (off : Nat) : (regErr s f off).engines = s.engines := by simp only [regErr]; (repeat' split) <;> simp
@[simp] theorem regErr_keys (f : Func) (off : Nat) : (regErr s f off).keys = s.keys := by simp only [regErr]; (repeat' split) <;> simp
@[simp] theorem regErr_rng (f : Func) (off : Nat) : (regErr s f off).rng = s.rng := by simp only [regErr]; (repeat' split) <;> simp
@[simp] theorem regErr_prot (f : Func) (off : Nat) : (regErr s f off).prot = s.prot := by simp only [regErr]; (repeat' split) <;> simp
@[simp] theorem regErr_house (f : Func) (off : Nat) : (regErr s f off).house = s.house := by simp only [regErr]; (repeat' split) <;> simp
@[simp] theorem regErr_slots (f : Func) (off : Nat) : (regErr s f off).slots = s.slots := by simp only [regErr]; (repeat' split) <;> simp
@[simp] theorem regErr_quorum (f : Func) (off : Nat) : (regErr s f off).quorum = s.quorum := by simp only [regErr]; (repeat' split) <;> simp
@[simp] theorem regErr_cnt (f : Func) (off : Nat) : (regErr s f off).cnt = s.cnt := by simp only [regErr]; (repeat' split) <;> simp
@[simp] theorem regErr_answer (f : Func) (off : Nat) : (regErr s f off).answer = s.answer := by simp only [regErr]; (repeat' split) <;> simp

/-! bar4Err -/

@[simp] theorem bar4Err_pending (f : Func) (off : Nat) : (bar4Err s f off).pending = s.pending := by simp only [bar4Err]; (repeat' split) <;> simp
@[simp] theorem bar4Err_round (f : Func) (off : Nat) : (bar4Err s f off).round = s.round := by simp only [bar4Err]; (repeat' split) <;> simp
@[simp] theorem bar4Err_mem (f : Func) (off : Nat) : (bar4Err s f off).mem = s.mem := by simp only [bar4Err]; (repeat' split) <;> simp
@[simp] theorem bar4Err_power (f : Func) (off : Nat) : (bar4Err s f off).power = s.power := by simp only [bar4Err]; (repeat' split) <;> simp
@[simp] theorem bar4Err_fuses (f : Func) (off : Nat) : (bar4Err s f off).fuses = s.fuses := by simp only [bar4Err]; (repeat' split) <;> simp
@[simp] theorem bar4Err_aon (f : Func) (off : Nat) : (bar4Err s f off).aon = s.aon := by simp only [bar4Err]; (repeat' split) <;> simp
@[simp] theorem bar4Err_seats (f : Func) (off : Nat) : (bar4Err s f off).seats = s.seats := by simp only [bar4Err]; (repeat' split) <;> simp
@[simp] theorem bar4Err_kitty (f : Func) (off : Nat) : (bar4Err s f off).kitty = s.kitty := by simp only [bar4Err]; (repeat' split) <;> simp
@[simp] theorem bar4Err_dealer (f : Func) (off : Nat) : (bar4Err s f off).dealer = s.dealer := by simp only [bar4Err]; (repeat' split) <;> simp
@[simp] theorem bar4Err_lanes (f : Func) (off : Nat) : (bar4Err s f off).lanes = s.lanes := by simp only [bar4Err]; (repeat' split) <;> simp
@[simp] theorem bar4Err_records (f : Func) (off : Nat) : (bar4Err s f off).records = s.records := by simp only [bar4Err]; (repeat' split) <;> simp
@[simp] theorem bar4Err_engines (f : Func) (off : Nat) : (bar4Err s f off).engines = s.engines := by simp only [bar4Err]; (repeat' split) <;> simp
@[simp] theorem bar4Err_keys (f : Func) (off : Nat) : (bar4Err s f off).keys = s.keys := by simp only [bar4Err]; (repeat' split) <;> simp
@[simp] theorem bar4Err_rng (f : Func) (off : Nat) : (bar4Err s f off).rng = s.rng := by simp only [bar4Err]; (repeat' split) <;> simp
@[simp] theorem bar4Err_prot (f : Func) (off : Nat) : (bar4Err s f off).prot = s.prot := by simp only [bar4Err]; (repeat' split) <;> simp
@[simp] theorem bar4Err_house (f : Func) (off : Nat) : (bar4Err s f off).house = s.house := by simp only [bar4Err]; (repeat' split) <;> simp
@[simp] theorem bar4Err_slots (f : Func) (off : Nat) : (bar4Err s f off).slots = s.slots := by simp only [bar4Err]; (repeat' split) <;> simp
@[simp] theorem bar4Err_quorum (f : Func) (off : Nat) : (bar4Err s f off).quorum = s.quorum := by simp only [bar4Err]; (repeat' split) <;> simp
@[simp] theorem bar4Err_cnt (f : Func) (off : Nat) : (bar4Err s f off).cnt = s.cnt := by simp only [bar4Err]; (repeat' split) <;> simp
@[simp] theorem bar4Err_answer (f : Func) (off : Nat) : (bar4Err s f off).answer = s.answer := by simp only [bar4Err]; (repeat' split) <;> simp

/-! raiseAll -/

@[simp] theorem raiseAll_pending (b : Nat) : (raiseAll s b).pending = s.pending := foldl_same _ _ (fun _ _ => by simp) _ _
@[simp] theorem raiseAll_round (b : Nat) : (raiseAll s b).round = s.round := foldl_same _ _ (fun _ _ => by simp) _ _
@[simp] theorem raiseAll_mem (b : Nat) : (raiseAll s b).mem = s.mem := foldl_same _ _ (fun _ _ => by simp) _ _
@[simp] theorem raiseAll_power (b : Nat) : (raiseAll s b).power = s.power := foldl_same _ _ (fun _ _ => by simp) _ _
@[simp] theorem raiseAll_fuses (b : Nat) : (raiseAll s b).fuses = s.fuses := foldl_same _ _ (fun _ _ => by simp) _ _
@[simp] theorem raiseAll_aon (b : Nat) : (raiseAll s b).aon = s.aon := foldl_same _ _ (fun _ _ => by simp) _ _
@[simp] theorem raiseAll_seats (b : Nat) : (raiseAll s b).seats = s.seats := foldl_same _ _ (fun _ _ => by simp) _ _
@[simp] theorem raiseAll_kitty (b : Nat) : (raiseAll s b).kitty = s.kitty := foldl_same _ _ (fun _ _ => by simp) _ _
@[simp] theorem raiseAll_dealer (b : Nat) : (raiseAll s b).dealer = s.dealer := foldl_same _ _ (fun _ _ => by simp) _ _
@[simp] theorem raiseAll_lanes (b : Nat) : (raiseAll s b).lanes = s.lanes := foldl_same _ _ (fun _ _ => by simp) _ _
@[simp] theorem raiseAll_records (b : Nat) : (raiseAll s b).records = s.records := foldl_same _ _ (fun _ _ => by simp) _ _
@[simp] theorem raiseAll_engines (b : Nat) : (raiseAll s b).engines = s.engines := foldl_same _ _ (fun _ _ => by simp) _ _
@[simp] theorem raiseAll_keys (b : Nat) : (raiseAll s b).keys = s.keys := foldl_same _ _ (fun _ _ => by simp) _ _
@[simp] theorem raiseAll_rng (b : Nat) : (raiseAll s b).rng = s.rng := foldl_same _ _ (fun _ _ => by simp) _ _
@[simp] theorem raiseAll_prot (b : Nat) : (raiseAll s b).prot = s.prot := foldl_same _ _ (fun _ _ => by simp) _ _
@[simp] theorem raiseAll_house (b : Nat) : (raiseAll s b).house = s.house := foldl_same _ _ (fun _ _ => by simp) _ _
@[simp] theorem raiseAll_slots (b : Nat) : (raiseAll s b).slots = s.slots := foldl_same _ _ (fun _ _ => by simp) _ _
@[simp] theorem raiseAll_quorum (b : Nat) : (raiseAll s b).quorum = s.quorum := foldl_same _ _ (fun _ _ => by simp) _ _
@[simp] theorem raiseAll_cnt (b : Nat) : (raiseAll s b).cnt = s.cnt := foldl_same _ _ (fun _ _ => by simp) _ _
@[simp] theorem raiseAll_answer (b : Nat) : (raiseAll s b).answer = s.answer := foldl_same _ _ (fun _ _ => by simp) _ _

/-! bucketUp -/

@[simp] theorem bucketUp_pending (mem v : Nat) : (bucketUp s mem v).pending = s.pending := by simp only [bucketUp]; (repeat' split) <;> simp
@[simp] theorem bucketUp_round (mem v : Nat) : (bucketUp s mem v).round = s.round := by simp only [bucketUp]; (repeat' split) <;> simp
@[simp] theorem bucketUp_mem (mem v : Nat) : (bucketUp s mem v).mem = s.mem := by simp only [bucketUp]; (repeat' split) <;> simp
@[simp] theorem bucketUp_power (mem v : Nat) : (bucketUp s mem v).power = s.power := by simp only [bucketUp]; (repeat' split) <;> simp
@[simp] theorem bucketUp_fuses (mem v : Nat) : (bucketUp s mem v).fuses = s.fuses := by simp only [bucketUp]; (repeat' split) <;> simp
@[simp] theorem bucketUp_aon (mem v : Nat) : (bucketUp s mem v).aon = s.aon := by simp only [bucketUp]; (repeat' split) <;> simp
@[simp] theorem bucketUp_seats (mem v : Nat) : (bucketUp s mem v).seats = s.seats := by simp only [bucketUp]; (repeat' split) <;> simp
@[simp] theorem bucketUp_kitty (mem v : Nat) : (bucketUp s mem v).kitty = s.kitty := by simp only [bucketUp]; (repeat' split) <;> simp
@[simp] theorem bucketUp_dealer (mem v : Nat) : (bucketUp s mem v).dealer = s.dealer := by simp only [bucketUp]; (repeat' split) <;> simp
@[simp] theorem bucketUp_lanes (mem v : Nat) : (bucketUp s mem v).lanes = s.lanes := by simp only [bucketUp]; (repeat' split) <;> simp
@[simp] theorem bucketUp_records (mem v : Nat) : (bucketUp s mem v).records = s.records := by simp only [bucketUp]; (repeat' split) <;> simp
@[simp] theorem bucketUp_engines (mem v : Nat) : (bucketUp s mem v).engines = s.engines := by simp only [bucketUp]; (repeat' split) <;> simp
@[simp] theorem bucketUp_keys (mem v : Nat) : (bucketUp s mem v).keys = s.keys := by simp only [bucketUp]; (repeat' split) <;> simp
@[simp] theorem bucketUp_rng (mem v : Nat) : (bucketUp s mem v).rng = s.rng := by simp only [bucketUp]; (repeat' split) <;> simp
@[simp] theorem bucketUp_house (mem v : Nat) : (bucketUp s mem v).house = s.house := by simp only [bucketUp]; (repeat' split) <;> simp
@[simp] theorem bucketUp_slots (mem v : Nat) : (bucketUp s mem v).slots = s.slots := by simp only [bucketUp]; (repeat' split) <;> simp
@[simp] theorem bucketUp_quorum (mem v : Nat) : (bucketUp s mem v).quorum = s.quorum := by simp only [bucketUp]; (repeat' split) <;> simp
@[simp] theorem bucketUp_cnt (mem v : Nat) : (bucketUp s mem v).cnt = s.cnt := by simp only [bucketUp]; (repeat' split) <;> simp
@[simp] theorem bucketUp_answer (mem v : Nat) : (bucketUp s mem v).answer = s.answer := by simp only [bucketUp]; (repeat' split) <;> simp

/-! recordUe -/

@[simp] theorem recordUe_pending (mem word : Nat) (tag : Bool) : (recordUe s mem word tag).pending = s.pending := by simp only [recordUe]; (repeat' split) <;> simp
@[simp] theorem recordUe_round (mem word : Nat) (tag : Bool) : (recordUe s mem word tag).round = s.round := by simp only [recordUe]; (repeat' split) <;> simp
@[simp] theorem recordUe_mem (mem word : Nat) (tag : Bool) : (recordUe s mem word tag).mem = s.mem := by simp only [recordUe]; (repeat' split) <;> simp
@[simp] theorem recordUe_power (mem word : Nat) (tag : Bool) : (recordUe s mem word tag).power = s.power := by simp only [recordUe]; (repeat' split) <;> simp
@[simp] theorem recordUe_fuses (mem word : Nat) (tag : Bool) : (recordUe s mem word tag).fuses = s.fuses := by simp only [recordUe]; (repeat' split) <;> simp
@[simp] theorem recordUe_aon (mem word : Nat) (tag : Bool) : (recordUe s mem word tag).aon = s.aon := by simp only [recordUe]; (repeat' split) <;> simp
@[simp] theorem recordUe_seats (mem word : Nat) (tag : Bool) : (recordUe s mem word tag).seats = s.seats := by simp only [recordUe]; (repeat' split) <;> simp
@[simp] theorem recordUe_kitty (mem word : Nat) (tag : Bool) : (recordUe s mem word tag).kitty = s.kitty := by simp only [recordUe]; (repeat' split) <;> simp
@[simp] theorem recordUe_dealer (mem word : Nat) (tag : Bool) : (recordUe s mem word tag).dealer = s.dealer := by simp only [recordUe]; (repeat' split) <;> simp
@[simp] theorem recordUe_lanes (mem word : Nat) (tag : Bool) : (recordUe s mem word tag).lanes = s.lanes := by simp only [recordUe]; (repeat' split) <;> simp
@[simp] theorem recordUe_records (mem word : Nat) (tag : Bool) : (recordUe s mem word tag).records = s.records := by simp only [recordUe]; (repeat' split) <;> simp
@[simp] theorem recordUe_engines (mem word : Nat) (tag : Bool) : (recordUe s mem word tag).engines = s.engines := by simp only [recordUe]; (repeat' split) <;> simp
@[simp] theorem recordUe_keys (mem word : Nat) (tag : Bool) : (recordUe s mem word tag).keys = s.keys := by simp only [recordUe]; (repeat' split) <;> simp
@[simp] theorem recordUe_rng (mem word : Nat) (tag : Bool) : (recordUe s mem word tag).rng = s.rng := by simp only [recordUe]; (repeat' split) <;> simp
@[simp] theorem recordUe_house (mem word : Nat) (tag : Bool) : (recordUe s mem word tag).house = s.house := by simp only [recordUe]; (repeat' split) <;> simp
@[simp] theorem recordUe_slots (mem word : Nat) (tag : Bool) : (recordUe s mem word tag).slots = s.slots := by simp only [recordUe]; (repeat' split) <;> simp
@[simp] theorem recordUe_quorum (mem word : Nat) (tag : Bool) : (recordUe s mem word tag).quorum = s.quorum := by simp only [recordUe]; (repeat' split) <;> simp
@[simp] theorem recordUe_cnt (mem word : Nat) (tag : Bool) : (recordUe s mem word tag).cnt = s.cnt := by simp only [recordUe]; (repeat' split) <;> simp
@[simp] theorem recordUe_answer (mem word : Nat) (tag : Bool) : (recordUe s mem word tag).answer = s.answer := by simp only [recordUe]; (repeat' split) <;> simp

/-! recordCe -/

@[simp] theorem recordCe_pending (k : Nat) : (recordCe s k).pending = s.pending := by simp only [recordCe]; (repeat' split) <;> simp
@[simp] theorem recordCe_round (k : Nat) : (recordCe s k).round = s.round := by simp only [recordCe]; (repeat' split) <;> simp
@[simp] theorem recordCe_mem (k : Nat) : (recordCe s k).mem = s.mem := by simp only [recordCe]; (repeat' split) <;> simp
@[simp] theorem recordCe_power (k : Nat) : (recordCe s k).power = s.power := by simp only [recordCe]; (repeat' split) <;> simp
@[simp] theorem recordCe_fuses (k : Nat) : (recordCe s k).fuses = s.fuses := by simp only [recordCe]; (repeat' split) <;> simp
@[simp] theorem recordCe_aon (k : Nat) : (recordCe s k).aon = s.aon := by simp only [recordCe]; (repeat' split) <;> simp
@[simp] theorem recordCe_seats (k : Nat) : (recordCe s k).seats = s.seats := by simp only [recordCe]; (repeat' split) <;> simp
@[simp] theorem recordCe_kitty (k : Nat) : (recordCe s k).kitty = s.kitty := by simp only [recordCe]; (repeat' split) <;> simp
@[simp] theorem recordCe_dealer (k : Nat) : (recordCe s k).dealer = s.dealer := by simp only [recordCe]; (repeat' split) <;> simp
@[simp] theorem recordCe_lanes (k : Nat) : (recordCe s k).lanes = s.lanes := by simp only [recordCe]; (repeat' split) <;> simp
@[simp] theorem recordCe_records (k : Nat) : (recordCe s k).records = s.records := by simp only [recordCe]; (repeat' split) <;> simp
@[simp] theorem recordCe_engines (k : Nat) : (recordCe s k).engines = s.engines := by simp only [recordCe]; (repeat' split) <;> simp
@[simp] theorem recordCe_keys (k : Nat) : (recordCe s k).keys = s.keys := by simp only [recordCe]; (repeat' split) <;> simp
@[simp] theorem recordCe_rng (k : Nat) : (recordCe s k).rng = s.rng := by simp only [recordCe]; (repeat' split) <;> simp
@[simp] theorem recordCe_house (k : Nat) : (recordCe s k).house = s.house := by simp only [recordCe]; (repeat' split) <;> simp
@[simp] theorem recordCe_slots (k : Nat) : (recordCe s k).slots = s.slots := by simp only [recordCe]; (repeat' split) <;> simp
@[simp] theorem recordCe_quorum (k : Nat) : (recordCe s k).quorum = s.quorum := by simp only [recordCe]; (repeat' split) <;> simp
@[simp] theorem recordCe_cnt (k : Nat) : (recordCe s k).cnt = s.cnt := by simp only [recordCe]; (repeat' split) <;> simp
@[simp] theorem recordCe_answer (k : Nat) : (recordCe s k).answer = s.answer := by simp only [recordCe]; (repeat' split) <;> simp

/-! touchWords -/

@[simp] theorem touchWords_pending (ks : List Nat) : (touchWords s ks).pending = s.pending := foldl_same _ _ (fun _ _ => by split <;> simp) _ _
@[simp] theorem touchWords_round (ks : List Nat) : (touchWords s ks).round = s.round := foldl_same _ _ (fun _ _ => by split <;> simp) _ _
@[simp] theorem touchWords_mem (ks : List Nat) : (touchWords s ks).mem = s.mem := foldl_same _ _ (fun _ _ => by split <;> simp) _ _
@[simp] theorem touchWords_power (ks : List Nat) : (touchWords s ks).power = s.power := foldl_same _ _ (fun _ _ => by split <;> simp) _ _
@[simp] theorem touchWords_fuses (ks : List Nat) : (touchWords s ks).fuses = s.fuses := foldl_same _ _ (fun _ _ => by split <;> simp) _ _
@[simp] theorem touchWords_aon (ks : List Nat) : (touchWords s ks).aon = s.aon := foldl_same _ _ (fun _ _ => by split <;> simp) _ _
@[simp] theorem touchWords_seats (ks : List Nat) : (touchWords s ks).seats = s.seats := foldl_same _ _ (fun _ _ => by split <;> simp) _ _
@[simp] theorem touchWords_kitty (ks : List Nat) : (touchWords s ks).kitty = s.kitty := foldl_same _ _ (fun _ _ => by split <;> simp) _ _
@[simp] theorem touchWords_dealer (ks : List Nat) : (touchWords s ks).dealer = s.dealer := foldl_same _ _ (fun _ _ => by split <;> simp) _ _
@[simp] theorem touchWords_lanes (ks : List Nat) : (touchWords s ks).lanes = s.lanes := foldl_same _ _ (fun _ _ => by split <;> simp) _ _
@[simp] theorem touchWords_records (ks : List Nat) : (touchWords s ks).records = s.records := foldl_same _ _ (fun _ _ => by split <;> simp) _ _
@[simp] theorem touchWords_engines (ks : List Nat) : (touchWords s ks).engines = s.engines := foldl_same _ _ (fun _ _ => by split <;> simp) _ _
@[simp] theorem touchWords_keys (ks : List Nat) : (touchWords s ks).keys = s.keys := foldl_same _ _ (fun _ _ => by split <;> simp) _ _
@[simp] theorem touchWords_rng (ks : List Nat) : (touchWords s ks).rng = s.rng := foldl_same _ _ (fun _ _ => by split <;> simp) _ _
@[simp] theorem touchWords_house (ks : List Nat) : (touchWords s ks).house = s.house := foldl_same _ _ (fun _ _ => by split <;> simp) _ _
@[simp] theorem touchWords_slots (ks : List Nat) : (touchWords s ks).slots = s.slots := foldl_same _ _ (fun _ _ => by split <;> simp) _ _
@[simp] theorem touchWords_quorum (ks : List Nat) : (touchWords s ks).quorum = s.quorum := foldl_same _ _ (fun _ _ => by split <;> simp) _ _
@[simp] theorem touchWords_cnt (ks : List Nat) : (touchWords s ks).cnt = s.cnt := foldl_same _ _ (fun _ _ => by split <;> simp) _ _
@[simp] theorem touchWords_answer (ks : List Nat) : (touchWords s ks).answer = s.answer := foldl_same _ _ (fun _ _ => by split <;> simp) _ _

/-! store -/

@[simp] theorem store_pending (a : Nat) (b : Bytes) : (store s a b).pending = s.pending := rfl
@[simp] theorem store_round (a : Nat) (b : Bytes) : (store s a b).round = s.round := rfl
@[simp] theorem store_power (a : Nat) (b : Bytes) : (store s a b).power = s.power := rfl
@[simp] theorem store_fuses (a : Nat) (b : Bytes) : (store s a b).fuses = s.fuses := rfl
@[simp] theorem store_aon (a : Nat) (b : Bytes) : (store s a b).aon = s.aon := rfl
@[simp] theorem store_link (a : Nat) (b : Bytes) : (store s a b).link = s.link := rfl
@[simp] theorem store_irq (a : Nat) (b : Bytes) : (store s a b).irq = s.irq := rfl
@[simp] theorem store_seats (a : Nat) (b : Bytes) : (store s a b).seats = s.seats := rfl
@[simp] theorem store_kitty (a : Nat) (b : Bytes) : (store s a b).kitty = s.kitty := rfl
@[simp] theorem store_dealer (a : Nat) (b : Bytes) : (store s a b).dealer = s.dealer := rfl
@[simp] theorem store_lanes (a : Nat) (b : Bytes) : (store s a b).lanes = s.lanes := rfl
@[simp] theorem store_records (a : Nat) (b : Bytes) : (store s a b).records = s.records := rfl
@[simp] theorem store_engines (a : Nat) (b : Bytes) : (store s a b).engines = s.engines := rfl
@[simp] theorem store_keys (a : Nat) (b : Bytes) : (store s a b).keys = s.keys := rfl
@[simp] theorem store_rng (a : Nat) (b : Bytes) : (store s a b).rng = s.rng := rfl
@[simp] theorem store_house (a : Nat) (b : Bytes) : (store s a b).house = s.house := rfl
@[simp] theorem store_slots (a : Nat) (b : Bytes) : (store s a b).slots = s.slots := rfl
@[simp] theorem store_quorum (a : Nat) (b : Bytes) : (store s a b).quorum = s.quorum := rfl
@[simp] theorem store_cnt (a : Nat) (b : Bytes) : (store s a b).cnt = s.cnt := rfl
@[simp] theorem store_answer (a : Nat) (b : Bytes) : (store s a b).answer = s.answer := rfl

/-! tagGranules -/

@[simp] theorem tagGranules_pending (g n : Nat) (suit : BitVec 16) : (tagGranules s g n suit).pending = s.pending := rfl
@[simp] theorem tagGranules_round (g n : Nat) (suit : BitVec 16) : (tagGranules s g n suit).round = s.round := rfl
@[simp] theorem tagGranules_mem (g n : Nat) (suit : BitVec 16) : (tagGranules s g n suit).mem = s.mem := rfl
@[simp] theorem tagGranules_power (g n : Nat) (suit : BitVec 16) : (tagGranules s g n suit).power = s.power := rfl
@[simp] theorem tagGranules_fuses (g n : Nat) (suit : BitVec 16) : (tagGranules s g n suit).fuses = s.fuses := rfl
@[simp] theorem tagGranules_aon (g n : Nat) (suit : BitVec 16) : (tagGranules s g n suit).aon = s.aon := rfl
@[simp] theorem tagGranules_link (g n : Nat) (suit : BitVec 16) : (tagGranules s g n suit).link = s.link := rfl
@[simp] theorem tagGranules_irq (g n : Nat) (suit : BitVec 16) : (tagGranules s g n suit).irq = s.irq := rfl
@[simp] theorem tagGranules_seats (g n : Nat) (suit : BitVec 16) : (tagGranules s g n suit).seats = s.seats := rfl
@[simp] theorem tagGranules_kitty (g n : Nat) (suit : BitVec 16) : (tagGranules s g n suit).kitty = s.kitty := rfl
@[simp] theorem tagGranules_dealer (g n : Nat) (suit : BitVec 16) : (tagGranules s g n suit).dealer = s.dealer := rfl
@[simp] theorem tagGranules_lanes (g n : Nat) (suit : BitVec 16) : (tagGranules s g n suit).lanes = s.lanes := rfl
@[simp] theorem tagGranules_records (g n : Nat) (suit : BitVec 16) : (tagGranules s g n suit).records = s.records := rfl
@[simp] theorem tagGranules_engines (g n : Nat) (suit : BitVec 16) : (tagGranules s g n suit).engines = s.engines := rfl
@[simp] theorem tagGranules_keys (g n : Nat) (suit : BitVec 16) : (tagGranules s g n suit).keys = s.keys := rfl
@[simp] theorem tagGranules_rng (g n : Nat) (suit : BitVec 16) : (tagGranules s g n suit).rng = s.rng := rfl
@[simp] theorem tagGranules_house (g n : Nat) (suit : BitVec 16) : (tagGranules s g n suit).house = s.house := rfl
@[simp] theorem tagGranules_slots (g n : Nat) (suit : BitVec 16) : (tagGranules s g n suit).slots = s.slots := rfl
@[simp] theorem tagGranules_quorum (g n : Nat) (suit : BitVec 16) : (tagGranules s g n suit).quorum = s.quorum := rfl
@[simp] theorem tagGranules_cnt (g n : Nat) (suit : BitVec 16) : (tagGranules s g n suit).cnt = s.cnt := rfl
@[simp] theorem tagGranules_answer (g n : Nat) (suit : BitVec 16) : (tagGranules s g n suit).answer = s.answer := rfl

/-! touchTags, suitRefused -/

@[simp] theorem touchTags_pending (gs : List Nat) : (touchTags s gs).pending = s.pending := foldl_same _ _ (fun _ _ => by split <;> simp) _ _
@[simp] theorem touchTags_round (gs : List Nat) : (touchTags s gs).round = s.round := foldl_same _ _ (fun _ _ => by split <;> simp) _ _
@[simp] theorem touchTags_mem (gs : List Nat) : (touchTags s gs).mem = s.mem := foldl_same _ _ (fun _ _ => by split <;> simp) _ _
@[simp] theorem touchTags_power (gs : List Nat) : (touchTags s gs).power = s.power := foldl_same _ _ (fun _ _ => by split <;> simp) _ _
@[simp] theorem touchTags_fuses (gs : List Nat) : (touchTags s gs).fuses = s.fuses := foldl_same _ _ (fun _ _ => by split <;> simp) _ _
@[simp] theorem touchTags_aon (gs : List Nat) : (touchTags s gs).aon = s.aon := foldl_same _ _ (fun _ _ => by split <;> simp) _ _
@[simp] theorem touchTags_seats (gs : List Nat) : (touchTags s gs).seats = s.seats := foldl_same _ _ (fun _ _ => by split <;> simp) _ _
@[simp] theorem touchTags_kitty (gs : List Nat) : (touchTags s gs).kitty = s.kitty := foldl_same _ _ (fun _ _ => by split <;> simp) _ _
@[simp] theorem touchTags_dealer (gs : List Nat) : (touchTags s gs).dealer = s.dealer := foldl_same _ _ (fun _ _ => by split <;> simp) _ _
@[simp] theorem touchTags_lanes (gs : List Nat) : (touchTags s gs).lanes = s.lanes := foldl_same _ _ (fun _ _ => by split <;> simp) _ _
@[simp] theorem touchTags_records (gs : List Nat) : (touchTags s gs).records = s.records := foldl_same _ _ (fun _ _ => by split <;> simp) _ _
@[simp] theorem touchTags_engines (gs : List Nat) : (touchTags s gs).engines = s.engines := foldl_same _ _ (fun _ _ => by split <;> simp) _ _
@[simp] theorem touchTags_keys (gs : List Nat) : (touchTags s gs).keys = s.keys := foldl_same _ _ (fun _ _ => by split <;> simp) _ _
@[simp] theorem touchTags_rng (gs : List Nat) : (touchTags s gs).rng = s.rng := foldl_same _ _ (fun _ _ => by split <;> simp) _ _
@[simp] theorem touchTags_house (gs : List Nat) : (touchTags s gs).house = s.house := foldl_same _ _ (fun _ _ => by split <;> simp) _ _
@[simp] theorem touchTags_slots (gs : List Nat) : (touchTags s gs).slots = s.slots := foldl_same _ _ (fun _ _ => by split <;> simp) _ _
@[simp] theorem touchTags_quorum (gs : List Nat) : (touchTags s gs).quorum = s.quorum := foldl_same _ _ (fun _ _ => by split <;> simp) _ _
@[simp] theorem touchTags_cnt (gs : List Nat) : (touchTags s gs).cnt = s.cnt := foldl_same _ _ (fun _ _ => by split <;> simp) _ _
@[simp] theorem touchTags_answer (gs : List Nat) : (touchTags s gs).answer = s.answer := foldl_same _ _ (fun _ _ => by split <;> simp) _ _

@[simp] theorem suitRefused_pending (gs : List Nat) : (suitRefused s gs).pending = s.pending := by simp [suitRefused]
@[simp] theorem suitRefused_round (gs : List Nat) : (suitRefused s gs).round = s.round := by simp [suitRefused]
@[simp] theorem suitRefused_mem (gs : List Nat) : (suitRefused s gs).mem = s.mem := by simp [suitRefused]
@[simp] theorem suitRefused_power (gs : List Nat) : (suitRefused s gs).power = s.power := by simp [suitRefused]
@[simp] theorem suitRefused_fuses (gs : List Nat) : (suitRefused s gs).fuses = s.fuses := by simp [suitRefused]
@[simp] theorem suitRefused_aon (gs : List Nat) : (suitRefused s gs).aon = s.aon := by simp [suitRefused]
@[simp] theorem suitRefused_seats (gs : List Nat) : (suitRefused s gs).seats = s.seats := by simp [suitRefused]
@[simp] theorem suitRefused_kitty (gs : List Nat) : (suitRefused s gs).kitty = s.kitty := by simp [suitRefused]
@[simp] theorem suitRefused_dealer (gs : List Nat) : (suitRefused s gs).dealer = s.dealer := by simp [suitRefused]
@[simp] theorem suitRefused_lanes (gs : List Nat) : (suitRefused s gs).lanes = s.lanes := by simp [suitRefused]
@[simp] theorem suitRefused_records (gs : List Nat) : (suitRefused s gs).records = s.records := by simp [suitRefused]
@[simp] theorem suitRefused_engines (gs : List Nat) : (suitRefused s gs).engines = s.engines := by simp [suitRefused]
@[simp] theorem suitRefused_keys (gs : List Nat) : (suitRefused s gs).keys = s.keys := by simp [suitRefused]
@[simp] theorem suitRefused_rng (gs : List Nat) : (suitRefused s gs).rng = s.rng := by simp [suitRefused]
@[simp] theorem suitRefused_house (gs : List Nat) : (suitRefused s gs).house = s.house := by simp [suitRefused]
@[simp] theorem suitRefused_slots (gs : List Nat) : (suitRefused s gs).slots = s.slots := by simp [suitRefused]
@[simp] theorem suitRefused_quorum (gs : List Nat) : (suitRefused s gs).quorum = s.quorum := by simp [suitRefused]
@[simp] theorem suitRefused_cnt (gs : List Nat) : (suitRefused s gs).cnt = s.cnt := by simp [suitRefused]
@[simp] theorem suitRefused_answer (gs : List Nat) : (suitRefused s gs).answer = s.answer := by simp [suitRefused]

/-! spanRefused -/

@[simp] theorem spanRefused_pending : (spanRefused s).pending = s.pending := rfl
@[simp] theorem spanRefused_round : (spanRefused s).round = s.round := rfl
@[simp] theorem spanRefused_mem : (spanRefused s).mem = s.mem := rfl
@[simp] theorem spanRefused_power : (spanRefused s).power = s.power := rfl
@[simp] theorem spanRefused_fuses : (spanRefused s).fuses = s.fuses := rfl
@[simp] theorem spanRefused_aon : (spanRefused s).aon = s.aon := rfl
@[simp] theorem spanRefused_link : (spanRefused s).link = s.link := rfl
@[simp] theorem spanRefused_irq : (spanRefused s).irq = s.irq := rfl
@[simp] theorem spanRefused_seats : (spanRefused s).seats = s.seats := rfl
@[simp] theorem spanRefused_kitty : (spanRefused s).kitty = s.kitty := rfl
@[simp] theorem spanRefused_dealer : (spanRefused s).dealer = s.dealer := rfl
@[simp] theorem spanRefused_lanes : (spanRefused s).lanes = s.lanes := rfl
@[simp] theorem spanRefused_records : (spanRefused s).records = s.records := rfl
@[simp] theorem spanRefused_engines : (spanRefused s).engines = s.engines := rfl
@[simp] theorem spanRefused_keys : (spanRefused s).keys = s.keys := rfl
@[simp] theorem spanRefused_rng : (spanRefused s).rng = s.rng := rfl
@[simp] theorem spanRefused_house : (spanRefused s).house = s.house := rfl
@[simp] theorem spanRefused_slots : (spanRefused s).slots = s.slots := rfl
@[simp] theorem spanRefused_quorum : (spanRefused s).quorum = s.quorum := rfl
@[simp] theorem spanRefused_cnt : (spanRefused s).cnt = s.cnt := rfl
@[simp] theorem spanRefused_answer : (spanRefused s).answer = s.answer := rfl

/-! logEvent -/

@[simp] theorem logEvent_pending (source : Nat) (resp : BitVec 7) (flags : Nat) (info : BitVec 32) : (logEvent s source resp flags info).pending = s.pending := rfl
@[simp] theorem logEvent_round (source : Nat) (resp : BitVec 7) (flags : Nat) (info : BitVec 32) : (logEvent s source resp flags info).round = s.round := rfl
@[simp] theorem logEvent_mem (source : Nat) (resp : BitVec 7) (flags : Nat) (info : BitVec 32) : (logEvent s source resp flags info).mem = s.mem := rfl
@[simp] theorem logEvent_power (source : Nat) (resp : BitVec 7) (flags : Nat) (info : BitVec 32) : (logEvent s source resp flags info).power = s.power := rfl
@[simp] theorem logEvent_fuses (source : Nat) (resp : BitVec 7) (flags : Nat) (info : BitVec 32) : (logEvent s source resp flags info).fuses = s.fuses := rfl
@[simp] theorem logEvent_link (source : Nat) (resp : BitVec 7) (flags : Nat) (info : BitVec 32) : (logEvent s source resp flags info).link = s.link := rfl
@[simp] theorem logEvent_irq (source : Nat) (resp : BitVec 7) (flags : Nat) (info : BitVec 32) : (logEvent s source resp flags info).irq = s.irq := rfl
@[simp] theorem logEvent_seats (source : Nat) (resp : BitVec 7) (flags : Nat) (info : BitVec 32) : (logEvent s source resp flags info).seats = s.seats := rfl
@[simp] theorem logEvent_kitty (source : Nat) (resp : BitVec 7) (flags : Nat) (info : BitVec 32) : (logEvent s source resp flags info).kitty = s.kitty := rfl
@[simp] theorem logEvent_dealer (source : Nat) (resp : BitVec 7) (flags : Nat) (info : BitVec 32) : (logEvent s source resp flags info).dealer = s.dealer := rfl
@[simp] theorem logEvent_lanes (source : Nat) (resp : BitVec 7) (flags : Nat) (info : BitVec 32) : (logEvent s source resp flags info).lanes = s.lanes := rfl
@[simp] theorem logEvent_records (source : Nat) (resp : BitVec 7) (flags : Nat) (info : BitVec 32) : (logEvent s source resp flags info).records = s.records := rfl
@[simp] theorem logEvent_engines (source : Nat) (resp : BitVec 7) (flags : Nat) (info : BitVec 32) : (logEvent s source resp flags info).engines = s.engines := rfl
@[simp] theorem logEvent_keys (source : Nat) (resp : BitVec 7) (flags : Nat) (info : BitVec 32) : (logEvent s source resp flags info).keys = s.keys := rfl
@[simp] theorem logEvent_rng (source : Nat) (resp : BitVec 7) (flags : Nat) (info : BitVec 32) : (logEvent s source resp flags info).rng = s.rng := rfl
@[simp] theorem logEvent_prot (source : Nat) (resp : BitVec 7) (flags : Nat) (info : BitVec 32) : (logEvent s source resp flags info).prot = s.prot := rfl
@[simp] theorem logEvent_house (source : Nat) (resp : BitVec 7) (flags : Nat) (info : BitVec 32) : (logEvent s source resp flags info).house = s.house := rfl
@[simp] theorem logEvent_slots (source : Nat) (resp : BitVec 7) (flags : Nat) (info : BitVec 32) : (logEvent s source resp flags info).slots = s.slots := rfl
@[simp] theorem logEvent_quorum (source : Nat) (resp : BitVec 7) (flags : Nat) (info : BitVec 32) : (logEvent s source resp flags info).quorum = s.quorum := rfl
@[simp] theorem logEvent_cnt (source : Nat) (resp : BitVec 7) (flags : Nat) (info : BitVec 32) : (logEvent s source resp flags info).cnt = s.cnt := rfl
@[simp] theorem logEvent_answer (source : Nat) (resp : BitVec 7) (flags : Nat) (info : BitVec 32) : (logEvent s source resp flags info).answer = s.answer := rfl

/-! queueScore -/

@[simp] theorem queueScore_pending (q : ScoreReq) : (queueScore s q).pending = s.pending := by simp only [queueScore]; (repeat' split) <;> simp
@[simp] theorem queueScore_round (q : ScoreReq) : (queueScore s q).round = s.round := by simp only [queueScore]; (repeat' split) <;> simp
@[simp] theorem queueScore_mem (q : ScoreReq) : (queueScore s q).mem = s.mem := by simp only [queueScore]; (repeat' split) <;> simp
@[simp] theorem queueScore_power (q : ScoreReq) : (queueScore s q).power = s.power := by simp only [queueScore]; (repeat' split) <;> simp
@[simp] theorem queueScore_fuses (q : ScoreReq) : (queueScore s q).fuses = s.fuses := by simp only [queueScore]; (repeat' split) <;> simp
@[simp] theorem queueScore_aon (q : ScoreReq) : (queueScore s q).aon = s.aon := by simp only [queueScore]; (repeat' split) <;> simp
@[simp] theorem queueScore_link (q : ScoreReq) : (queueScore s q).link = s.link := by simp only [queueScore]; (repeat' split) <;> simp
@[simp] theorem queueScore_irq (q : ScoreReq) : (queueScore s q).irq = s.irq := by simp only [queueScore]; (repeat' split) <;> simp
@[simp] theorem queueScore_seats (q : ScoreReq) : (queueScore s q).seats = s.seats := by simp only [queueScore]; (repeat' split) <;> simp
@[simp] theorem queueScore_kitty (q : ScoreReq) : (queueScore s q).kitty = s.kitty := by simp only [queueScore]; (repeat' split) <;> simp
@[simp] theorem queueScore_dealer (q : ScoreReq) : (queueScore s q).dealer = s.dealer := by simp only [queueScore]; (repeat' split) <;> simp
@[simp] theorem queueScore_lanes (q : ScoreReq) : (queueScore s q).lanes = s.lanes := by simp only [queueScore]; (repeat' split) <;> simp
@[simp] theorem queueScore_records (q : ScoreReq) : (queueScore s q).records = s.records := by simp only [queueScore]; (repeat' split) <;> simp
@[simp] theorem queueScore_engines (q : ScoreReq) : (queueScore s q).engines = s.engines := by simp only [queueScore]; (repeat' split) <;> simp
@[simp] theorem queueScore_keys (q : ScoreReq) : (queueScore s q).keys = s.keys := by simp only [queueScore]; (repeat' split) <;> simp
@[simp] theorem queueScore_rng (q : ScoreReq) : (queueScore s q).rng = s.rng := by simp only [queueScore]; (repeat' split) <;> simp
@[simp] theorem queueScore_prot (q : ScoreReq) : (queueScore s q).prot = s.prot := by simp only [queueScore]; (repeat' split) <;> simp
@[simp] theorem queueScore_slots (q : ScoreReq) : (queueScore s q).slots = s.slots := by simp only [queueScore]; (repeat' split) <;> simp
@[simp] theorem queueScore_quorum (q : ScoreReq) : (queueScore s q).quorum = s.quorum := by simp only [queueScore]; (repeat' split) <;> simp
@[simp] theorem queueScore_cnt (q : ScoreReq) : (queueScore s q).cnt = s.cnt := by simp only [queueScore]; (repeat' split) <;> simp
@[simp] theorem queueScore_answer (q : ScoreReq) : (queueScore s q).answer = s.answer := by simp only [queueScore]; (repeat' split) <;> simp

/-! modFlights -/

@[simp] theorem modFlights_pending (i : Nat) (p : Flight → Bool) (f : Flight → Flight) : (modFlights s i p f).pending = s.pending := rfl
@[simp] theorem modFlights_round (i : Nat) (p : Flight → Bool) (f : Flight → Flight) : (modFlights s i p f).round = s.round := rfl
@[simp] theorem modFlights_mem (i : Nat) (p : Flight → Bool) (f : Flight → Flight) : (modFlights s i p f).mem = s.mem := rfl
@[simp] theorem modFlights_power (i : Nat) (p : Flight → Bool) (f : Flight → Flight) : (modFlights s i p f).power = s.power := rfl
@[simp] theorem modFlights_fuses (i : Nat) (p : Flight → Bool) (f : Flight → Flight) : (modFlights s i p f).fuses = s.fuses := rfl
@[simp] theorem modFlights_aon (i : Nat) (p : Flight → Bool) (f : Flight → Flight) : (modFlights s i p f).aon = s.aon := rfl
@[simp] theorem modFlights_link (i : Nat) (p : Flight → Bool) (f : Flight → Flight) : (modFlights s i p f).link = s.link := rfl
@[simp] theorem modFlights_irq (i : Nat) (p : Flight → Bool) (f : Flight → Flight) : (modFlights s i p f).irq = s.irq := rfl
@[simp] theorem modFlights_kitty (i : Nat) (p : Flight → Bool) (f : Flight → Flight) : (modFlights s i p f).kitty = s.kitty := rfl
@[simp] theorem modFlights_dealer (i : Nat) (p : Flight → Bool) (f : Flight → Flight) : (modFlights s i p f).dealer = s.dealer := rfl
@[simp] theorem modFlights_lanes (i : Nat) (p : Flight → Bool) (f : Flight → Flight) : (modFlights s i p f).lanes = s.lanes := rfl
@[simp] theorem modFlights_records (i : Nat) (p : Flight → Bool) (f : Flight → Flight) : (modFlights s i p f).records = s.records := rfl
@[simp] theorem modFlights_engines (i : Nat) (p : Flight → Bool) (f : Flight → Flight) : (modFlights s i p f).engines = s.engines := rfl
@[simp] theorem modFlights_keys (i : Nat) (p : Flight → Bool) (f : Flight → Flight) : (modFlights s i p f).keys = s.keys := rfl
@[simp] theorem modFlights_rng (i : Nat) (p : Flight → Bool) (f : Flight → Flight) : (modFlights s i p f).rng = s.rng := rfl
@[simp] theorem modFlights_prot (i : Nat) (p : Flight → Bool) (f : Flight → Flight) : (modFlights s i p f).prot = s.prot := rfl
@[simp] theorem modFlights_house (i : Nat) (p : Flight → Bool) (f : Flight → Flight) : (modFlights s i p f).house = s.house := rfl
@[simp] theorem modFlights_slots (i : Nat) (p : Flight → Bool) (f : Flight → Flight) : (modFlights s i p f).slots = s.slots := rfl
@[simp] theorem modFlights_quorum (i : Nat) (p : Flight → Bool) (f : Flight → Flight) : (modFlights s i p f).quorum = s.quorum := rfl
@[simp] theorem modFlights_cnt (i : Nat) (p : Flight → Bool) (f : Flight → Flight) : (modFlights s i p f).cnt = s.cnt := rfl
@[simp] theorem modFlights_answer (i : Nat) (p : Flight → Bool) (f : Flight → Flight) : (modFlights s i p f).answer = s.answer := rfl

/-! modFlight -/

@[simp] theorem modFlight_pending (i seq : Nat) (f : Flight → Flight) : (modFlight s i seq f).pending = s.pending := rfl
@[simp] theorem modFlight_round (i seq : Nat) (f : Flight → Flight) : (modFlight s i seq f).round = s.round := rfl
@[simp] theorem modFlight_mem (i seq : Nat) (f : Flight → Flight) : (modFlight s i seq f).mem = s.mem := rfl
@[simp] theorem modFlight_power (i seq : Nat) (f : Flight → Flight) : (modFlight s i seq f).power = s.power := rfl
@[simp] theorem modFlight_fuses (i seq : Nat) (f : Flight → Flight) : (modFlight s i seq f).fuses = s.fuses := rfl
@[simp] theorem modFlight_aon (i seq : Nat) (f : Flight → Flight) : (modFlight s i seq f).aon = s.aon := rfl
@[simp] theorem modFlight_link (i seq : Nat) (f : Flight → Flight) : (modFlight s i seq f).link = s.link := rfl
@[simp] theorem modFlight_irq (i seq : Nat) (f : Flight → Flight) : (modFlight s i seq f).irq = s.irq := rfl
@[simp] theorem modFlight_kitty (i seq : Nat) (f : Flight → Flight) : (modFlight s i seq f).kitty = s.kitty := rfl
@[simp] theorem modFlight_dealer (i seq : Nat) (f : Flight → Flight) : (modFlight s i seq f).dealer = s.dealer := rfl
@[simp] theorem modFlight_lanes (i seq : Nat) (f : Flight → Flight) : (modFlight s i seq f).lanes = s.lanes := rfl
@[simp] theorem modFlight_records (i seq : Nat) (f : Flight → Flight) : (modFlight s i seq f).records = s.records := rfl
@[simp] theorem modFlight_engines (i seq : Nat) (f : Flight → Flight) : (modFlight s i seq f).engines = s.engines := rfl
@[simp] theorem modFlight_keys (i seq : Nat) (f : Flight → Flight) : (modFlight s i seq f).keys = s.keys := rfl
@[simp] theorem modFlight_rng (i seq : Nat) (f : Flight → Flight) : (modFlight s i seq f).rng = s.rng := rfl
@[simp] theorem modFlight_prot (i seq : Nat) (f : Flight → Flight) : (modFlight s i seq f).prot = s.prot := rfl
@[simp] theorem modFlight_house (i seq : Nat) (f : Flight → Flight) : (modFlight s i seq f).house = s.house := rfl
@[simp] theorem modFlight_slots (i seq : Nat) (f : Flight → Flight) : (modFlight s i seq f).slots = s.slots := rfl
@[simp] theorem modFlight_quorum (i seq : Nat) (f : Flight → Flight) : (modFlight s i seq f).quorum = s.quorum := rfl
@[simp] theorem modFlight_cnt (i seq : Nat) (f : Flight → Flight) : (modFlight s i seq f).cnt = s.cnt := rfl
@[simp] theorem modFlight_answer (i seq : Nat) (f : Flight → Flight) : (modFlight s i seq f).answer = s.answer := rfl

/-! dropResv -/

@[simp] theorem dropResv_pending (seq : Nat) : (dropResv s seq).pending = s.pending := rfl
@[simp] theorem dropResv_round (seq : Nat) : (dropResv s seq).round = s.round := rfl
@[simp] theorem dropResv_mem (seq : Nat) : (dropResv s seq).mem = s.mem := rfl
@[simp] theorem dropResv_power (seq : Nat) : (dropResv s seq).power = s.power := rfl
@[simp] theorem dropResv_fuses (seq : Nat) : (dropResv s seq).fuses = s.fuses := rfl
@[simp] theorem dropResv_aon (seq : Nat) : (dropResv s seq).aon = s.aon := rfl
@[simp] theorem dropResv_link (seq : Nat) : (dropResv s seq).link = s.link := rfl
@[simp] theorem dropResv_irq (seq : Nat) : (dropResv s seq).irq = s.irq := rfl
@[simp] theorem dropResv_seats (seq : Nat) : (dropResv s seq).seats = s.seats := rfl
@[simp] theorem dropResv_kitty (seq : Nat) : (dropResv s seq).kitty = s.kitty := rfl
@[simp] theorem dropResv_dealer (seq : Nat) : (dropResv s seq).dealer = s.dealer := rfl
@[simp] theorem dropResv_lanes (seq : Nat) : (dropResv s seq).lanes = s.lanes := rfl
@[simp] theorem dropResv_records (seq : Nat) : (dropResv s seq).records = s.records := rfl
@[simp] theorem dropResv_engines (seq : Nat) : (dropResv s seq).engines = s.engines := rfl
@[simp] theorem dropResv_rng (seq : Nat) : (dropResv s seq).rng = s.rng := rfl
@[simp] theorem dropResv_prot (seq : Nat) : (dropResv s seq).prot = s.prot := rfl
@[simp] theorem dropResv_house (seq : Nat) : (dropResv s seq).house = s.house := rfl
@[simp] theorem dropResv_slots (seq : Nat) : (dropResv s seq).slots = s.slots := rfl
@[simp] theorem dropResv_quorum (seq : Nat) : (dropResv s seq).quorum = s.quorum := rfl
@[simp] theorem dropResv_cnt (seq : Nat) : (dropResv s seq).cnt = s.cnt := rfl
@[simp] theorem dropResv_answer (seq : Nat) : (dropResv s seq).answer = s.answer := rfl

/-! decide_ -/

@[simp] theorem decide__pending (i seq : Nat) (st : Status) (d : BitVec 16) (r : Round) (house : Bool) : (decide_ s i seq st d r house).pending = s.pending := by simp only [decide_]; (repeat' split) <;> simp
@[simp] theorem decide__round (i seq : Nat) (st : Status) (d : BitVec 16) (r : Round) (house : Bool) : (decide_ s i seq st d r house).round = s.round := by simp only [decide_]; (repeat' split) <;> simp
@[simp] theorem decide__mem (i seq : Nat) (st : Status) (d : BitVec 16) (r : Round) (house : Bool) : (decide_ s i seq st d r house).mem = s.mem := by simp only [decide_]; (repeat' split) <;> simp
@[simp] theorem decide__power (i seq : Nat) (st : Status) (d : BitVec 16) (r : Round) (house : Bool) : (decide_ s i seq st d r house).power = s.power := by simp only [decide_]; (repeat' split) <;> simp
@[simp] theorem decide__fuses (i seq : Nat) (st : Status) (d : BitVec 16) (r : Round) (house : Bool) : (decide_ s i seq st d r house).fuses = s.fuses := by simp only [decide_]; (repeat' split) <;> simp
@[simp] theorem decide__aon (i seq : Nat) (st : Status) (d : BitVec 16) (r : Round) (house : Bool) : (decide_ s i seq st d r house).aon = s.aon := by simp only [decide_]; (repeat' split) <;> simp
@[simp] theorem decide__link (i seq : Nat) (st : Status) (d : BitVec 16) (r : Round) (house : Bool) : (decide_ s i seq st d r house).link = s.link := by simp only [decide_]; (repeat' split) <;> simp
@[simp] theorem decide__irq (i seq : Nat) (st : Status) (d : BitVec 16) (r : Round) (house : Bool) : (decide_ s i seq st d r house).irq = s.irq := by simp only [decide_]; (repeat' split) <;> simp
@[simp] theorem decide__kitty (i seq : Nat) (st : Status) (d : BitVec 16) (r : Round) (house : Bool) : (decide_ s i seq st d r house).kitty = s.kitty := by simp only [decide_]; (repeat' split) <;> simp
@[simp] theorem decide__dealer (i seq : Nat) (st : Status) (d : BitVec 16) (r : Round) (house : Bool) : (decide_ s i seq st d r house).dealer = s.dealer := by simp only [decide_]; (repeat' split) <;> simp
@[simp] theorem decide__lanes (i seq : Nat) (st : Status) (d : BitVec 16) (r : Round) (house : Bool) : (decide_ s i seq st d r house).lanes = s.lanes := by simp only [decide_]; (repeat' split) <;> simp
@[simp] theorem decide__records (i seq : Nat) (st : Status) (d : BitVec 16) (r : Round) (house : Bool) : (decide_ s i seq st d r house).records = s.records := by simp only [decide_]; (repeat' split) <;> simp
@[simp] theorem decide__engines (i seq : Nat) (st : Status) (d : BitVec 16) (r : Round) (house : Bool) : (decide_ s i seq st d r house).engines = s.engines := by simp only [decide_]; (repeat' split) <;> simp
@[simp] theorem decide__rng (i seq : Nat) (st : Status) (d : BitVec 16) (r : Round) (house : Bool) : (decide_ s i seq st d r house).rng = s.rng := by simp only [decide_]; (repeat' split) <;> simp
@[simp] theorem decide__prot (i seq : Nat) (st : Status) (d : BitVec 16) (r : Round) (house : Bool) : (decide_ s i seq st d r house).prot = s.prot := by simp only [decide_]; (repeat' split) <;> simp
@[simp] theorem decide__slots (i seq : Nat) (st : Status) (d : BitVec 16) (r : Round) (house : Bool) : (decide_ s i seq st d r house).slots = s.slots := by simp only [decide_]; (repeat' split) <;> simp
@[simp] theorem decide__quorum (i seq : Nat) (st : Status) (d : BitVec 16) (r : Round) (house : Bool) : (decide_ s i seq st d r house).quorum = s.quorum := by simp only [decide_]; (repeat' split) <;> simp
@[simp] theorem decide__cnt (i seq : Nat) (st : Status) (d : BitVec 16) (r : Round) (house : Bool) : (decide_ s i seq st d r house).cnt = s.cnt := by simp only [decide_]; (repeat' split) <;> simp
@[simp] theorem decide__answer (i seq : Nat) (st : Status) (d : BitVec 16) (r : Round) (house : Bool) : (decide_ s i seq st d r house).answer = s.answer := by simp only [decide_]; (repeat' split) <;> simp

/-! seatMsi -/

@[simp] theorem seatMsi_pending (i : Nat) : (seatMsi s i).pending = s.pending := by simp only [seatMsi]; (repeat' split) <;> simp
@[simp] theorem seatMsi_round (i : Nat) : (seatMsi s i).round = s.round := by simp only [seatMsi]; (repeat' split) <;> simp
@[simp] theorem seatMsi_mem (i : Nat) : (seatMsi s i).mem = s.mem := by simp only [seatMsi]; (repeat' split) <;> simp
@[simp] theorem seatMsi_power (i : Nat) : (seatMsi s i).power = s.power := by simp only [seatMsi]; (repeat' split) <;> simp
@[simp] theorem seatMsi_fuses (i : Nat) : (seatMsi s i).fuses = s.fuses := by simp only [seatMsi]; (repeat' split) <;> simp
@[simp] theorem seatMsi_aon (i : Nat) : (seatMsi s i).aon = s.aon := by simp only [seatMsi]; (repeat' split) <;> simp
@[simp] theorem seatMsi_irq (i : Nat) : (seatMsi s i).irq = s.irq := by simp only [seatMsi]; (repeat' split) <;> simp
@[simp] theorem seatMsi_kitty (i : Nat) : (seatMsi s i).kitty = s.kitty := by simp only [seatMsi]; (repeat' split) <;> simp
@[simp] theorem seatMsi_dealer (i : Nat) : (seatMsi s i).dealer = s.dealer := by simp only [seatMsi]; (repeat' split) <;> simp
@[simp] theorem seatMsi_lanes (i : Nat) : (seatMsi s i).lanes = s.lanes := by simp only [seatMsi]; (repeat' split) <;> simp
@[simp] theorem seatMsi_records (i : Nat) : (seatMsi s i).records = s.records := by simp only [seatMsi]; (repeat' split) <;> simp
@[simp] theorem seatMsi_engines (i : Nat) : (seatMsi s i).engines = s.engines := by simp only [seatMsi]; (repeat' split) <;> simp
@[simp] theorem seatMsi_keys (i : Nat) : (seatMsi s i).keys = s.keys := by simp only [seatMsi]; (repeat' split) <;> simp
@[simp] theorem seatMsi_rng (i : Nat) : (seatMsi s i).rng = s.rng := by simp only [seatMsi]; (repeat' split) <;> simp
@[simp] theorem seatMsi_prot (i : Nat) : (seatMsi s i).prot = s.prot := by simp only [seatMsi]; (repeat' split) <;> simp
@[simp] theorem seatMsi_house (i : Nat) : (seatMsi s i).house = s.house := by simp only [seatMsi]; (repeat' split) <;> simp
@[simp] theorem seatMsi_slots (i : Nat) : (seatMsi s i).slots = s.slots := by simp only [seatMsi]; (repeat' split) <;> simp
@[simp] theorem seatMsi_quorum (i : Nat) : (seatMsi s i).quorum = s.quorum := by simp only [seatMsi]; (repeat' split) <;> simp
@[simp] theorem seatMsi_cnt (i : Nat) : (seatMsi s i).cnt = s.cnt := by simp only [seatMsi]; (repeat' split) <;> simp
@[simp] theorem seatMsi_answer (i : Nat) : (seatMsi s i).answer = s.answer := by simp only [seatMsi]; (repeat' split) <;> simp

/-! enterHalt -/

@[simp] theorem enterHalt_pending (i : Nat) (c : HaltCause) (idx : Option Nat) : (enterHalt s i c idx).pending = s.pending := by simp only [enterHalt]; (repeat' split) <;> simp
@[simp] theorem enterHalt_round (i : Nat) (c : HaltCause) (idx : Option Nat) : (enterHalt s i c idx).round = s.round := by simp only [enterHalt]; (repeat' split) <;> simp
@[simp] theorem enterHalt_mem (i : Nat) (c : HaltCause) (idx : Option Nat) : (enterHalt s i c idx).mem = s.mem := by simp only [enterHalt]; (repeat' split) <;> simp
@[simp] theorem enterHalt_power (i : Nat) (c : HaltCause) (idx : Option Nat) : (enterHalt s i c idx).power = s.power := by simp only [enterHalt]; (repeat' split) <;> simp
@[simp] theorem enterHalt_fuses (i : Nat) (c : HaltCause) (idx : Option Nat) : (enterHalt s i c idx).fuses = s.fuses := by simp only [enterHalt]; (repeat' split) <;> simp
@[simp] theorem enterHalt_aon (i : Nat) (c : HaltCause) (idx : Option Nat) : (enterHalt s i c idx).aon = s.aon := by simp only [enterHalt]; (repeat' split) <;> simp
@[simp] theorem enterHalt_kitty (i : Nat) (c : HaltCause) (idx : Option Nat) : (enterHalt s i c idx).kitty = s.kitty := by simp only [enterHalt]; (repeat' split) <;> simp
@[simp] theorem enterHalt_dealer (i : Nat) (c : HaltCause) (idx : Option Nat) : (enterHalt s i c idx).dealer = s.dealer := by simp only [enterHalt]; (repeat' split) <;> simp
@[simp] theorem enterHalt_lanes (i : Nat) (c : HaltCause) (idx : Option Nat) : (enterHalt s i c idx).lanes = s.lanes := by simp only [enterHalt]; (repeat' split) <;> simp
@[simp] theorem enterHalt_records (i : Nat) (c : HaltCause) (idx : Option Nat) : (enterHalt s i c idx).records = s.records := by simp only [enterHalt]; (repeat' split) <;> simp
@[simp] theorem enterHalt_engines (i : Nat) (c : HaltCause) (idx : Option Nat) : (enterHalt s i c idx).engines = s.engines := by simp only [enterHalt]; (repeat' split) <;> simp
@[simp] theorem enterHalt_keys (i : Nat) (c : HaltCause) (idx : Option Nat) : (enterHalt s i c idx).keys = s.keys := by simp only [enterHalt]; (repeat' split) <;> simp
@[simp] theorem enterHalt_rng (i : Nat) (c : HaltCause) (idx : Option Nat) : (enterHalt s i c idx).rng = s.rng := by simp only [enterHalt]; (repeat' split) <;> simp
@[simp] theorem enterHalt_prot (i : Nat) (c : HaltCause) (idx : Option Nat) : (enterHalt s i c idx).prot = s.prot := by simp only [enterHalt]; (repeat' split) <;> simp
@[simp] theorem enterHalt_house (i : Nat) (c : HaltCause) (idx : Option Nat) : (enterHalt s i c idx).house = s.house := by simp only [enterHalt]; (repeat' split) <;> simp
@[simp] theorem enterHalt_slots (i : Nat) (c : HaltCause) (idx : Option Nat) : (enterHalt s i c idx).slots = s.slots := by simp only [enterHalt]; (repeat' split) <;> simp
@[simp] theorem enterHalt_quorum (i : Nat) (c : HaltCause) (idx : Option Nat) : (enterHalt s i c idx).quorum = s.quorum := by simp only [enterHalt]; (repeat' split) <;> simp
@[simp] theorem enterHalt_cnt (i : Nat) (c : HaltCause) (idx : Option Nat) : (enterHalt s i c idx).cnt = s.cnt := by simp only [enterHalt]; (repeat' split) <;> simp
@[simp] theorem enterHalt_answer (i : Nat) (c : HaltCause) (idx : Option Nat) : (enterHalt s i c idx).answer = s.answer := by simp only [enterHalt]; (repeat' split) <;> simp

/-! dmaHalt -/

@[simp] theorem dmaHalt_pending (i : Nat) (g : Flight) (d : BitVec 16) : (dmaHalt s i g d).pending = s.pending := by simp only [dmaHalt]; (repeat' split) <;> simp
@[simp] theorem dmaHalt_round (i : Nat) (g : Flight) (d : BitVec 16) : (dmaHalt s i g d).round = s.round := by simp only [dmaHalt]; (repeat' split) <;> simp
@[simp] theorem dmaHalt_mem (i : Nat) (g : Flight) (d : BitVec 16) : (dmaHalt s i g d).mem = s.mem := by simp only [dmaHalt]; (repeat' split) <;> simp
@[simp] theorem dmaHalt_power (i : Nat) (g : Flight) (d : BitVec 16) : (dmaHalt s i g d).power = s.power := by simp only [dmaHalt]; (repeat' split) <;> simp
@[simp] theorem dmaHalt_fuses (i : Nat) (g : Flight) (d : BitVec 16) : (dmaHalt s i g d).fuses = s.fuses := by simp only [dmaHalt]; (repeat' split) <;> simp
@[simp] theorem dmaHalt_aon (i : Nat) (g : Flight) (d : BitVec 16) : (dmaHalt s i g d).aon = s.aon := by simp only [dmaHalt]; (repeat' split) <;> simp
@[simp] theorem dmaHalt_kitty (i : Nat) (g : Flight) (d : BitVec 16) : (dmaHalt s i g d).kitty = s.kitty := by simp only [dmaHalt]; (repeat' split) <;> simp
@[simp] theorem dmaHalt_dealer (i : Nat) (g : Flight) (d : BitVec 16) : (dmaHalt s i g d).dealer = s.dealer := by simp only [dmaHalt]; (repeat' split) <;> simp
@[simp] theorem dmaHalt_lanes (i : Nat) (g : Flight) (d : BitVec 16) : (dmaHalt s i g d).lanes = s.lanes := by simp only [dmaHalt]; (repeat' split) <;> simp
@[simp] theorem dmaHalt_records (i : Nat) (g : Flight) (d : BitVec 16) : (dmaHalt s i g d).records = s.records := by simp only [dmaHalt]; (repeat' split) <;> simp
@[simp] theorem dmaHalt_engines (i : Nat) (g : Flight) (d : BitVec 16) : (dmaHalt s i g d).engines = s.engines := by simp only [dmaHalt]; (repeat' split) <;> simp
@[simp] theorem dmaHalt_keys (i : Nat) (g : Flight) (d : BitVec 16) : (dmaHalt s i g d).keys = s.keys := by simp only [dmaHalt]; (repeat' split) <;> simp
@[simp] theorem dmaHalt_rng (i : Nat) (g : Flight) (d : BitVec 16) : (dmaHalt s i g d).rng = s.rng := by simp only [dmaHalt]; (repeat' split) <;> simp
@[simp] theorem dmaHalt_prot (i : Nat) (g : Flight) (d : BitVec 16) : (dmaHalt s i g d).prot = s.prot := by simp only [dmaHalt]; (repeat' split) <;> simp
@[simp] theorem dmaHalt_house (i : Nat) (g : Flight) (d : BitVec 16) : (dmaHalt s i g d).house = s.house := by simp only [dmaHalt]; (repeat' split) <;> simp
@[simp] theorem dmaHalt_slots (i : Nat) (g : Flight) (d : BitVec 16) : (dmaHalt s i g d).slots = s.slots := by simp only [dmaHalt]; (repeat' split) <;> simp
@[simp] theorem dmaHalt_quorum (i : Nat) (g : Flight) (d : BitVec 16) : (dmaHalt s i g d).quorum = s.quorum := by simp only [dmaHalt]; (repeat' split) <;> simp
@[simp] theorem dmaHalt_cnt (i : Nat) (g : Flight) (d : BitVec 16) : (dmaHalt s i g d).cnt = s.cnt := by simp only [dmaHalt]; (repeat' split) <;> simp
@[simp] theorem dmaHalt_answer (i : Nat) (g : Flight) (d : BitVec 16) : (dmaHalt s i g d).answer = s.answer := by simp only [dmaHalt]; (repeat' split) <;> simp

/-! discardDoorbell -/

@[simp] theorem discardDoorbell_pending (f : Func) : (discardDoorbell s f).pending = s.pending := by simp only [discardDoorbell]; (repeat' split) <;> simp
@[simp] theorem discardDoorbell_round (f : Func) : (discardDoorbell s f).round = s.round := by simp only [discardDoorbell]; (repeat' split) <;> simp
@[simp] theorem discardDoorbell_mem (f : Func) : (discardDoorbell s f).mem = s.mem := by simp only [discardDoorbell]; (repeat' split) <;> simp
@[simp] theorem discardDoorbell_power (f : Func) : (discardDoorbell s f).power = s.power := by simp only [discardDoorbell]; (repeat' split) <;> simp
@[simp] theorem discardDoorbell_fuses (f : Func) : (discardDoorbell s f).fuses = s.fuses := by simp only [discardDoorbell]; (repeat' split) <;> simp
@[simp] theorem discardDoorbell_aon (f : Func) : (discardDoorbell s f).aon = s.aon := by simp only [discardDoorbell]; (repeat' split) <;> simp
@[simp] theorem discardDoorbell_seats (f : Func) : (discardDoorbell s f).seats = s.seats := by simp only [discardDoorbell]; (repeat' split) <;> simp
@[simp] theorem discardDoorbell_kitty (f : Func) : (discardDoorbell s f).kitty = s.kitty := by simp only [discardDoorbell]; (repeat' split) <;> simp
@[simp] theorem discardDoorbell_dealer (f : Func) : (discardDoorbell s f).dealer = s.dealer := by simp only [discardDoorbell]; (repeat' split) <;> simp
@[simp] theorem discardDoorbell_lanes (f : Func) : (discardDoorbell s f).lanes = s.lanes := by simp only [discardDoorbell]; (repeat' split) <;> simp
@[simp] theorem discardDoorbell_records (f : Func) : (discardDoorbell s f).records = s.records := by simp only [discardDoorbell]; (repeat' split) <;> simp
@[simp] theorem discardDoorbell_engines (f : Func) : (discardDoorbell s f).engines = s.engines := by simp only [discardDoorbell]; (repeat' split) <;> simp
@[simp] theorem discardDoorbell_keys (f : Func) : (discardDoorbell s f).keys = s.keys := by simp only [discardDoorbell]; (repeat' split) <;> simp
@[simp] theorem discardDoorbell_rng (f : Func) : (discardDoorbell s f).rng = s.rng := by simp only [discardDoorbell]; (repeat' split) <;> simp
@[simp] theorem discardDoorbell_prot (f : Func) : (discardDoorbell s f).prot = s.prot := by simp only [discardDoorbell]; (repeat' split) <;> simp
@[simp] theorem discardDoorbell_house (f : Func) : (discardDoorbell s f).house = s.house := by simp only [discardDoorbell]; (repeat' split) <;> simp
@[simp] theorem discardDoorbell_slots (f : Func) : (discardDoorbell s f).slots = s.slots := by simp only [discardDoorbell]; (repeat' split) <;> simp
@[simp] theorem discardDoorbell_quorum (f : Func) : (discardDoorbell s f).quorum = s.quorum := by simp only [discardDoorbell]; (repeat' split) <;> simp
@[simp] theorem discardDoorbell_answer (f : Func) : (discardDoorbell s f).answer = s.answer := by simp only [discardDoorbell]; (repeat' split) <;> simp

end Sys2Proof.Machine
end

