-- ==== Sys2Proof/Laws/Ends.lean ====
section
/-!
SUPPORT. What deciding a status does, what the reads of sound words do, and what a service that passes its checks does.
-/
namespace Sys2Proof.Machine

variable (s : State)

theorem getSeat_queueScore (q : ScoreReq) (j : Nat) : getSeat (queueScore s q) j = getSeat s j := by simp [getSeat]

theorem getSeat_dropResv (q j : Nat) : getSeat (dropResv s q) j = getSeat s j := by simp [getSeat]

theorem getSeat_modFlights (i : Nat) (p : Flight → Bool) (f : Flight → Flight) :
    getSeat (modFlights s i p f) i =
      { getSeat s i with flights := (getSeat s i).flights.map fun g => if p g then f g else g } := by
  simp [modFlights]

theorem getSeat_modFlight (i seq : Nat) (f : Flight → Flight) :
    getSeat (modFlight s i seq f) i =
      { getSeat s i with flights := (getSeat s i).flights.map fun g => if g.seq = seq then f g else g } := by
  simp [modFlight, modFlights]

theorem getSeat_modFlights_ne {i j : Nat} (p : Flight → Bool) (f : Flight → Flight) (h : j ≠ i) :
    getSeat (modFlights s i p f) j = getSeat s j := by
  simp [modFlights, getSeat_modSeat_ne _ _ h]

/-- Everything that deciding a status does. -/
theorem decide_ends (i seq : Nat) (st : Status) (d : BitVec 16) (r : Round) (house : Bool) :
    Ends s (decide_ s i seq st d r house) i seq ⟨st, d, r, house⟩ := by
  constructor
  · unfold decide_
    (repeat' split) <;> simp [getSeat_modFlights, endedSeat, getSeat_queueScore, getSeat_dropResv]
  · intro j hj
    unfold decide_
    (repeat' split) <;> simp [getSeat_modFlights_ne s _ _ hj, getSeat_queueScore, getSeat_dropResv]
  · intro h
    have : st ≠ .internal := h
    simp only [decide_, this, if_false]
    split <;> rfl
  · intro h
    have : st = .done := h
    subst this
    simp only [decide_]
    rfl
  · unfold decide_
    simp only
    split <;> split <;> simp [dropResv]
  · unfold decide_
    simp only
    split <;> split <;> simp [dropResv, queueScore, modFlights, modSeat, setSeat] <;> split <;> rfl

/-- Reads of words without an error leave nothing in the error logic. -/
theorem touchWords_sound (ks : List Nat) (h : ∀ k ∈ ks, sget none s.prot.bad k = none) : touchWords s ks = s := by
  induction ks with
  | nil => rfl
  | cons k t ih =>
    have hk := h k (by simp)
    simp only [touchWords, List.foldl_cons, hk]
    exact ih fun x hx => h x (by simp [hx])

theorem anyBad_sound (ks : List Nat) (h : ∀ k ∈ ks, sget none s.prot.bad k = none) : anyBad s ks = false := by
  simp only [anyBad, List.any_eq_false]
  intro k hk
  simp [h k hk]

/-- An operation that writes nothing to a destination only decides its status. -/
theorem commitHouse_nil (i : Nat) (g : Flight) : commitHouse s i g [] = decide_ s i g.seq .done 0 s.round true := by
  simp [commitHouse, putTricks, chunks, chunksAux, endHouse]

/-- A service whose checks pass and whose words are sound commits. -/
theorem serve_passes (i : Nat) (g : Flight) (keyed other : List Fail) (gs : List Nat) (f : State → State × Bytes)
    (hk : keyed = []) (ho : other = []) (hs : spanFails s (getSeat s i).suit [] (dstSpans g) g.resvOut = [])
    (hg : SoundGranules s gs) : serve s i g keyed other gs f = commitHouse (f s).1 i g (f s).2 := by
  subst hk ho
  simp [serve, hs, worst, anyBad_sound s _ hg, touchWords_sound s _ hg]

/-- A service with a failed check decides the worst one. -/
theorem serve_fails (i : Nat) (g : Flight) (keyed other : List Fail) (gs : List Nat) (f : State → State × Bytes) (x : Fail)
    (h : worst (keyed ++ other ++ spanFails s (getSeat s i).suit [] (dstSpans g) g.resvOut) = some x) :
    serve s i g keyed other gs f = endHouse
      (countSuit (countDeny s i g.seq keyed) (keyed ++ other ++ spanFails s (getSeat s i).suit [] (dstSpans g) g.resvOut)
        (gs.map storeTag ++ placeGrans (dstSpans g) g.resvOut).eraseDups) i g x := by
  simp only [serve, h]

/-- A commit that writes output: it answers. -/
theorem commitHouse_ends (i : Nat) (g : Flight) (out : Bytes) :
    Ends (if (putTricks s i g 0 out).2 then dmaHalt (putTricks s i g 0 out).1 i g 6 else (putTricks s i g 0 out).1)
      (commitHouse s i g out) i g.seq
      ⟨if (putTricks s i g 0 out).2 then .eccUncorrectable else .done, if (putTricks s i g 0 out).2 then 6 else 0,
        (putTricks s i g 0 out).1.round, true⟩ := by
  unfold commitHouse
  split <;> rename_i h <;> simp only [h, if_true, Bool.false_eq_true, if_false, endHouse]
  · have := decide_ends (dmaHalt (putTricks s i g 0 out).1 i g 6) i g.seq .eccUncorrectable 6
      (dmaHalt (putTricks s i g 0 out).1 i g 6).round true
    simpa using this
  · exact decide_ends ..

theorem worst_nil {fs : List Fail} : worst fs = none ↔ fs = [] := by
  cases fs with
  | nil => simp [worst]
  | cons f t =>
    simp only [worst]
    split
    · simp
    · split <;> simp

theorem need_nil {ok : Bool} {st : Status} {d : BitVec 16} : need ok st d = [] ↔ ok = true := by
  unfold need
  split <;> simp_all

end Sys2Proof.Machine
end

