-- ==== Sys2Proof/Laws/Events.lean ====
section
/-!
SUPPORT. Interrupt causes as they are raised, and the locks of a descriptor's slots.
-/
namespace Sys2Proof.Machine

variable (s : State)

theorem getIrq_sendMsi (f : Func) (v : BitVec 11) (k : Nat) : getIrq (sendMsi s f v) k = getIrq s k := by simp [getIrq]

/-- A bit set stands set. -/
theorem bit_setBit_self {n : Nat} (v : BitVec n) (b : Nat) (h : b < n) : bit (setBit v b true) b = true := by
  have e : (BitVec.ofNat n (2 ^ b)).getLsbD b = true := by
    rw [BitVec.getLsbD_ofNat]
    simp [h]
  simp only [bit, setBit, if_true, BitVec.getLsbD_or, e, Bool.or_true]

/-- A cause raised stands in its copy. -/
theorem raiseIrq_on (pl b : Nat) (z : Bool) (h : b < 32) : bit (getIrq (raiseIrq s pl b z) pl).status b = true := by
  simp only [raiseIrq]
  split
  · simp_all
  · split <;> simp [getIrq_sendMsi, bit_setBit_self _ _ h]

/-- A raised cause leaves every other copy as it was. -/
theorem raiseIrq_ne (pl b k : Nat) (z : Bool) (h : k ≠ pl) : getIrq (raiseIrq s pl b z) k = getIrq s k := by
  simp only [raiseIrq]
  split
  · rfl
  · split <;> simp [getIrq_sendMsi, getIrq_setIrq_ne _ _ h]

/-- A cause that stands goes on standing when any cause is raised. -/
theorem raiseIrq_cause (pl b k c : Nat) (z : Bool) (h : bit (getIrq s k).status c = true) :
    bit (getIrq (raiseIrq s pl b z) k).status c = true := by
  by_cases hk : k = pl
  · subst hk
    have hc : ∀ v : BitVec 32, bit v c = true → bit (setBit v b true) c = true := by
      intro v hv
      simp only [bit, setBit] at *
      simp [hv]
    simp only [raiseIrq]
    split
    · exact h
    · split <;> simp [getIrq_sendMsi, hc _ h]
  · rw [raiseIrq_ne _ _ _ _ _ hk]
    exact h

theorem foldl_raise_keeps (b k c : Nat) (l : List Nat) : ∀ s : State, bit (getIrq s k).status c = true →
    bit (getIrq (l.foldl (fun t pl => raiseIrq t pl b false) s) k).status c = true := by
  induction l with
  | nil => exact fun s h => h
  | cons a l ih => exact fun s h => ih _ (raiseIrq_cause s a b k c false h)

/-- A device-wide cause stands in every copy. -/
theorem raiseAll_on (b : Nat) (h : b < 32) (pl : Nat) (hp : pl ∈ pfs s) : bit (getIrq (raiseAll s b) pl).status b = true := by
  have key : ∀ (l : List Nat) (s : State), pl ∈ l →
      bit (getIrq (l.foldl (fun t pl => raiseIrq t pl b false) s) pl).status b = true := by
    intro l
    induction l with
    | nil => intro s h; cases h
    | cons a l ih =>
      intro s hm
      rcases List.mem_cons.1 hm with rfl | hm
      · exact foldl_raise_keeps b pl b l _ (raiseIrq_on s pl b false h)
      · exact ih _ hm
  exact key _ s hp

/-- A write that reaches BAR0 acts. -/
theorem barWrite_reaches {f : Func} {off : Nat} (act : State → State) (h : Reaches s f) : barWrite s f off act = act s := by
  simp [barWrite, h.1, h.2]

/-- Locking a list of different slots moves the flag word of each, and only the kitty. -/
theorem lockSlots_flags (g : Flight) (ks : List Nat) : ∀ (s : State), ks.Nodup →
  (∀ k, getFlag (ks.foldl (fun t k => lockSlot t g k) s) k =
    if k ∈ ks then { getFlag s k with owner := 3, seq := (getFlag s k).seq + 1 } else getFlag s k)
  ∧ { (ks.foldl (fun t k => lockSlot t g k) s) with kitty := s.kitty } = s := by
  induction ks with
  | nil => intro s _; simp
  | cons a ks ih =>
    intro s h
    simp only [List.nodup_cons] at h
    obtain ⟨i1, i2⟩ := ih (lockSlot s g a) h.2
    constructor
    · intro k
      simp only [List.foldl_cons, i1 k]
      have e : getFlag (lockSlot s g a) k = getFlag (setFlag s a { getFlag s a with owner := 3, seq := (getFlag s a).seq + 1 }) k := rfl
      rw [e]
      by_cases hk : k = a
      · subst hk; simp [h.1]
      · simp [hk, getFlag_setFlag_ne _ _ hk]
    · simp only [List.foldl_cons]
      have := congrArg (fun t : State => { t with kitty := s.kitty }) i2
      exact this

end Sys2Proof.Machine
end

