-- ==== Sys2Proof/Laws/G8.lean ====
section
/-!
SUPPORT. What an instruction of a core that is due does, and the flags of sums and logical results as numbers.
-/
namespace Sys2Proof.Machine

/-- An instruction that is due takes its effect, and the second house core follows. -/
theorem due_insn {s s1 c i n f} (h : Due s s1 c i) (hn : i.opc.toNat = n) : insn n f c s = .next (mirrored c (f c i s1)) := by
  obtain ⟨w, e, d⟩ := h.word
  have l := h.legal
  unfold insn g8Row act
  rw [h.quiet, h.runs]
  simp only [Option.isSome_none, Bool.not_true, Bool.false_eq_true, if_false, e, d, hn, beq_self_eq_true, l, if_true]
  cases c with
  | lane l => simp [mirrored]
  | house => simp [h.alike rfl, mirrored]

/-- An instruction that is due and completes: the state it leaves. -/
theorem due_plain {s s1 c i n b s2 a} (h : Due s s1 c i) (hn : i.opc.toNat = n)
    (hb : b c i (slotFree (getCore s1 c)) s1 = (s2, .ok a)) :
    insn n (plain b) c s = .next (retired c (getCore s1 c) s2 a.upd a.cycles a.jump) := by
  rw [due_insn h hn]
  unfold plain retired
  dsimp only
  unfold slotFree at hb
  rw [hb]

theorem bits7 (x : BitVec 8) : bit x 7 = decide (128 ≤ x.toNat) := by
  unfold bit; rw [show (7:Nat) = 8 - 1 from rfl, ← BitVec.msb_eq_getLsbD_last, BitVec.msb_eq_decide]
theorem bits15 (x : BitVec 16) : bit x 15 = decide (32768 ≤ x.toNat) := by
  unfold bit; rw [show (15:Nat) = 16 - 1 from rfl, ← BitVec.msb_eq_getLsbD_last, BitVec.msb_eq_decide]

theorem czn_eq {w} (f : BitVec 8) (r : BitVec w) (c v : Bool) : putCZNV f r c v = flagsCZNV f c (r == 0) (bit r (w-1)) v := by
  have key : ∀ (f : BitVec 8) (c z n v : Bool), setBit (setBit (setBit (setBit f 1 z) 2 n) 0 c) 3 v = flagsCZNV f c z n v := by decide +kernel
  exact key ..

theorem zn_eq {w} (f : BitVec 8) (r : BitVec w) : putZN f r = flagsCZNV f (bit f 0) (r == 0) (bit r (w-1)) (bit f 3) := by
  have key : ∀ (f : BitVec 8) (z n : Bool), setBit (setBit f 1 z) 2 n = flagsCZNV f (bit f 0) z n (bit f 3) := by decide +kernel
  exact key ..

theorem cznn_eq {w} (f : BitVec 8) (r : BitVec w) (c : Bool) : putCZN f r c = flagsCZNV f c (r == 0) (bit r (w-1)) (bit f 3) := by
  have key : ∀ (f : BitVec 8) (c z n : Bool), setBit (setBit (setBit f 1 z) 2 n) 0 c = flagsCZNV f c z n (bit f 3) := by decide +kernel
  exact key ..

/-- The sum of two bytes and a carry, with its flags (R252). -/
theorem sum8 (f a b : BitVec 8) (c : Bool) : withCZNV f (addW a b c) =
    (BitVec.ofInt 8 ((a.toNat : Int) + b.toNat + b2n c), sumFlags 8 f ((a.toNat : Int) + b.toNat + b2n c) (a.toInt + b.toInt + b2n c)) := by
  have ha := a.isLt; have hb := b.isLt
  have hc : b2n c ≤ 1 := by cases c <;> simp [b2n]
  have hr : BitVec.ofNat 8 (a.toNat + b.toNat + b2n c) = BitVec.ofInt 8 ((a.toNat : Int) + b.toNat + b2n c) := by
    apply BitVec.eq_of_toNat_eq; simp only [BitVec.toNat_ofNat, BitVec.toNat_ofInt]; omega
  simp only [withCZNV, addW, sumFlags, czn_eq]
  rw [hr]
  congr 1
  congr 1
  · rw [Bool.eq_iff_iff]; simp only [decide_eq_true_eq]; omega
  · rw [← hr, Bool.eq_iff_iff]; simp only [beq_iff_eq, ← BitVec.toNat_inj, decide_eq_true_eq, BitVec.toNat_ofNat]; simp; omega
  · rw [← hr, bits7, Bool.eq_iff_iff]; simp only [decide_eq_true_eq, BitVec.toNat_ofNat]; simp; omega
  · rw [← hr, bits7, bits7, bits7, BitVec.toInt_eq_toNat_cond, BitVec.toInt_eq_toNat_cond]
    generalize b2n c = d at *
    rw [Bool.eq_iff_iff]
    simp only [BitVec.toNat_ofNat, decide_eq_true_eq, Bool.and_eq_true, beq_iff_eq, bne_iff_ne, ne_eq]
    by_cases h1 : 128 ≤ a.toNat <;> by_cases h2 : 128 ≤ b.toNat <;> by_cases h3 : 128 ≤ (a.toNat + b.toNat + d) % 2^8 <;> simp [h1, h2, h3] <;> split <;> split <;> omega

/-- The difference of two bytes and a borrow, with its flags (R252). -/
theorem dif8 (f a b : BitVec 8) (c : Bool) : withCZNV f (subW a b c) =
    (BitVec.ofInt 8 ((a.toNat : Int) - b.toNat - b2n c), sumFlags 8 f ((a.toNat : Int) - b.toNat - b2n c) (a.toInt - b.toInt - b2n c)) := by
  have ha := a.isLt; have hb := b.isLt
  have hc : b2n c ≤ 1 := by cases c <;> simp [b2n]
  have hr : BitVec.ofNat 8 (a.toNat + 2 ^ (8 + 1) - (b.toNat + b2n c)) = BitVec.ofInt 8 ((a.toNat : Int) - b.toNat - b2n c) := by
    apply BitVec.eq_of_toNat_eq; simp only [BitVec.toNat_ofNat, BitVec.toNat_ofInt]; omega
  simp only [withCZNV, subW, sumFlags, czn_eq]
  rw [hr]
  congr 1
  congr 1
  · rw [Bool.eq_iff_iff]; simp only [decide_eq_true_eq]; omega
  · rw [← hr, Bool.eq_iff_iff]; simp only [beq_iff_eq, ← BitVec.toNat_inj, decide_eq_true_eq, BitVec.toNat_ofNat]; simp; omega
  · rw [← hr, bits7, Bool.eq_iff_iff]; simp only [decide_eq_true_eq, BitVec.toNat_ofNat]; simp; omega
  · rw [← hr, bits7, bits7, bits7, BitVec.toInt_eq_toNat_cond, BitVec.toInt_eq_toNat_cond]
    generalize b2n c = d at *
    rw [Bool.eq_iff_iff]
    simp only [BitVec.toNat_ofNat, decide_eq_true_eq, Bool.and_eq_true, beq_iff_eq, bne_iff_ne, ne_eq]
    by_cases h1 : 128 ≤ a.toNat <;> by_cases h2 : 128 ≤ b.toNat <;> by_cases h3 : 128 ≤ (a.toNat + 2 ^ (8 + 1) - (b.toNat + d)) % 2^8 <;> simp [h1, h2, h3] <;> split <;> split <;> omega

/-- The sum of two half-words and a carry, with its flags (R252). -/
theorem sum16 (f : BitVec 8) (a b : BitVec 16) (c : Bool) : withCZNV f (addW a b c) =
    (BitVec.ofInt 16 ((a.toNat : Int) + b.toNat + b2n c), sumFlags 16 f ((a.toNat : Int) + b.toNat + b2n c) (a.toInt + b.toInt + b2n c)) := by
  have ha := a.isLt; have hb := b.isLt
  have hc : b2n c ≤ 1 := by cases c <;> simp [b2n]
  have hr : BitVec.ofNat 16 (a.toNat + b.toNat + b2n c) = BitVec.ofInt 16 ((a.toNat : Int) + b.toNat + b2n c) := by
    apply BitVec.eq_of_toNat_eq; simp only [BitVec.toNat_ofNat, BitVec.toNat_ofInt]; omega
  simp only [withCZNV, addW, sumFlags, czn_eq]
  rw [hr]
  congr 1
  congr 1
  · rw [Bool.eq_iff_iff]; simp only [decide_eq_true_eq]; omega
  · rw [← hr, Bool.eq_iff_iff]; simp only [beq_iff_eq, ← BitVec.toNat_inj, decide_eq_true_eq, BitVec.toNat_ofNat]; simp; omega
  · rw [← hr, bits15, Bool.eq_iff_iff]; simp only [decide_eq_true_eq, BitVec.toNat_ofNat]; simp; omega
  · rw [← hr, bits15, bits15, bits15, BitVec.toInt_eq_toNat_cond, BitVec.toInt_eq_toNat_cond]
    generalize b2n c = d at *
    rw [Bool.eq_iff_iff]
    simp only [BitVec.toNat_ofNat, decide_eq_true_eq, Bool.and_eq_true, beq_iff_eq, bne_iff_ne, ne_eq]
    by_cases h1 : 32768 ≤ a.toNat <;> by_cases h2 : 32768 ≤ b.toNat <;> by_cases h3 : 32768 ≤ (a.toNat + b.toNat + d) % 2^16 <;> simp [h1, h2, h3] <;> split <;> split <;> omega

/-- The difference of two half-words and a borrow, with its flags (R252). -/
theorem dif16 (f : BitVec 8) (a b : BitVec 16) (c : Bool) : withCZNV f (subW a b c) =
    (BitVec.ofInt 16 ((a.toNat : Int) - b.toNat - b2n c), sumFlags 16 f ((a.toNat : Int) - b.toNat - b2n c) (a.toInt - b.toInt - b2n c)) := by
  have ha := a.isLt; have hb := b.isLt
  have hc : b2n c ≤ 1 := by cases c <;> simp [b2n]
  have hr : BitVec.ofNat 16 (a.toNat + 2 ^ (16 + 1) - (b.toNat + b2n c)) = BitVec.ofInt 16 ((a.toNat : Int) - b.toNat - b2n c) := by
    apply BitVec.eq_of_toNat_eq; simp only [BitVec.toNat_ofNat, BitVec.toNat_ofInt]; omega
  simp only [withCZNV, subW, sumFlags, czn_eq]
  rw [hr]
  congr 1
  congr 1
  · rw [Bool.eq_iff_iff]; simp only [decide_eq_true_eq]; omega
  · rw [← hr, Bool.eq_iff_iff]; simp only [beq_iff_eq, ← BitVec.toNat_inj, decide_eq_true_eq, BitVec.toNat_ofNat]; simp; omega
  · rw [← hr, bits15, Bool.eq_iff_iff]; simp only [decide_eq_true_eq, BitVec.toNat_ofNat]; simp; omega
  · rw [← hr, bits15, bits15, bits15, BitVec.toInt_eq_toNat_cond, BitVec.toInt_eq_toNat_cond]
    generalize b2n c = d at *
    rw [Bool.eq_iff_iff]
    simp only [BitVec.toNat_ofNat, decide_eq_true_eq, Bool.and_eq_true, beq_iff_eq, bne_iff_ne, ne_eq]
    by_cases h1 : 32768 ≤ a.toNat <;> by_cases h2 : 32768 ≤ b.toNat <;> by_cases h3 : 32768 ≤ (a.toNat + 2 ^ (16 + 1) - (b.toNat + d)) % 2^16 <;> simp [h1, h2, h3] <;> split <;> split <;> omega

theorem getCore_setCore (s : State) (c : CoreId) (x : Core) : getCore (setCore s c x) c = x := by
  cases c with
  | lane l => simp [getCore, setCore, modLane, setLane, getLane]
  | house => rfl

end Sys2Proof.Machine
end

