-- ==== Sys2Proof/Tests/Slice0.lean ====
section
/-!
SUPPORT. Tests: ill-formed commands that the check refuses, instruction words and worked values of the manual, and
for every statement with premises a state and operands that meet them.
-/
namespace Sys2Proof.Tests

open Sys2Proof.Machine

set_option Elab.async false

/-! ## Well-formed commands -/

def f0 : Func := ⟨0, 0, 0⟩
def f1 : Func := ⟨0, 0, 1⟩
def quiet : RoundEnv := { noise := [0, 0, 0, 0], sheetsDiffer := false, upsets := [], wipeBad := false, houseUpset := 0 }

/-- A submission index beyond 16 bits, in every command that names one. -/
theorem test_wf_submission : ∀ c ∈ [Instr.handWaitExpiry 0 65536, .rngWaitExpiry (.flight 0 65536), .fragmentListFetch 0 65536,
    .fragmentListReturn 0 65536 true .timeout, .kittyLock 0 65536, .stagingReservation 0 65536,
    .payloadReadReturn 0 65536 false .refused, .nop 0 65536, .handAlloc 0 65536, .handFree 0 65536, .slotClear 0 65536,
    .keyGen 0 65536, .slotInfo 0 65536, .usageTighten 0 65536, .pubkeyRead 0 65536, .slotRetype 0 65536, .random 0 65536,
    .storeInit 0 65536, .suitAssign 0 65536, .componentLoad 0 65536, .policyWiden 0 65536, .ownerSet 0 65536,
    .tcrCommit 0 65536 false, .latchClear 0 65536, .lifecycleSet 0 65536 false], c.wf = false := by decide +kernel

/-- Accesses outside the BARs, or of no width. -/
theorem test_wf_access : ∀ c ∈ [Instr.registerWrite f0 0x1FFFFFD 4 0, .registerWrite f0 0 0 0, .lowerWordRead f0 0x2000000 4,
    .upperWordRead f0 0 9, .flagWrite f0 0x1000000 [] false, .slotDataRead f0 0 4097, .slotDataRead f0 0x1FFFFFF 2,
    .slotDataWrite f0 0 [], .doorbell f0 0xFFFF [0, 0], .debugAccess (2 ^ 40) 1 none, .eccWriteBack 0x122 0,
    .eccWriteBack 0 0x200000], c.wf = false := by decide +kernel

/-- Inputs from outside of the wrong length, and numbers outside their tables. -/
theorem test_wf_inputs : ∀ c ∈ [Instr.roundTick { quiet with noise := [0, 0, 0] },
    .roundTick { quiet with upsets := [⟨0x122, 0, false, false⟩] }, .fetchReturn 0 (.data (zeros 4097)),
    .ryenoResponse 0 (zeros 4097) false, .atr 0 (zeros 34), .ppsResponse 0 (zeros 7), .cardResponse 0 (zeros 257) 0,
    .readReg 0x2000000, .readLog 64, .readScore 16, .flashErase 0x1000, .flashWrite 0xFFFFFFF [0, 0],
    .samplePreload (zeros 4097)], c.wf = false := by decide +kernel

/-- The same commands inside their ranges. -/
theorem test_wf_accepts : ∀ c ∈ [Instr.nop 0 65535, .registerWrite f0 0x1FFFFFC 4 0, .slotDataRead f0 0x1FFF000 4096,
    .roundTick quiet, .atr 0 (zeros 33), .flashErase 0xFFF, .readLog 63, .eccWriteBack 0x121 0x1FFFFF], c.wf = true := by
  decide +kernel

/-! ## Instruction words (R253, R254): OPC 31-24, AM 23-20, SC 19-18, RS 17-16, OPND 15-0 -/

/-- LD Y, [X + 0x0004] with SC 0: OPC 0x01, AM 2, RS 2. -/
theorem test_word_ld : g8Decode 0b00000001_0010_00_10_0000000000000100 = ⟨0x01, 2, 0, 2, 4⟩ := by decide
/-- ADD A, [0x1234 + Y x 8]: OPC 0x10, AM 10, SC 3. -/
theorem test_word_add : g8Decode 0b00010000_1010_11_00_0001001000110100 = ⟨0x10, 10, 3, 0, 0x1234⟩ := by decide
/-- BT C to 0x0100: OPC 0x40, AM 1, RS 1. -/
theorem test_word_bt : g8Decode 0b01000000_0001_00_01_0000000100000000 = ⟨0x40, 1, 0, 1, 0x100⟩ := by decide
/-- GATE 31: OPC 0x60, AM 0. -/
theorem test_word_gate : g8Decode 0b01100000_0000_00_00_0000000000011111 = ⟨0x60, 0, 0, 0, 31⟩ := by decide
/-- The same word by the sum R254 states. -/
theorem test_word_sum : (g8Encode ⟨0x50, 0, 1, 2, 0xFFFC⟩).toNat = 0x5006FFFC := by decide

/-! ## The G8 cores -/

/-- A device that has booted, with three virtual functions and 64 MSI-X vectors for each function of port 0, link 0. -/
def up : State := { State.reset with
  round := 100
  power := { Power.reset with
    phase := 8, clock := true, perst0 := false, perst1 := false
    dcr := zeros 12 ++ [3, 0, 0, 0] ++ natLe 2 64 ++ zeros 6 ++ natLe 2 64 }
  house := { House.reset with running := true }
  rng := { Rng.reset with st := .run, shoe := List.replicate 384 7 } }

def c0 : CoreId := .lane 0

/-- `up` with the core of lane 0 as k, and the word w at its PC. -/
def coreAs (k : Core) (w : Nat) : State :=
  store (setLane up 0 { Lane.reset with core := k }) (laneBase 0 + k.pc.toNat) (natLe 4 w)

/-- That core at MONITOR at 0x0100. -/
def coreAt (w : Nat) : State := coreAs { Core.reset with pc := 0x100, sp := 0x800 } w

/-- The premise Due, as a check. -/
def dueB (s : State) (c : CoreId) (w : BitVec 32) : Bool :=
  decide (pendingCause (getCore s c) = none) && coreRuns s c && decide (s.house.core = s.house.twin)
    && (match (fetch s c).2 with | .ok v => v == w | .error _ => false)
    && legal (isHouse c) (getCore (fetch s c).1 c) (g8Decode w)

theorem due_of {s : State} {c : CoreId} {w : BitVec 32} (h : dueB s c w = true) : Due s (fetch s c).1 c (g8Decode w) := by
  simp only [dueB, Bool.and_eq_true, decide_eq_true_eq] at h
  obtain ⟨⟨⟨⟨hq, hr⟩, ha⟩, hw⟩, hl⟩ := h
  refine ⟨hq, hr, fun _ => ha, ⟨w, ?_, rfl⟩, hl⟩
  revert hw
  generalize hf : fetch s c = r
  obtain ⟨t, v | v⟩ := r <;> simp

/-- An operand of w bytes is read. -/
def reads (w : Nat) (s : State) (i : G8Word) : Bool :=
  match (operand w c0 i (slotFree (getCore (fetch s c0).1 c0)) (fetch s c0).1).2 with | .ok _ => true | .error _ => false

/-- Words of G8AddAndSubtract and G8LogicAndSelects, and of MUL: immediate, absolute and indexed operands. -/
theorem witness_g8_byte_operands : ∀ w ∈ [0x10000001, 0x11100200, 0x120000FF, 0x135C0000, 0x149C0010, 0x1500000F, 0x16200004,
    0x17000055, 0x18B00000, 0x28000007, 0x30000001, 0x31110200], dueB (coreAt w) c0 (BitVec.ofNat 32 w) = true
    ∧ reads 1 (coreAt w) (g8Decode (BitVec.ofNat 32 w)) = true := by decide +kernel

/-- Words of CPR, ADW and SBW. -/
theorem witness_g8_word_operands : ∀ w ∈ [0x27010200, 0x29021234, 0x2A13FFFE], dueB (coreAt w) c0 (BitVec.ofNat 32 w) = true
    ∧ reads 2 (coreAt w) (g8Decode (BitVec.ofNat 32 w)) = true := by decide +kernel

/-- Words with no operand to read: MASKT, MASKF, shifts by 0 and 7, INC, DEC, LEA, MOV, NOP, BT, BF, JMP, LOOP of 0,
WAIT, FENCE; and a FENCE with nothing held leaves no late error. -/
theorem witness_g8_words : (∀ w ∈ [0x32000000, 0x33030000, 0x20000000, 0x21000007, 0x22000001, 0x23000007, 0x24000003,
    0x25000000, 0x26010000, 0x03110200, 0x04021234, 0x0F000000, 0x40110200, 0x41100200, 0x42100200, 0x50100110,
    0x51000000, 0x52000000], dueB (coreAt w) c0 (BitVec.ofNat 32 w) = true)
    ∧ (getCore (drainAll (fetch (coreAt 0x52000000) c0).1 c0).1 c0).latePend = none := by decide +kernel

/-- A LOOP of 4,095 passes. -/
theorem witness_g8_loop : dueB (coreAs { Core.reset with pc := 0x100, x := 4095 } 0x50100140) c0 0x50100140 = true := by
  decide +kernel

/-- Loads and stores: LD of a byte and of a word, POP, RET; ST to memory and to a register, PUSH, CALL. -/
theorem witness_g8_memory : (∀ w ∈ [0x01100200, 0x01120200, 0x06000000, 0x06030000, 0x44000000, 0x02100200, 0x02120300,
    0x02B00001, 0x05000000, 0x05010000, 0x43100400], dueB (coreAt w) c0 (BitVec.ofNat 32 w) = true)
    ∧ (∀ w ∈ [0x01100200, 0x01120200], let t := (fetch (coreAt w) c0).1
      let i := g8Decode (BitVec.ofNat 32 w)
      let k := slotFree (getCore t c0)
      (coreRead t c0 (level k) (effAddr k i (regBytes i.rs.toNat)).toNat (regBytes i.rs.toNat)).2.toBool = true
      ∧ (coreRead t c0 (level k) k.sp.toNat 2).2.toBool = true
      ∧ (coreWrite t c0 (level k) (effAddr k i 2).toNat (natLe 2 k.x.toNat)).2.toBool = true
      ∧ (coreWrite t c0 (level k) (k.sp - 2).toNat (natLe 2 0x104)).2.toBool = true) := by decide +kernel

/-- A segment bound to lane 0 with rounds left. -/
def seg0 : Binding where
  seat := 0
  seq := 0
  desc := { opcode := 0x01, mode := 0, xfer := 0, ctrl := 0, key0 := 0, key1 := 0, keySlots := 0, trunc := 0, srcFrags := 0
            src := 0, dst := 0, len := 16, auxLen := 0, dstCap := 16, dstFrags := 0, resv := 0, inl := zeros 64 }
  seg := 0
  tricks := 1
  firstSeg := true
  lastSeg := true
  role := .one
  record := none
  bound := 97
  first := 99
  final := 110
  prologue := 0
  secret := true
  handOff := false
  applet := false
  loaded := true
  refused := none
  key0 := some (zeros 16)
  key1 := none
  suit := 1
  input := zeros 16
  expected := none
  played := false
  outcome := none
  entry := none
  info := 0
  after := none
  toHand := none
  out := []
  outBase := 0
  drained := 0
  resvIn := []
  resvOut := []
  posted := false
  cleared := false

/-- PLAY of an END word under a segment with rounds left. -/
def playing : State :=
  store (modLane (coreAt 0x53000000) 0 fun ln => { ln with binds := [seg0] }) (microAddr 0 0) (natLe 8 0x8000000000000000)

theorem witness_g8_play : dueB playing c0 0x53000000 = true ∧ playRefused (fetch playing c0).1 0 2 0 = false := by
  decide +kernel

/-- GATE 0 at APPLET, with region 0 open to it and gate 0 leading to 0x1000 with SP 0x1800. -/
def gated : State :=
  let s := coreAs { Core.reset with pc := 0x100, sp := 0x800, f := 0 } 0x60000000
  store { s with prot := { s.prot with regions := [(0, 0xFF0F), (1, 0x13F)] } } (ownAddr c0 0xF800)
    (natLe 2 0x1000 ++ natLe 2 0x1800 ++ natLe 4 0x80000000)

def gateBad (w : Nat) : State := { gated with prot := { gated.prot with bad := [(w, some true)] } }
theorem witness_g8_gate : dueB gated c0 0x60000000 = true
    ∧ (let t := (fetch gated c0).1
       let k := getCore gated c0
       let gate := rdN t (ownAddr c0 0xF800) 8
       let framed : Core := { k with pc := k.pc + 4, f := k.f &&& 0xDF, load := none }
       (∀ w ∈ wkeys (ownAddr c0 0xF800) 8, sget none t.prot.bad w ≠ some true)
       ∧ (∃ w ∈ wkeys (ownAddr c0 0xF800) 8, sget none (gateBad w).prot.bad w = some true)
       ∧ bits (leField gate 4 4) 31 31 = 1 ∧ bits (leField gate 4 4) 27 16 = 0 ∧ gateCheck t c0 k (leField gate 4 4) = true
       ∧ (pushFrame t c0 framed 1 (leField gate 2 2) (frameBytes framed 0x0D 0)).isSome = true) := by decide +kernel

/-- MCALL at KERNEL; RETX from a monitor call; RETX over a frame of zeros at KERNEL. -/
theorem witness_g8_returns : dueB (coreAs { Core.reset with pc := 0x100, f := 0x40 } 0x61000000) c0 0x61000000 = true
    ∧ dueB (coreAs { Core.reset with pc := 0x100, mc := true } 0x62000000) c0 0x62000000 = true
    ∧ (let s := coreAs { Core.reset with pc := 0x100, sp := 0x800, f := 0x40 } 0x62000000
       dueB s c0 0x62000000 = true ∧ (readFrame (fetch s c0).1 c0 1 0x800).2.toBool = true
       ∧ forged (zeros 24) 1 = false) := by decide +kernel

/-- A reserved opcode is fetched (R262). -/
theorem witness_g8_reserved : pendingCause (getCore (coreAt 0x07000000) c0) = none ∧ coreRuns (coreAt 0x07000000) c0 = true
    ∧ (fetch (coreAt 0x07000000) c0).2.toBool = true ∧ opRow (g8Decode 0x07000000).opc.toNat 0 = none := by decide +kernel

/-- The frame of an exception at MONITOR goes below SP (R288). -/
theorem witness_g8_entry :
    (pushFrame (coreAt 0) c0 (getCore (coreAt 0) c0) 2 0x800 (frameBytes (getCore (coreAt 0) c0) 4 0)).isSome = true
    ∧ ((pushFrame (coreAt 0) c0 (getCore (coreAt 0) c0) 2 0x800 (frameBytes (getCore (coreAt 0) c0) 4 0)).map fun r =>
      decide ((getCore r.1 c0).f = 0x80)) = some true
    ∧ (∀ w ∈ vectorWords c0 2 4, sget none (coreAt 0).prot.bad w ≠ some true) := by decide +kernel

/-- Causes waiting, an entry whose stack lies in a page under retag, a store waiting, and a core at KERNEL (R265, R282, R297,
R305). -/
def irqAt (sp : BitVec 16) : State := coreAs { Core.reset with sp := sp, f := 0x40, latePend := some 0x1234 } 0
def irqHeld : State :=
  { irqAt 0xB800 with prot := { (irqAt 0xB800).prot with retagAt := some 99 } }
theorem witness_g8_events :
    entryHeld (irqAt 0x800) c0 1 = false ∧ pendingCause (getCore (irqAt 0x800) c0) = some (1, 0x1234)
    ∧ coreRuns (irqAt 0x800) c0 = true ∧ entryHeld irqHeld c0 1 = true ∧ pendingCause (getCore irqHeld c0) = some (1, 0x1234)
    ∧ coreRuns irqHeld c0 = true ∧
    pendingCause { Core.reset with latePend := some 0x1234 } = some (1, 0x1234)
    ∧ pendingCause { Core.reset with f := 0, irqPend := 1 } = some (0x10, 0)
    ∧ pendingCause { Core.reset with f := 0x50, irqPend := 2, irqMask := 7 } = some (0x11, 0)
    ∧ pendingCause { Core.reset with f := 0x40, irqPend := 6, irqMask := 7 } = none
    ∧ coreRuns (coreAs { Core.reset with f := 0x40, irqPend := 2 } 0) c0 = true
    ∧ (getCore (coreAs { Core.reset with sbuf := [⟨0x200, 0, 0, [1], 2, 0, 1601⟩] } 0) c0).sbuf = [⟨0x200, 0, 0, [1], 2, 0, 1601⟩] := by
  decide +kernel

/-! ## Every step -/

/-- A state other than reset is canonical and steps. -/
theorem witness_step : Memory.wf up.mem ∧ swf IrqBlock.reset up.irq = true ∧ swf Seat.reset up.seats = true
    ∧ swf Lane.reset up.lanes = true ∧ swf (none : Option MigRec) up.records = true ∧ swf Engine.reset up.engines = true
    ∧ swf Slot.reset up.slots = true ∧ up.fuses.svn ≤ 63 ∧ up.pending = [] := by decide +kernel

/-- A step that runs a command. -/
theorem witness_step_command : step { up with pending := [.getEndpointId] } = exec .getEndpointId { up with pending := [] } := rfl

/-- Memories in canonical form that read the same. -/
theorem witness_memory : Memory.wf (store up 7 [1, 0, 2]).mem ∧ (store up 7 [1, 0, 2]).mem = [(7, 1), (9, 2)] := by
  decide +kernel

/-! ## Seats and the ring engine -/

def withSeat (x : Seat) : State := setSeat up 0 x

theorem witness_reaches : hostOk up f0 = true ∧ standbyHold up = false ∧ hostOk up f1 = true ∧ boundTo up 0 f0 = true
    ∧ boundTo up 0 f1 = false ∧ hostOk up ⟨0, 0, 4⟩ = false ∧ hostOk up ⟨1, 0, 3⟩ = false := by decide +kernel

/-- SeatTransitions: OFF with legal and illegal rings (2^4, 2^16, 2^3), and each other state a row names. -/
theorem witness_transitions : (∀ x ∈ [Seat.reset, { Seat.reset with sqLog2 := 16, suit := 0xFFFD }],
      seatState up x = .off ∧ (4 ≤ x.sqLog2.toNat ∧ x.sqLog2.toNat ≤ 16 ∧ 4 ≤ x.cqLog2.toNat ∧ x.cqLog2.toNat ≤ 16)
      ∧ ((x.suit = 0 ∧ x.bind.vf = 0) ∨ (1 ≤ x.suit.toNat ∧ x.suit.toNat ≤ 0xFFFD)) ∧ up.power.phase ≠ 9)
    ∧ ¬4 ≤ ({ Seat.reset with sqLog2 := 3 } : Seat).sqLog2.toNat
    ∧ (∀ st ∈ [SeatState.armed, .run, .draining, .halted], seatState up { Seat.reset with st := st } = st)
    ∧ (withSeat { Seat.reset with st := .halted }).seats ≠ []
    ∧ (∀ q ∈ [(SeatState.off, (1 : Word), [SeatState.off]), (.armed, 0, [.armed]), (.armed, 3, [.armed, .draining]),
        (.draining, 3, [.armed, .draining]), (.run, 1, [.run, .draining]), (.draining, 1, [.run, .draining]),
        (.halted, 4, [.halted]), (.run, 0x80000000, [.off, .armed, .run, .draining, .halted])],
      let s := withSeat { Seat.reset with st := q.1, ctrl := [.write q.2.1 q.2.2] }
      (getSeat s 0).ctrl = [.write q.2.1 q.2.2] ∧ seatState s { getSeat s 0 with ctrl := [] } = q.1 ∧ q.1 ∈ q.2.2)
    ∧ standbyHold (withSeat Seat.reset) = false := by decide +kernel

/-- FORCE_HALT by the physical function of the port and link, and by a virtual one; a state that takes effect later. -/
theorem witness_force_halt : f0.vf = 0 ∧ f0.port = Seat.reset.bind.port ∧ f1.vf ≠ 0
    ∧ seatState up { Seat.reset with st := .run, prevSt := .armed, stFrom := 101 } = .armed
    ∧ seatState { up with round := 101 } { Seat.reset with st := .run, prevSt := .armed, stFrom := 101 } = .run := by
  decide +kernel

/-- Doorbells: words for seat 0 within R101 at its bounds, beyond it, and discarded in each way of R100. -/
theorem witness_doorbells :
    let s := withSeat { Seat.reset with st := .run }
    let x := getSeat s 0
    let at_ (sq cq : Nat) : Bytes := natLe 8 (2 ^ 63 * 1 + 2 ^ 62 * 1 + 65536 * cq + sq)
    (∀ p ∈ [(15, 0, true), (0, 0, true), (16, 0, false), (15, 1, false)],
      (at_ p.1 p.2.1).length = 8 ∧ bits (leNat (at_ p.1 p.2.1)) 44 32 = 0 ∧ bits (leNat (at_ p.1 p.2.1)) 61 45 = 0
      ∧ bits (leNat (at_ p.1 p.2.1)) 63 63 = 1 ∧ bits (leNat (at_ p.1 p.2.1)) 15 0 = p.1
      ∧ decide ((p.1 < 2 ^ x.sqLog2.toNat ∧ (x.sqTail + 16 - x.sqHead) % 16 + (p.1 + 16 - x.sqTail) % 16 ≤ 15)
        ∧ (p.2.1 < 16 ∧ (p.2.1 + 16 - x.cqHead) % 16 ≤ (x.cqTail + 16 - x.cqHead) % 16)) = p.2.2)
    ∧ seatState s x = .run ∧ boundTo s 0 f0 = true
    ∧ seatState (withSeat { Seat.reset with st := .armed }) { Seat.reset with st := .armed } = .armed
    ∧ (zeros 4).length ≠ 8 ∧ 4 % 8 ≠ 0 ∧ bits (leNat (natLe 8 (2 ^ 32))) 44 32 ≠ 0
    ∧ bits (leNat (natLe 8 (2 ^ 45))) 61 45 ≠ 0 ∧ seatState up (getSeat up 0) = .off := by decide +kernel

def desc0 : Desc := { seg0.desc with opcode := 0 }

/-- A flight of seat 0 with submission index 0. -/
def flight (d : Desc) : Flight where
  seq := 1
  sq := 0
  desc := d
  fetched := 90
  checked := true
  decided := none
  undo := none
  srcList := none
  dstList := none
  listsAsked := false
  listPool := []
  locked := false
  lockFrom := 0
  nextSeg := 0
  running := false
  dealFrom := 0
  resvIn := []
  resvOut := []
  reserved := false
  input := none
  expected := none
  heldFrom := none
  heldRec := false
  expired := none
  waitFrom := none
  granted := none
  blocks := []
  role := none
  record := none
  outPos := 0
  denied := false
  begun := none
  dmaErr := none
  reads := []

/-- Seat 0 in RUN, of suit 1, with one flight. -/
def seatOf (g : Flight) : Seat := { Seat.reset with st := .run, suit := 1, flights := [g] }
def flying (g : Flight) : State := withSeat (seatOf g)

/-- A fetch: one waiting entry, room for it and a read of 128 bytes at least. -/
theorem witness_descriptor_fetch : running up = true ∧ seatState up { Seat.reset with st := .run, sqTail := 1 } = .run
    ∧ 0 < min (min ((1 + 16 - 0) % 16 - 0) (32 - 0 - 0)) (min (16 - 0) (Config.maxReadUnits (fkey f0))) := by
  refine ⟨by decide, by decide, ?_⟩
  simp only [Config.maxReadUnits]
  have := Nat.two_pow_pos (Config.maxReadCode (fkey f0) % 6)
  omega

/-- A fetch that returns; one a halt made void; one that comes back after the seat halted. -/
theorem witness_fetch_return :
    let ft : Fetch := { start := 0, count := 1, addr := 0, func := f0, issued := 99, stale := false }
    let s := withSeat { Seat.reset with st := .run, fetches := [ft] }
    (getSeat s 0).fetches = [ft] ∧ ft.start = (getSeat s 0).sqHead ∧ running s = true
    ∧ seatState s (getSeat s 0) = .run ∧ ft.stale = false ∧ 0 < ft.count
    ∧ ({ ft with stale := true } : Fetch).stale = true
    ∧ seatState up { Seat.reset with st := .armed } = .armed
    ∧ seatState up { Seat.reset with st := .halted, haltAt := 100 } = .halted ∧ 100 = up.round ∧ (zeros 64).length = 64 := by
  decide +kernel

/-- A descriptor with a source and a destination list of five fragments. -/
def listed : Desc := { desc0 with xfer := 0x50, srcFrags := 5, dstFrags := 5 }

theorem names_of {s : State} {g : Flight} {p : Flight → Bool} (h : (getSeat s 0).flights = [g]) (hs : g.sq = 0)
    (hp : p g = true) : Names s 0 0 g p := by
  simp [Names, h, hs, hp]

/-- FragmentLists: lists to be asked for, and lists on their way. -/
def unlisted : Flight := flight { desc0 with xfer := 0xC0, srcFrags := 5, dstFrags := 5 }
def asked : Flight := { unlisted with listsAsked := true }
theorem witness_fragment_fetch : running (flying unlisted) = true ∧ seatState (flying unlisted) (seatOf unlisted) = .run
    ∧ Names (flying unlisted) 0 0 unlisted (fun h => h.decided.isNone && !h.listsAsked && (h.desc.srcFrag || h.desc.dstFrag))
    ∧ 4 ≤ poolFree (flying unlisted) ∧ poolTurn (flying unlisted) 0 4 = true :=
  ⟨by decide, by decide, names_of rfl rfl (by decide +kernel), by decide +kernel, by decide +kernel⟩
theorem witness_fragment_return : ∀ dst : Bool, Names (flying asked) 0 0 asked (fun h => h.decided.isNone && h.listsAsked
    && (if dst then h.desc.dstFrag && h.dstList.isNone else h.desc.srcFrag && h.srcList.isNone)) :=
  fun dst => names_of rfl rfl (by cases dst <;> decide)

/-- Staging: a lane segment of 16 bytes, an engine request above its seat's limit, and input that returns. -/
def lanes16 : Flight := flight seg0.desc
def engine64 : Flight := flight { seg0.desc with opcode := 0x3A, mode := 0, len := 64, dstCap := 64 }
def reservedIn : Flight := { lanes16 with reserved := true, resvIn := [0] }
theorem witness_staging :
    (running (flying lanes16) = true
      ∧ Names (flying lanes16) 0 0 lanes16 (fun h => h.decided.isNone && stages h.desc && listsIn h && !h.reserved
        && decide (h.nextSeg < segCount h.desc)) ∧ seatLive (flying lanes16) 0 = true
      ∧ opClass lanes16.desc.op ≠ .engine ∧ needIn lanes16 0 + needOut lanes16 0 ≤ poolFree (flying lanes16)
      ∧ seatLets (flying lanes16) 0 lanes16 (needIn lanes16 0 + needOut lanes16 0) = true
      ∧ poolTurn (flying lanes16) 0 (needIn lanes16 0 + needOut lanes16 0) = true)
    ∧ (let s := withSeat { seatOf engine64 with stageLim := 0 }
       Names s 0 0 engine64 (fun h => h.decided.isNone && stages h.desc && listsIn h && !h.reserved
        && decide (h.nextSeg < segCount h.desc)) ∧ seatLive s 0 = true ∧ opClass engine64.desc.op = .engine
      ∧ (getSeat s 0).stageLim < needIn engine64 0 + needOut engine64 0)
    ∧ Names (flying reservedIn) 0 0 reservedIn (fun h => h.decided.isNone && (h.reserved || isCeremony h.desc.op)
        && (decide (0 < hostBytes (segSpans h h.nextSeg)) && h.input.isNone)) :=
  ⟨⟨by decide, names_of rfl rfl (by decide +kernel), by decide +kernel, by decide +kernel, by decide +kernel,
      by decide +kernel, by decide +kernel⟩,
    ⟨names_of rfl rfl (by decide +kernel), by decide +kernel, by decide +kernel, by decide +kernel⟩,
    names_of rfl rfl (by decide +kernel)⟩

/-- Staging's last clause: a cipher descriptor of one trick, contiguous in host memory. -/
theorem witness_two_tricks : opClass lanes16.desc.op = .cipher ∧ lanes16.srcList = none ∧ lanes16.dstList = none
    ∧ lanes16.desc.srcKitty = false ∧ lanes16.desc.dstKitty = false ∧ lanes16.desc.result = 0 ∧ 0 < lanes16.desc.l
    ∧ lanes16.desc.l ≤ lanes16.desc.cap ∧ lanes16.nextSeg < segCount lanes16.desc := by decide +kernel

/-- CompletionEntry: a status decided in an earlier round, with a free entry; and the wrap of the ring. -/
def decided0 : Flight := { flight desc0 with decided := some ⟨.done, 0, 99, false⟩ }
theorem witness_completion : nextDone (seatOf decided0).flights = some decided0 ∧ running (flying decided0) = true
    ∧ 99 < up.round ∧ released (flying decided0) decided0 = true ∧ (0 + 1) % 2 ^ (4 : Nat) ≠ (seatOf decided0).cqSeen
    ∧ undrained (flying decided0) 0 1 = false ∧ inTurn (flying decided0) 0 decided0 99 = true
    ∧ (15 + 1) % 2 ^ (4 : Nat) = 0 := by decide +kernel

/-- RingEvents: a timer that has run out, a drained seat, a write at the head of its queue, a vector to unmask. -/
theorem witness_ring_events :
    (let x := { Seat.reset with irqEn := .now true, oldest := some 90, coalTime := .now 10 }
     x.irqEn.at_ 100 = true ∧ x.oldest = some 90 ∧ 0 < x.coalTime.at_ 100 ∧ 90 + x.coalTime.at_ 100 ≤ 100)
    ∧ seatState up { Seat.reset with st := .draining, ctrl := [.drained] } = .draining
    ∧ (let w : LinkWrite := { func := f0, addr := 0, data := zeros 64, kind := .payload, issued := 99 }
       sget [] ({ up with link := { up.link with queue := [(0, [w])] } } : State).link.queue 0 = [w]
       ∧ sget 0 up.link.used 0 + writeSize w ≤ linkRoom up 0 0)
    ∧ msixSize up f0 = 64 ∧ sget false up.link.msiPend 63 = false ∧ sget false ([(63, true)] : SMap Bool) 63 = true := by
  decide +kernel

/-! ## Rounds, waits and locks -/

/-- RoundBoundary: an ordinary round, a STANDBY request two rounds old, a stopped clock. -/
theorem witness_round : running up = true ∧ (quietTurn (endRound up quiet)).power.resetReq = false
    ∧ standbyDue (quietTurn (endRound up quiet)) = false
    ∧ (let s := { up with power := { up.power with stbyAt := some 98 } }
       running s = true ∧ (quietTurn (endRound s quiet)).power.resetReq = false
       ∧ standbyDue (quietTurn (endRound s quiet)) = true)
    ∧ running { up with power := { up.power with clock := false } } = false ∧ up.aon.due = 0 ∧ up.aon.restart = 0
    ∧ up.aon.rearm = 0 ∧ up.aon.test = none
    ∧ (quietTurn (tripTurn { up with power := { up.power with clock := false } })).power.resetReq = false
    ∧ up.aon.rtcAcc < 25000000 ∧ up.aon.rtcFrac.toNat < 32768 ∧ rtcTotal up.aon + 32768 < 2 ^ 47 * 25000000 := by
  decide +kernel

/-- A wait of a descriptor held since round 40 whose hand is occupied by another message. -/
def heldBy : MigRec where
  opcode := 0x02
  mode := 0
  decrypt := false
  key1Used := false
  key0 := 0
  key1 := 0
  keySlots := 0
  openSeat := 3
  aadBytes := 0
  msgBytes := 0
  openRound := 30
  saves := 0
  st := .reset
  suit := 1
  hand := some 0
  isOpen := true
  occupant := none
  occEnd := none
def waiting : Flight := { lanes16 with desc := { seg0.desc with opcode := 0x02, xfer := 0x01 }, heldFrom := some 40,
                                       reserved := true, input := some (zeros 16) }
def held : State :=
  let s := flying waiting
  { s with records := [(0, some heldBy)], dealer := { s.dealer with waitLim := 50 } }
theorem witness_hand_wait : waiting ∈ (getSeat held 0).flights ∧ isHeld held 0 waiting = true
    ∧ 40 + held.dealer.waitLim ≤ held.round ∧ running (flying { waiting with expired := some 99 }) = true
    ∧ Names (flying { waiting with expired := some 99 }) 0 0 { waiting with expired := some 99 }
      (fun h => h.decided.isNone && h.expired.isSome) :=
  ⟨by decide +kernel, by decide +kernel, by decide +kernel, by decide, names_of rfl rfl (by decide +kernel)⟩

/-- A wait for random blocks, of a descriptor and of a request queued in an engine, since round 40 with a limit of 50. -/
def rngWait : Flight := { flight { desc0 with opcode := 0x60 } with waitFrom := some 40 }
def ticket0 : Ticket where
  lane := 0
  seat := 0
  seq := 1
  desc := { desc0 with opcode := 0x3A, mode := 0 }
  q := 80
  rot := 0
  raw := none
  input := []
  resvIn := []
  resvOut := []
  suit := 1
  waitFrom := some 40
theorem witness_rng_wait : Names (flying rngWait) 0 0 rngWait (fun h => h.decided.isNone && h.granted.isNone && h.waitFrom.isSome)
    ∧ 40 + 50 - 1 ≤ up.round ∧ ({ Engine.reset with queue := [ticket0] } : Engine).queue = [ticket0] :=
  ⟨names_of rfl rfl (by decide), by decide, rfl⟩

/-- SegmentsEnd: segments past their final round, one of several, the last, refused, handed off, and an applet's. -/
def done0 : Binding := { seg0 with final := 100, played := true, outcome := some (.done, 0) }
def bound (b : Binding) : State := setLane up 0 { Lane.reset with binds := [b] }
theorem witness_segments : (∀ b ∈ [done0, { done0 with refused := some (.policy, 0x0801) }, { done0 with handOff := true },
      { done0 with desc := { done0.desc with len := 8192, opcode := 0x02 } }],
      (getLane (bound b) 0).binds.find? (fun c => !c.posted && decide (c.final ≤ (bound b).round)) = some b ∧ b.toHand = none)
    ∧ done0.seg + 1 = segCount done0.desc
    ∧ done0.seg + 1 ≠ segCount { done0.desc with len := 8192, opcode := 0x02 }
    ∧ (∀ b ∈ [{ done0 with applet := true }, { done0 with applet := true, final := 101 },
        { done0 with applet := true, outcome := none }, { done0 with applet := true, handOff := true }],
      (getLane (bound b) 0).binds.find? (fun c => !c.posted && c.applet && c.loaded && c.refused.isNone
        && decide (c.first ≤ (bound b).round)) = some b ∧ b.toHand = none)
    ∧ (getLane (bound done0) 0).pkrAt.go = false := by decide +kernel

/-- SegmentsEnd, the request in an applet's window: MODADD of five words. -/
def rawBind : Binding := { done0 with applet := true, desc := { done0.desc with opcode := 0x80, dstCap := 64 } }
def rawWindow : Pkr := { Pkr.reset with op := 1, words := 5, go := true }
theorem witness_raw_request :
    let s := setLane up 0 { Lane.reset with binds := [rawBind], pkrAt := rawWindow }
    (getLane s 0).binds.find? (fun c => !c.posted && c.applet && c.loaded && c.refused.isNone && decide (c.first ≤ s.round))
      = some rawBind
    ∧ rawBind.outcome = some (.done, 0) ∧ (getLane s 0).pkrAt.go = true ∧ rawFails s rawBind (getLane s 0).pkrAt = [] := by
  decide +kernel

/-- KittyLocks: a source in slot 5, DEVICE for the seat; the same slot HOST; the same slot taken by the host. -/
def fromKitty : Flight := flight { seg0.desc with xfer := 0x10, src := 5 * 4096 }
def kittyOf (owner : BitVec 2) (touched : List Nat) : State :=
  let s := flying fromKitty
  { s with kitty := { s.kitty with flags := [(5, ⟨owner, 7, 0⟩)], touched := touched } }
theorem witness_kitty_lock : (∀ o t, Names (kittyOf o t) 0 0 fromKitty (fun h => h.decided.isNone && h.checked && !h.locked
      && listsIn h && decide (h.lockFrom ≤ (kittyOf o t).round) && (kittyNamed h).length != 0))
    ∧ kittyNamed fromKitty = [5] ∧ running (kittyOf 2 []) = true ∧ seatState (kittyOf 2 []) (seatOf fromKitty) ≠ .halted
    ∧ (getFlag (kittyOf 2 []) 5).owner = 2 ∧ (getFlag (kittyOf 2 []) 5).seat.toNat = 0
    ∧ (getFlag (kittyOf 1 []) 5).owner ≠ 2 ∧ (getFlag (kittyOf 1 []) 5).owner ≠ 3 ∧ 5 ∈ (kittyOf 2 [5]).kitty.touched :=
  ⟨fun _ _ => names_of rfl rfl (by show _ = true; exact (by decide +kernel :
      ((fromKitty.decided.isNone && fromKitty.checked && !fromKitty.locked && listsIn fromKitty
        && decide (fromKitty.lockFrom ≤ 100) && (kittyNamed fromKitty).length != 0) = true))),
    by decide +kernel, by decide, by decide, by decide, by decide, by decide, by decide, by decide⟩

/-! ## Registers -/

/-- ReadsThatClear, RegisterAccess: a physical and a virtual function; pairs with and without a copy; writes refused. -/
theorem witness_registers : hostOk up f0 = true ∧ f0.vf = 0 ∧ f1.vf ≠ 0 ∧ (0x70004, 1) ∈ [(0x70004, 1)]
    ∧ (∀ o ∈ [0x20000, 0x30000 + 64 * 4095 + 0x10, 0xF1000 + 32 * 63], sget none up.cnt.holding (holdKey up f0 (o + 4)) = none
      ∧ sget none (sput none up.cnt.holding (holdKey up f0 (o + 4)) (some (5 : Word))) (holdKey up f0 (o + 4)) = some 5)
    ∧ (regView up f0 0x1A0000).2 = true ∧ 0x1A0000 % 4 = 0 ∧ 0x20010 / 0x10000 ∈ [1, 2, 8, 10, 11, 12, 14, 15, 16, 17, 18] := by
  decide +kernel

/-- VirtualFunctionsKeepToTheirSeats: a write by a virtual function, and a seat bound to another. -/
theorem witness_virtual : f1.vf ≠ 0 ∧ boundTo up 0 f1 = false
    ∧ (match exec (.registerWrite f1 0x20010 4 0) up with | .next _ => true | _ => false) = true := by decide +kernel

/-! ## The kitty -/

/-- FlagWrites: each transition of R117 for slot 5 at SEQ 7 under seat 0, and one with a wrong SEQ. -/
theorem witness_flag_writes : (∀ p ∈ [((0 : BitVec 2), 1), (1, 2), (1, 0), (2, 1)],
      let s := setSeat (kittyOf p.1 []) 0 { Seat.reset with st := .run }
      let v := leNat (natLe 4 (p.2 * 2 ^ 30 + 7 * 65536))
      (natLe 4 (p.2 * 2 ^ 30 + 7 * 65536)).length = 4 ∧ bits v 31 30 = p.2 ∧ bits v 29 16 = (getFlag s 5).seq.toNat
      ∧ bits v 15 13 = 0 ∧ bits v 12 0 = 0 ∧ boundTo s 0 f0 = true ∧ seatState s (getSeat s 0) ≠ .off
      ∧ slotsHeld s f0 < getLimit s (fkey f0))
    ∧ bits (leNat (natLe 4 (8 * 65536))) 29 16 ≠ 7 ∧ bits (leNat (natLe 4 0x2000)) 15 13 ≠ 0 := by decide +kernel

/-- SlotData: a slot HOST under a seat of the function, read and written across its first granule; one that is not; and a word of it
beyond correction. -/
def withSuit (t : State) : State := { t with seats := [(0, { Seat.reset with st := .run, suit := 2 })] }
theorem witness_slot_data :
    (let s := kittyOf 1 []
     let t := { s with prot := { s.prot with tags := [] }, seats := [(0, { Seat.reset with st := .run })] }
     slotAllowed t f0 (5 * 4096) 64 = true ∧ slotSuitOk t (5 * 4096) 64 false = true ∧ slotSuitOk t (5 * 4096) 64 true = true
     ∧ (∀ k ∈ kittyKeys (5 * 4096) 64, sget none t.prot.bad k = none)
     ∧ slotSuitOk (withSuit t) (5 * 4096) 64 false = false ∧ slotSuitOk (withSuit t) (5 * 4096) 64 true = false
     ∧ slotAllowed (withSuit t) f0 (5 * 4096) 64 = true)
    ∧ slotAllowed up f0 0 64 = false ∧ (5 * 4096 < 0x1000000)
    ∧ ((kittyKeys (5 * 4096) 64).any fun k => sget none [((kittyKeys (5 * 4096) 64).headD 0, some true)] k == some true) = true := by
  decide +kernel

/-! ## Engines, random bits, the key store's erase, tamper -/

/-- EngineTurns: a start whose load passed, operations that have run (refused, done), a collect that is due. -/
def run0 : Running where
  ticket := { ticket0 with waitFrom := none }
  s := 90
  e := 10
  key := none
  blocks := []
  blind := false
  played := true
  outcome := some (.rangeInvalid, 0)
  out := []
  sent := 0
  toHand := none
theorem witness_engine_turns :
    (let st : Start := { ticket := ticket0, s := 100, blocks := [], loaded := true, refused := none, key := none }
     let e := { Engine.reset with start := some st }
     e.start = some st ∧ e.run = none ∧ st.s ≤ up.round)
    ∧ run0.ticket.raw = none ∧ run0.s + run0.e ≤ up.round ∧ operandBad up 0 = []
    ∧ (unload up run0.ticket (.done, 0) 0 []).2 = false ∧ up.dealer.frozen = false
    ∧ ({ up.dealer with frozen := true } : Dealer).frozen = true ∧ Engine.reset.ended = []
    ∧ (let fin : Finished := { ticket := ticket0, ended := 95, status := .done, detail := 0, toHand := none }
       let e := { Engine.reset with ended := [fin], colls := [(0, 100)] }
       e.colls = [(0, 100)] ∧ e.ended = [fin] ∧ 100 ≤ up.round) := by decide +kernel

/-- EngineOperations: for every engine opcode an operation of that opcode, not yet worked out. -/
theorem witness_engine_operations : ∀ p ∈ engineOps 0, p.2.1 < 256
    ∧ ({ ticket0.desc with opcode := BitVec.ofNat 8 p.2.1 } : Desc).op = p.2.1 := by decide +kernel

/-- EngineArithmetic: an RSA modulus of full size with exponent 65537, a peer's value of 2, a raw modulus of one word. -/
theorem witness_engine_arithmetic :
    (let n := 2 ^ 1023 + 1
     n % 2 = 1 ∧ 2 ^ 1023 ≤ n ∧ n < 2 ^ 1024 ∧ 65537 % 2 = 1 ∧ 65537 < 2 ^ 32 ∧ 0 < 2 ∧ 2 < n)
    ∧ (let p : Pkr := { Pkr.reset with op := 3, words := 4, m := natBe 32 (2 ^ 255 + 1) ++ zeros 224 }
       let m := beNat (p.m.take 32)
       m % 2 = 1 ∧ 2 ^ (8 * 32 - 64) ≤ m ∧ beNat (p.a.take 32) < m ∧ beNat (p.b.take 32) < m) := by decide +kernel

/-- RandomBitGenerator: each command's own state. -/
def pw (i : Nat) : PoolWord := ⟨i, 5, 90⟩
def startedUp (pool : List PoolWord) (a b : Expander) (st : RngState) : State :=
  let h : Source := { Source.reset with on := true, healthy := true, startup := 0, absorbed := 512 }
  { up with rng := { Rng.reset with st := st, pool := pool, expA := a, expB := b, src := [(0, h), (1, h), (2, { h with healthy := false })] } }
theorem witness_rng :
    (let s := startedUp [pw 0, pw 1, pw 0] .reset .reset .startup
     (getSource s 0).healthy = true ∧ (getSource s 0).absorbed = 512 ∧ (getSource s 2).on = true
     ∧ (getSource s 2).healthy = false ∧ (getSource s 2).lockout = false ∧ (getSource s 2).startup = 0
     ∧ takeSeed s.rng.pool = some ([pw 0, pw 1, pw 0], []) ∧ s.rng.expA.st = .empty ∧ s.rng.st ≠ .run ∧ 2 ≤ healthyCount s ∧ running s = true)
    ∧ (let s := startedUp [pw 0, pw 1, pw 0] { Expander.reset with st := .waitSeed } { Expander.reset with st := .ready } .run
       s.rng.expA.st = .waitSeed ∧ s.rng.expB.st ≠ .instantiating ∧ s.rng.expB.st ≠ .reseeding)
    ∧ (let s := startedUp [] { Expander.reset with st := .reseeding, until_ := 100 } { Expander.reset with st := .ready, part := 4 } .run
       s.rng.expA.until_ ≤ s.round ∧ s.rng.st ≠ .startup ∧ s.rng.expB.part = 4 ∧ s.rng.expA.part ≠ 4)
    ∧ 4096 ≤ ({ Rng.reset with high := 4096 } : Rng).high
    ∧ Expander.reset.v.length = 16 ∧ [pw 0].length ≤ 8 := by decide +kernel

/-- KeyStoreCommands: a store not READY and wiped, with blocks and without; a wipe that is over; reserved blocks. -/
def wiped : State := { up with keys := { up.keys with wipeLeft := 0 }, aon := { up.aon with rootValid := true } }
theorem witness_key_store : wiped.keys.ready = false ∧ wiped.keys.wipeLeft = 0 ∧ wiped.keys.wipeFault = false
    ∧ wiped.keys.rearm = none ∧ wiped.keys.rearmRes = none ∧ wiped.power.phase ≠ 9 ∧ wiped.aon.rootValid = true
    ∧ wiped.rng.st = .run ∧ 3 ≤ wiped.rng.shoe.length
    ∧ houseHas { wiped with rng := { wiped.rng with shoe := [1, 2] } } 3 = false
    ∧ (let s := { wiped with
          rng := { wiped.rng with shoe := [1, 2], resv := 4 }
          dealer := { wiped.dealer with sheets := [{ round := 102, dummies := [], refresh := some 5, seed := [3, 4, 5, 6] }] } }
       s.rng.shoe.length < 3 ∧ (newRefresh s).map (·.seed) = some [3, 4, 5, 6])
    ∧ up.keys.wipeLeft ≠ 0 ∧ hostOk wiped f0 = true ∧ hostOk wiped f1 = true ∧ standbyHold wiped = false
    ∧ (let k := { wiped.keys with wiping := true, wipeAt := 5, rearmRes := some 99 }
       k.wiping = true ∧ k.wipeAt + 16386 ≤ 16391 ∧ k.rearmRes = some 99 ∧ 99 < wiped.round) := by decide +kernel

/-- EraseLeavesNoKey: a STORE_INIT that made the ROOT_KEY in this round, and a state without one. -/
def rooted : Flight :=
  { flight { desc0 with opcode := 0x70 } with decided := some ⟨.done, 0, 100, true⟩, undo := some .root }
theorem witness_erase : committedNow (flying rooted) rooted = true ∧ rooted ∈ (getSeat (flying rooted) 0).flights
    ∧ isCeremony rooted.desc.op = true ∧ rooted.desc.op ≠ 0x77 ∧ 100 = (flying rooted).round ∧ up.seats = []
    ∧ swf IrqBlock.reset (flying rooted).irq = true ∧ swf Seat.reset (flying rooted).seats = true := by decide +kernel

/-- MonitorsTrip: TEMP_HIGH at 110 degrees for the third sample trips (its set holds no ROOT_KEY clear), 109 does not;
on the backup cell too; a source whose set clears ROOT_KEY. -/
def hot (n : Nat) : State := { up with aon := { up.aon with filters := [(0, { Filter.reset with hits := n })] } }
theorem witness_monitors : sampleCond (hot 2) 0 ⟨110, false⟩ = true ∧ sampleCond (hot 2) 0 ⟨109, false⟩ = false
    ∧ tcrFilter (hot 2) 0 = 3 ∧ armed (hot 2) 0 = true ∧ (sget Filter.reset (hot 2).aon.filters 0).next ≤ (hot 2).aon.now
    ∧ bit (tcrResp up 0) 4 = false ∧ bit (tcrResp up 16) 4 = true ∧ up.aon.test = none ∧ (16 : Nat) < 24
    ∧ armed { hot 2 with power := { up.power with main := false, clock := false } } 0 = true := by decide +kernel

/-- MonitorsTrip, the end of a round: sets with each response among the sources that qualified; sets without a clear. -/
def tripping (due : BitVec 28) : State := { up with aon := { up.aon with due := due } }
theorem witness_trips : dueSources (tripping 0x10005) = [0, 2, 16] ∧ bit (tcrResp (tripping 5) 0) 0 = true
    ∧ bit (tcrResp (tripping 5) 0) 1 = true ∧ bit (tcrResp (tripping 5) 0) 2 = true ∧ bit (tcrResp (tripping 4) 2) 3 = true
    ∧ bit (tcrResp (tripping 4) 2) 5 = true ∧ bit (tcrResp (tripping 0x10000) 16) 4 = true
    ∧ bit (tcrResp (tripping 0x100) 8) 6 = true ∧ bit (tcrResp (tripping 1) 0) 3 = false
    ∧ bit (tcrResp (tripping 1) 0) 4 = false ∧ up.aon.logNext < 64 := by decide +kernel

/-- TamperCommands: a freeze that may clear and one that is latched; a test of source 0; a test whose window is over; a
freeze cleared in the round before; a filter to start afresh. -/
theorem witness_tamper : (let s := { up with aon := { up.aon with freeze := true } }
      s.aon.latched = 0 ∧ (∀ j ∈ List.range 28,
        (sget Filter.reset s.aon.filters j).raw = false ∧ stimulus s j = false ∧ bit s.aon.due j = false
        ∧ ¬(24 ≤ j ∧ (sget Filter.reset s.aon.filters j).next = s.aon.now + 1)))
    ∧ ({ up.aon with latched := 1 } : Aon).latched ≠ 0 ∧ bit (0x80000000 : Word) 31 = true ∧ bit (0 : Word) 31 = false
    ∧ up.power.st = .run ∧ up.aon.test = none ∧ armed up 0 = true ∧ ¬24 > 24
    ∧ (let x : SelfTest := { source := 0, n := 10, window := 89, passed := true }
       x.n + x.window < up.round)
    ∧ ({ up.aon with thaw := some 100 } : Aon).thaw = some 100 ∧ 100 ≤ up.round
    ∧ bit ({ up.aon with restart := 1, rearm := 1 } : Aon).restart 0 = true
    ∧ bit ({ up.aon with restart := 1, rearm := 1 } : Aon).rearm 0 = true ∧ bit up.aon.restart 0 = false := by decide +kernel

/-! ## Power, boot and links -/

/-- Supplies, BootEnds, PowerRequests: each premise on power in a state of its own. -/
theorem witness_power : up.power.main = true ∧ ({ up.power with main := false } : Power).main = false
    ∧ State.reset.power.perst0 = true ∧ ({ State.reset.power with perst1 := false } : Power).perst1 = false
    ∧ ({ up.power with phase := 3, phaseAt := 0, bootRounds := 2500000 } : Power).phase = 3 ∧ up.power.phase ≠ 3
    ∧ 0 + 25000 ≤ ({ up.power with phase := 7, bootRounds := 25000 } : Power).bootRounds
    ∧ hostOk up f0 = true ∧ up.power.st = .run ∧ up.power.stbyAt = none ∧ seatsQuiet up = true
    ∧ seatsQuiet (withSeat { Seat.reset with st := .run }) = false
    ∧ hostOk { up with power := { up.power with st := .standby, clock := false } } f0 = true
    ∧ up.power.cell = true ∧ bit (tripping 0x10005).aon.due 16 = true ∧ up.aon.due = 0
    ∧ 8 ≤ up.power.phase ∧ State.reset.power.phase < 8 ∧ hostOk up ⟨1, 0, 0⟩ = true ∧ hostOk up ⟨0, 1, 0⟩ = false := by
  decide +kernel

/-! ## House firmware's orders, the error logic, the sideband and the test port -/

/-- HouseOrders: a sheet that waits, a stopped core without one, a retag free and running. -/
def sheet0 : ScoreReq where
  cause := 1
  round := 90
  unit := 1
  seat := 0
  sq := 0
  opcode := 0
  status := 0
  detail := 0
  frame := zeros 24
  play := 0
  left := 0
  late := 0
  lateI := 0
  data := []
  snap := some (zeros 92)
theorem witness_house : houseUp up = true ∧ houseUp State.reset = false ∧ up.aon.freeze = false
    ∧ ({ up.aon with freeze := true } : Aon).freeze = true
    ∧ (let s := { up with house := { up.house with queue := [sheet0] } }
       houseUp s = true ∧ s.house.queue = [sheet0] ∧ ¬(sheet0.cause = 1 ∧ sheet0.unit = 0))
    ∧ (getLane (setLane up 0 { Lane.reset with core := { Core.reset with stopped := true } }) 0).core.stopped = true
    ∧ up.prot.retagAt = none ∧ (0xFFFD : BitVec 16) ≠ 0xFFFE ∧ fld (0xFFFD0000 : Word) 31 16 ≠ 0xFFFE
    ∧ fld (0xFFFE8000 : Word) 31 16 = 0xFFFE ∧ ({ up.prot with retagAt := some 90 } : Prot).retagAt.isSome = true := by
  decide +kernel

/-- MemoryIntegrity: a word that waits for its write-back; a leak that is due; a burst in house RAM, one outside it. -/
theorem witness_memory_integrity : sget false ([(wkey 0 5, true)] : SMap Bool) (wkey 0 5) = true
    ∧ sget false up.prot.fix (wkey 0 5) = false
    ∧ (let s := { up with round := 50000000, prot := { up.prot with bucket := [(0, 3)] } }
       swf 0 s.prot.bucket = true ∧ s.power.st = .run ∧ s.power.clock = true ∧ s.power.stbyAt = none
       ∧ s.prot.leakPer.at_ s.round ≠ 0
       ∧ s.round % s.prot.leakPer.at_ s.round = 0 ∧ s.prot.leakAt ≠ some s.round)
    ∧ up.round % up.prot.leakPer.at_ up.round ≠ 0 ∧ debugOn up = true ∧ running up = true
    ∧ (∃ i, i < 4 ∧ debugBad up false (0xB000 + i) = true)
    ∧ (∀ i, i < 4 → debugBad up false (0x100 + i) = false ∧ debugBad up true (0x100 + i) = false
      ∧ housePlace (0x100 + i) = .cell (0x100 + i))
    ∧ (∀ k ∈ wkeys 0x100 4, sget none up.prot.bad k = none)
    ∧ (∀ a ∈ [0x0100070004, 0x0100070005, 0x0100070006, 0x0100070007], debugBad up false a = false)
    ∧ (∀ k ∈ wkeys 0x0100070004 4, sget none up.prot.bad k = none) := by
  refine ⟨by decide, by decide, by decide, by decide, by decide, by decide, ⟨0, by decide, by decide⟩, ?_, by decide,
    by decide +kernel, by decide +kernel⟩
  intro i hi
  have : i = 0 ∨ i = 1 ∨ i = 2 ∨ i = 3 := by omega
  obtain rfl | rfl | rfl | rfl := this <;> decide

/-- SidebandAndTestPort: served and not, in and out of the flash's boot phases, in each lifecycle. -/
theorem witness_sideband : sidebandUp up = true ∧ sidebandUp { up with power := { up.power with st := .off } } = false
    ∧ ¬(3 ≤ up.power.phase ∧ up.power.phase ≤ 6) ∧ 0x20000 / 0x10000 ∉ [0x00, 0x01, 0x0B, 0x0F, 0x11, 0x13]
    ∧ 0xB0000 / 0x10000 ∈ [0x00, 0x01, 0x0B, 0x0F, 0x11, 0x13] ∧ 255 % 256 + 1 ≤ 256 ∧ 256 < 255 % 256 + 2
    ∧ up.power.main = true ∧ up.fuses.lc = .blank ∧ liveHands up = 0
    ∧ liveHands { up with keys := { up.keys with hands := [(0, { Hand.reset with live := true })] } } ≠ 0 := by decide +kernel

/-! ## Lane opcodes, services and ceremonies -/

/-- LaneOpcodes: for every opcode a running segment of it; and a lane without one. -/
def segFor (op : Nat) : Binding := { seg0 with desc := { seg0.desc with opcode := BitVec.ofNat 8 op } }
theorem witness_lane_opcodes : (∀ p ∈ laneRows 0, playable (bound (segFor p.2.1)) 0 p.2.1 = some (segFor p.2.1))
    ∧ (∀ p ∈ unwrapRows 0, playable (bound (segFor p.2.1)) 0 p.2.1 = some (segFor p.2.1)) ∧ playable up 0 0x01 = none := by
  decide +kernel

/-- A descriptor of a service or ceremony on hand 7, of generation 1. -/
def bare (op : Nat) : Desc :=
  { seg0.desc with opcode := BitVec.ofNat 8 op, len := 0, dstCap := 0, key0 := 0x00010007, key1 := 0x00010007 }
def key (t : BitVec 4) (n : Nat) (g : Nat) : KeyObj :=
  { type := t, param := 0x10, usage := 0xFFFF, mat := zeros n, gran := [g] }
/-- Hand 7 of suit 1 holds an AES key in slot 2, a secret in slot 3, an RSA-1024 key in slot 4. -/
def hand7 : Hand := { Hand.reset with
  suit := 1, gen := 1, live := true, policy := 3, defUse := 0xFFFF
  slots := [(2, some (key 1 16 9000)), (3, some (key 5 32 9001)), (4, some (key 6 16 9002))] }
def served (g : Flight) : State :=
  let s := flying g
  { s with
    keys := { s.keys with ready := true, hands := [(7, hand7)] }
    prot := { s.prot with tags := [7, 9000, 9001, 9002].map fun g => (storeTag g, 1) } }
def turn (g : Flight) : Bool :=
  decide (houseTurn (served g) 0 0 g.desc.op = some g) && (spanFails (served g) 1 [] (dstSpans g) g.resvOut).isEmpty
def named (g : Flight) : Bool := (handFails (served g) 0 g.desc.key0 0x0C01 0x0806).isEmpty
def sound (g : Flight) (l : List Nat) : Bool := (l.flatMap storeWords).all fun k => sget none (served g).prot.bad k == none

/-- NOP; RANDOM whose blocks have come, with a place to put them. -/
def randomOf : Flight := { flight { bare 0x60 with len := 16, dstCap := 64 } with granted := some 98, blocks := [5] }
theorem witness_nop_random : Names (flying (flight desc0)) 0 0 (flight desc0) (fun h => h.decided.isNone && h.dmaErr.isNone
      && decide (h.desc.op = 0))
    ∧ Names (flying randomOf) 0 0 randomOf (fun h => h.decided.isNone && decide (h.desc.op = 0x60) && h.granted.isSome)
    ∧ randomOf.granted = some 98 ∧ 98 + 2 ≤ up.round ∧ running (flying randomOf) = true
    ∧ spanFails (flying randomOf) 1 [] (dstSpans randomOf) randomOf.resvOut = []
    ∧ (putTricks (flying randomOf) 0 randomOf 0 ((blockBytes randomOf.blocks).take 16)).2 = false :=
  ⟨names_of rfl rfl (by decide), names_of rfl rfl (by decide), rfl, by decide, by decide, by decide +kernel, by decide +kernel⟩

/-- HAND_ALLOC, HAND_FREE, SLOT_CLEAR. -/
theorem witness_hand_services :
    (let g := flight { bare 0x50 with dstCap := 4 }
     turn g = true ∧ svcParam g.desc false false true 8 = [] ∧ fld (byteAt g.desc.inl 4) 7 2 = 0 ∧ byteAt g.desc.inl 5 = 0
     ∧ 4 ≤ g.desc.cap ∧ emptyHand (served g) = some 0 ∧ sound g [0] = true)
    ∧ (let g := flight (bare 0x51)
       turn g = true ∧ named g = true ∧ svcParam g.desc false false false 0 = [] ∧ g.desc.slot0 = 0
       ∧ heldService (served g) 0 g.desc = false ∧ sound g [7] = true)
    ∧ (let g := flight { bare 0x52 with keySlots := 2 }
       turn g = true ∧ named g = true ∧ slotObj hand7 g.desc.slot0 = some (key 1 16 9000) ∧ chainFails (served g) 7 2 = []
       ∧ svcParam g.desc false false false 0 = [] ∧ heldService (served g) 0 g.desc = false
       ∧ sound g (loadGranules (served g) 7 [2]) = true) := by decide +kernel

/-- KEY_GEN of the five types at their least legal length; SLOT_INFO, USAGE_TIGHTEN, PUBKEY_READ, SLOT_RETYPE. -/
theorem witness_key_services :
    (∀ p ∈ [(1, 16), (2, 16), (3, 16), (4, 64), (5, 1)],
      let g := { flight { bare 0x53 with
        mode := BitVec.ofNat 8 (16 * p.1), ctrl := 2, keySlots := 0xF0, inl := natLe 2 p.2 ++ zeros 62 } with granted := some 99 }
      turn g = true ∧ newTarget (served g) 0 g false = [] ∧ svcParam g.desc true true false 2 = [] ∧ g.desc.modeHi = p.1
      ∧ keyGenLegal g.desc = true ∧ objGranules (leField g.desc.inl 0 2) ≤ granFree (served g) ∧ sound g [7] = true)
    ∧ (let g := flight { bare 0x56 with dstCap := 8, keySlots := 4 }
       turn g = true ∧ named g = true ∧ svcParam g.desc false false true 0 = [] ∧ 8 ≤ g.desc.cap)
    ∧ (let g := flight { bare 0x57 with keySlots := 2 }
       turn g = true ∧ named g = true ∧ svcParam g.desc false false false 3 = [] ∧ fld (byteAt g.desc.inl 2) 7 2 = 0)
    ∧ (let g := flight { bare 0x5A with dstCap := 8192, keySlots := 4 }
       turn g = true ∧ named g = true ∧ 6 ≤ (key 6 16 9002).type.toNat ∧ svcParam g.desc false false true 0 = []
       ∧ (publicPart (key 6 16 9002)).length ≤ g.desc.cap)
    ∧ (let g := flight { bare 0x5B with mode := 0x10, ctrl := 2, keySlots := 0xF3 }
       turn g = true ∧ named g = true ∧ slotObj hand7 3 = some (key 5 32 9001) ∧ bit (key 5 32 9001).usage 10 = true
       ∧ newTarget (served g) 0 g true = [] ∧ svcParam g.desc true true false 2 = [] ∧ g.desc.modeHi = 1 ∧ g.desc.modeLo = 0
       ∧ lenLegal 1 32 = true ∧ objGranules 32 ≤ granFree (served g)) := by decide +kernel

/-- HandlesGuardKeys: a handle of another generation, for each service it guards. -/
theorem witness_handles : ∀ op ∈ [0x51, 0x52, 0x56, 0x57, 0x5A, 0x5B, 0x73, 0x74],
    let g := flight { bare op with key0 := 0x00020007 }
    turn g = true ∧ flightBySeq (served g) 0 1 = some g ∧ g.denied = false ∧ named g = false := by decide +kernel

/-- A quorum session open for the seat's function. -/
def ceremony (g : Flight) : State := { served g with quorum := { Quorum.reset with st := .open_, m := 2 } }
def held2 (g : Flight) : State :=
  { ceremony g with quorum := { Quorum.reset with st := .open_, m := 2, comps := [zeros 16, zeros 16] } }
def gateOpen (s : State) : Bool := quorumOk s 0 && s.keys.ready && decide (s.fuses.lc ≠ .retired)

/-- STORE_INIT, SUIT_ASSIGN of seat 8,191, COMPONENT_LOAD of two components, POLICY_WIDEN, OWNER_SET, LATCH_CLEAR. -/
theorem witness_ceremonies :
    (let g := flight (bare 0x70)
     let s := { ceremony g with keys := wiped.keys }
     houseTurn s 0 0 0x70 = some g ∧ quorumOk s 0 = true ∧ bareFields g.desc 0 = true ∧ s.keys.ready = false
     ∧ s.keys.wipeFault = false ∧ s.keys.wipeLeft = 0 ∧ s.keys.rearm = none ∧ g.blocks = []
     ∧ s.rng.st = .run ∧ initBlocks s ≤ s.rng.shoe.length
     ∧ houseHas { s with rng := { s.rng with shoe := [] } } (initBlocks s) = false
     ∧ ({ g with granted := some 99, blocks := [1, 2, 3, 4, 5] } : Flight).blocks.length = initBlocks s)
    ∧ (let g := flight { bare 0x71 with inl := natLe 2 8191 ++ natLe 2 0xFFFD ++ zeros 60 }
       turn g = true ∧ gateOpen (ceremony g) = true ∧ bareFields g.desc 4 = true ∧ leField g.desc.inl 0 2 = 8191
       ∧ leField g.desc.inl 2 2 = 0xFFFD ∧ seatState (ceremony g) (getSeat (ceremony g) 8191) = .off)
    ∧ (let g := flight { bare 0x72 with mode := 0x10, ctrl := 2, keySlots := 0xF0, inl := natLe 2 16 ++ [2] ++ zeros 61 }
       turn g = true ∧ gateOpen (held2 g) = true ∧ ceremonyFields g.desc true 3 = true ∧ noSrc g.desc = true
       ∧ g.desc.modeHi = 1 ∧ lenLegal 1 16 = true ∧ (held2 g).quorum.comps.length = (byteAt g.desc.inl 2).toNat
       ∧ newTarget (held2 g) 0 g false = [] ∧ objGranules 16 ≤ granFree (held2 g))
    ∧ (let g := flight { bare 0x73 with keySlots := 2 }
       turn g = true ∧ gateOpen (ceremony g) = true ∧ bareFields g.desc 3 = true ∧ named g = true)
    ∧ (let g := flight (bare 0x74)
       turn g = true ∧ gateOpen (ceremony g) = true ∧ bareFields g.desc 4 = true ∧ g.desc.slot0 = 0 ∧ named g = true)
    ∧ (let g := flight { bare 0x76 with inl := natLe 4 (2 ^ 28 - 1) ++ zeros 60 }
       turn g = true ∧ gateOpen (ceremony g) = true ∧ bareFields g.desc 4 = true ∧ leField g.desc.inl 0 4 < 2 ^ 28
       ∧ leField g.desc.inl 0 4 ≠ 0) := by decide +kernel

/-- CRC-32C of the nine digits: the check value 0xE306_9283 of the CRC's definition. -/
theorem test_crc32c : crc32c [0x31, 0x32, 0x33, 0x34, 0x35, 0x36, 0x37, 0x38, 0x39] = 0xE3069283 := by decide +kernel

/-- The factory record with its CHECK, worked out by hand from R337 and R341. -/
def record : Bytes := factoryBody ++ natLe 4 0x997F46B2

theorem crc_part {c d : BitVec 32} {a b : Bytes} (h : a.foldl crc32cByte c = d) :
    (a ++ b).foldl crc32cByte c = b.foldl crc32cByte d := by rw [List.foldl_append, h]

theorem test_factory_check : crc32c factoryBody = 0x997F46B2 := by
  have hs : factoryBody = slice factoryBody 0 28 ++ (slice factoryBody 28 28 ++ (slice factoryBody 56 28 ++ (slice factoryBody 84 28
      ++ (slice factoryBody 112 28 ++ (slice factoryBody 140 28 ++ (slice factoryBody 168 28 ++ (slice factoryBody 196 28
      ++ slice factoryBody 224 28))))))) := by decide +kernel
  rw [crc32c, hs]
  rw [crc_part (d := 0xCD6126CB) (by decide +kernel)]
  rw [crc_part (d := 0xC5E6BECE) (by decide +kernel)]
  rw [crc_part (d := 0xE5E9515D) (by decide +kernel)]
  rw [crc_part (d := 0x1ED16592) (by decide +kernel)]
  rw [crc_part (d := 0x38D53A55) (by decide +kernel)]
  rw [crc_part (d := 0x06246ACE) (by decide +kernel)]
  rw [crc_part (d := 0xF8135A70) (by decide +kernel)]
  rw [crc_part (d := 0xA2302F16) (by decide +kernel)]
  decide +kernel

theorem test_factory_record : tcrFaults record = [] := by
  have hc : tcrCheckOk record = true := by
    have ht : record.take 252 = factoryBody := by decide +kernel
    rw [tcrCheckOk, ht, test_factory_check]
    decide +kernel
  rw [tcrFaults, hc]
  decide +kernel

/-- TCR_COMMIT: the factory record staged, and the bank that holds it taken in a later round (test_factory_record: it has no
fault). LIFECYCLE_SET: from BLANK to
PROVISIONED with the owner's hash, and to RETIRED. -/
theorem witness_commits :
    (let g := { flight { bare 0x75 with len := 256 } with input := some record }
     turn g = true ∧ gateOpen (ceremony g) = true ∧ srcIn g = true ∧ tcrFields g.desc = true ∧ srcFails (ceremony g) 0 g = []
     ∧ srcKeys g = [] ∧ ceremonySrc (ceremony g) g = record)
    ∧ (let g := { flight { bare 0x75 with len := 256 } with begun := some 99 }
       houseTurn (ceremony g) 0 0 0x75 = some g ∧ g.begun = some 99 ∧ up.aon.flip = none)
    ∧ (let g := { flight { bare 0x77 with len := 48, inl := 1 :: zeros 63 } with input := some (zeros 48) }
       turn g = true ∧ gateOpen (ceremony g) = true ∧ srcIn g = true ∧ lifeFields g.desc .blank = true
       ∧ srcFails (ceremony g) 0 g = [] ∧ srcKeys g = [] ∧ lifeTarget .blank 1 = some .provisioned)
    ∧ (let g := flight { bare 0x77 with inl := 7 :: zeros 63 }
       turn g = true ∧ srcIn g = true ∧ lifeFields g.desc .blank = true ∧ lifeTarget .blank 7 = some .retired)
    ∧ quorumOk up 0 = false := by decide +kernel

/-! ## Credential slots and quorum sessions -/

/-- `up` a few seconds on, with slot 0 as x: every class, two repetitions of a character, one millisecond of idle time. -/
def late : State := { up with round := 100000000 }
def withSlot (x : Slot) : State := setSlot late 0 { x with cfg := .now 0x01273000 }

/-- SlotPresence: an empty slot with a class and without one; with the house down; a slot in use. -/
theorem witness_slot_presence : nextClass (withSlot .reset) 0 1 = some 1 ∧ nextClass late 0 1 = none ∧ houseUp late = true
    ∧ houseUp { late with house := { late.house with running := false } } = false ∧ late.power.main = true
    ∧ (getSlot (withSlot .reset) 0).present = false ∧ (getSlot (withSlot .reset) 0).st = .off
    ∧ (getSlot (withSlot { Slot.reset with present := true, st := .busy, step := .writeUse }) 0).step = .writeUse := by
  decide +kernel

/-- TokenExchanges: polls at their times (the first of a supply, one of many, the last), answers of the right length and
check, and each limit. -/
def token (step : SlotStep) : Slot := { Slot.reset with present := true, st := .ready, kind := 1, step := step, sent := ryenoFrame 0 2 [] }
/-- A response frame with STATUS 0 and this data. -/
def answer (d : Bytes) : Bytes :=
  let b := [0, 0] ++ natLe 2 d.length ++ d
  b ++ natLe 2 (crc16 b).toNat
theorem witness_token_exchanges :
    (∀ k ∈ [0, 1, 999, 1000], (getSlot (withSlot (token (.opcond k))) 0).lastCmd + 37500 ≤ late.round)
    ∧ (∀ st ∈ [SlotStep.ident, .setaddr, .toSleep, .tune 0, .tune 14], frameOk (token st) (answer (zeros 12)) = true
        ∧ (byteAt (answer (zeros 12)) 1).toNat = 0 ∧ (slice (answer (zeros 12)) 4 (leField (answer (zeros 12)) 2 2)).length = 12)
    ∧ frameOk (token (.tune 3)) (answer tunePattern) = true ∧ slice (answer tunePattern) 4 64 = tunePattern
    ∧ zeros 12 ≠ tunePattern
    ∧ (∀ st ∈ [SlotStep.ident, .readUse], awaitsToken (token st) = true ∧ (token st).lastCmd + responseRounds (token st) ≤ late.round
        ∧ sentOnce (token st) = false)
    ∧ sentOnce { token .auth with sent := ryenoFrame 0 0x22 [] } = true
    ∧ (∀ st ∈ [SlotStep.writeUse, .erase],
        0 + beatRounds (token st) (frameBeats (token st)) + (if st = .erase then 50000000 else 625000) < late.round)
    ∧ fld (slotCfg (withSlot .reset) 0) 22 20 = 2 ∧ fld (slotCfg (withSlot .reset) 0) 31 24 = 1
    ∧ 0 + 25000 * 1 ≤ late.round := by decide +kernel

/-- CardExchanges: answers to reset that are valid with the default pair (3B 00), invalid, and for T=1 alone; a PPS echo;
status words; a waiting time that is over. -/
theorem witness_card_exchanges : (parseAtr [0x3B, 0x00]).valid = true ∧ (parseAtr [0x3B, 0x00]).t0 = true
    ∧ (parseAtr [0x3B, 0x00]).ta1 = none ∧ (parseAtr [0x3B, 0x00]).ta2 = none ∧ (parseAtr [0x3B, 0x00]).cls = none
    ∧ (parseAtr []).valid = false ∧ (parseAtr [0x3B, 0x80, 0x01, 0x81]).valid = true
    ∧ (parseAtr [0x3B, 0x80, 0x01, 0x81]).t0 = false ∧ late.quorum.st = .idle
    ∧ 0 + 500000 ≤ late.round ∧ nextClass (withSlot .reset) 0 2 = some 2 ∧ nextClass (withSlot .reset) 0 4 = none
    ∧ (let x : Slot := { Slot.reset with step := .pps, sent := [0xFF, 0x10, 0x95, 0x7A] }
       byteAt [0xFF, 0x10, 0x95, 0x7A] 1 = byteAt x.sent 1 ∧ byteAt [0xFF, 0x00] 1 ≠ byteAt x.sent 1)
    ∧ awaitsCard { Slot.reset with step := .verify } = true ∧ fld (0x6110 : BitVec 16) 15 8 = 0x61
    ∧ fld (0x6C10 : BitVec 16) 15 8 = 0x6C ∧ Slot.reset.wait + 6000 * Slot.reset.wi * Slot.reset.fi ≤ late.round
    ∧ sessionOn { withSlot { Slot.reset with step := .verify, engaged := true } with
        quorum := { Quorum.reset with st := .gather } } 0 = true := by decide +kernel

/-- QuorumSessions: a session that may open over a roster of three, one that is open, one past its limit; a card whose use
count has been written; a password of 8 and of 7 bytes. -/
theorem witness_quorum :
    (let s := { late with power := { late.power with
       dcr := late.power.dcr ++ zeros 70 ++ (List.replicate 3 (1 :: zeros 95)).flatten } }
     2 ≤ (2 : Nat) ∧ 2 ≤ rosterUsed s ∧ 2 ≤ (3 : Nat) ∧ 3 ≤ rosterUsed s ∧ s.quorum.st = .idle)
    ∧ (let q := { Quorum.reset with st := .open_, inForce := 0 }
       q.st ≠ .idle ∧ Config.roundsPerSecond * q.inForce ≤ q.timer ∧ f0 = q.func ∧ f1 ≠ q.func)
    ∧ heldCustodians { late with quorum := { late.quorum with mask := 3 } } = 2
    ∧ shoeHas late 2 = true ∧ houseUp late = true
    ∧ (let x : Slot := { Slot.reset with kind := 2, step := .writeUse, roster := 14, engaged := true }
       let s := { withSlot x with quorum := { Quorum.reset with st := .gather } }
       sessionOn s 0 = true ∧ (getSlot s 0).roster.toNat < 15 ∧ bit s.quorum.mask 14 = false)
    ∧ fld (0x80000008 : Word) 31 31 = 1 ∧ ¬fld (0x80000008 : Word) 5 0 < 8 ∧ fld (0x80000007 : Word) 5 0 < 8
    ∧ (getSlot (withSlot { token .none with st := .fault }) 0).st = .fault ∧ (token .none).kind = 1 := by decide +kernel

/-- MessagesInParts: a cut at a block. -/
theorem witness_parts : (zeros 32).length % 16 = 0 ∧ (zeros 16).length = 16 ∧ (zeros 24).length = 24 ∧ (zeros 32).length = 32 := by
  decide

/-! ## Worked values of the named standards -/

/-- AES-128 of FIPS 197, appendix C.1. -/
theorem test_aes128 : aesEnc ((List.range 16).map (BitVec.ofNat 8)) ((List.range 16).map fun i => BitVec.ofNat 8 (17 * i))
    = [0x69, 0xC4, 0xE0, 0xD8, 0x6A, 0x7B, 0x04, 0x30, 0xD8, 0xCD, 0xB7, 0x80, 0x70, 0xB4, 0xC5, 0x5A] := by decide +kernel

/-- SHA-256 of "abc" (FIPS 180-4). -/
theorem test_sha256 : hashOf 1 [0x61, 0x62, 0x63] = [0xBA, 0x78, 0x16, 0xBF, 0x8F, 0x01, 0xCF, 0xEA, 0x41, 0x41, 0x40, 0xDE,
    0x5D, 0xAE, 0x22, 0x23, 0xB0, 0x03, 0x61, 0xA3, 0x96, 0x17, 0x7A, 0x9C, 0xB4, 0x10, 0xFF, 0x61, 0xF2, 0x00, 0x15, 0xAD] := by
  decide +kernel

/-- Small powers, by the function the engines use. -/
theorem test_mod_pow : modPow 3 200 1000007 = 3 ^ 200 % 1000007 := by decide +kernel

end Sys2Proof.Tests
end

section
/-!
PROOFS. Reset values, the events of a core, register commands by kind of function, and the tamper registers.
-/
namespace Sys2Proof.Machine

/-! ## Reset (R12) -/

/-- Settles O7: each word is worked out at the state after reset. -/
theorem resetValues : Obligations.ResetValues := by
  unfold Obligations.ResetValues
  decide +kernel

/-! ## Events of a core (R281, R282, R286) -/

section
variable {s : State} {k : Core} {l : Fin 128}

/-- A late store error comes before every other cause. -/
theorem pendingCause_late {a : BitVec 16} (h : k.latePend = some a) : pendingCause k = some (1, a.toNat) := by
  simp [pendingCause, h]

/-- SEG_FINAL at APPLET comes next. -/
theorem pendingCause_final (hl : k.latePend = none) (hf : bit k.irqPend 0 = true ∧ level k = 0) :
    pendingCause k = some (0x10, 0) := by
  simp [pendingCause, hl, hf]

/-- Without either, a refused first play comes next. -/
theorem pendingCause_playForm {e : Byte} (hl : k.latePend = none) (hf : ¬(bit k.irqPend 0 = true ∧ level k = 0))
    (hp : k.playForm = some e) : pendingCause k = some (0x0C, e.toNat) := by
  simp [pendingCause, hl, hf, hp]

/-- Without any of these, the two maskable interrupts are left, and they need F.I. -/
theorem pendingCause_maskable (hl : k.latePend = none) (hf : ¬(bit k.irqPend 0 = true ∧ level k = 0))
    (hp : k.playForm = none) : pendingCause k =
      if bit k.f 4 && !k.oneFirst && bit (k.irqPend &&& k.irqMask) 1 then some (0x11, 0)
      else if bit k.f 4 && !k.oneFirst && bit (k.irqPend &&& k.irqMask) 2 then some (0x12, 0) else none := by
  simp [pendingCause, hl, hf, hp]

/-- A masked bit is not pending. -/
theorem bit_and_masked {n : Nat} {v m : BitVec n} {i : Nat} (h : bit m i = false) : bit (v &&& m) i = false := by
  simp only [bit] at h ⊢
  simp [h]

/-- A lane core that runs takes a boundary action as it is. -/
theorem act_lane (g : State → State) (h : coreRuns s (.lane l) = true) : act s (.lane l) g = g s := by
  simp [act, h]

/-- INTERRUPT_ENTRY of a lane core with a cause pending: it waits, or takes it. -/
theorem execInterruptEntry_lane {x : Nat × Nat} (hx : pendingCause (getCore s (.lane l)) = some x)
    (h : coreRuns s (.lane l) = true) : execInterruptEntry (.lane l) s =
      .next (if entryHeld s (.lane l) x.1 then holdCore s (.lane l)
        else finalTaken (takeCause s (.lane l) x.1 x.2 (getCore s (.lane l)).pc) (.lane l) x.1) := by
  simp only [execInterruptEntry, hx, act_lane _ h]

/-- STORE_DRAIN of a lane core whose oldest store is acknowledged. -/
theorem execStoreDrain_lane {e : StoreEnt} {rest : List StoreEnt} (hb : (getCore s (.lane l)).sbuf = e :: rest)
    (hr : running s = true) (hd : e.due ≤ 16 * s.round + 15) :
    execStoreDrain (.lane l) s = .next (drainOne s (.lane l)) := by
  simp [execStoreDrain, hb, hr, hd]

/-- LATE_STORE_INFO of a lane core above APPLET. -/
theorem execLateStoreInfo_lane (hl : level (getCore s (.lane l)) ≠ 0) (h : coreRuns s (.lane l) = true) :
    execLateStoreInfo (.lane l) s = .next (setCore { s with answer := .bytes [(getCore s (.lane l)).lateInfo] } (.lane l)
      { getCore s (.lane l) with lateInfo := 0 }) := by
  simp [execLateStoreInfo, hl, act_lane _ h, entryTouched]

/-- IRQ_PEND of a lane core above APPLET. -/
theorem execIrqPend_lane (v same : Byte) (hl : level (getCore s (.lane l)) ≠ 0) (h : coreRuns s (.lane l) = true) :
    execIrqPend (.lane l) v same s = .next (setCore s (.lane l) { getCore s (.lane l) with
      irqPend := ((getCore s (.lane l)).irqPend &&& ~~~(v &&& 6)) ||| (same &&& 6) }) := by
  simp [execIrqPend, hl, act_lane _ h]

end

/-- Settles O18: each command by its rule for a lane core that runs, the order of causes by the branches of pendingCause. -/
theorem g8Events : Obligations.G8Events := by
  unfold Obligations.G8Events
  refine ⟨fun l s cause info e rest v same => ⟨fun hx hr hh => ?_, fun hx hr hh => ?_, ?_, ?_, ?_⟩, fun k =>
    ⟨fun a h => pendingCause_late h, fun hl h0 hv => pendingCause_final hl ⟨h0, hv⟩,
      fun e hl hf hp => pendingCause_playForm hl hf hp, fun hl hf hp hi => ?_, fun hl hf hp _ m1 m2 => ?_⟩⟩
  · exact (execInterruptEntry_lane hx hr).trans (by simp [hh])
  · exact (execInterruptEntry_lane hx hr).trans (by simp [hh, holdCore])
  · exact execStoreDrain_lane
  · exact execLateStoreInfo_lane
  · exact execIrqPend_lane v same
  · simp [pendingCause_maskable hl hf hp, hi]
  · simp [pendingCause_maskable hl hf hp, bit_and_masked m1, bit_and_masked m2]

/-! ## Register commands by kind of function (R7, R83) -/

section
variable {s : State} {f : Func}

/-- A register command of a physical function that reaches the device acts. -/
theorem pfWrite_acts (off : Nat) (act : State → State) (h : Reaches s f) (hf : f.vf = 0) :
    pfWrite s f off act = act s := by
  rw [pfWrite, barWrite_reaches _ _ h]
  simp [isPf, hf]

/-- A register command of a virtual function that reaches the device is discarded (R7). -/
theorem pfWrite_refuses (off : Nat) (act : State → State) (h : Reaches s f) (hf : f.vf ≠ 0) :
    pfWrite s f off act = regErr s f off := by
  rw [pfWrite, barWrite_reaches _ _ h]
  simp [isPf, hf]

end

/-! ## The tamper registers (R329, R336, R344) -/

section
variable (s : State)

/-- The entry that an event writes at the head of the log (R343). -/
theorem logEvent_entry (source : Nat) (resp : BitVec 7) (flags : Nat) (info : BitVec 32) :
    ∃ e, sget none (logEvent s source resp flags info).aon.log s.aon.logNext = some e
      ∧ e.source = BitVec.ofNat 8 source ∧ e.flags = logFlags s flags ∧ e.info = info := by
  simp [logEvent, pushLog]

/-- Flag 2 of an entry, the end of a self-test, stands whatever the supplies. -/
theorem logFlags_testEnd : bit (logFlags s 4) 2 = true := by
  unfold logFlags
  cases s.power.main <;> cases s.power.clock <;> rfl

/-- When a freeze clear is taken: no armed source whose set holds FREEZE has its condition or trips (R329). -/
theorem freezeQuiet_iff : freezeQuiet s = true ↔
    ∀ j, j < 28 → armed s j = true → bit (tcrResp s j) 2 = true →
      (sget Filter.reset s.aon.filters j).raw = false ∧ stimulus s j = false ∧ bit s.aon.due j = false
        ∧ (24 ≤ j → (sget Filter.reset s.aon.filters j).next ≠ s.aon.now + 1) := by
  simp only [freezeQuiet, List.all_eq_true, List.mem_range, rFreeze, rawNow]
  refine forall₂_congr fun j _ => ?_
  cases armed s j <;> cases bit (tcrResp s j) 2 <;> simp
  rw [imp_iff_not_or, Nat.not_le]
  tauto

/-- A fold that updates each of a list of different keys once. -/
theorem sget_foldl_supd {α : Type} [DecidableEq α] (d : α) (g : Nat → α → α) {l : List Nat} (h : l.Nodup) (m : SMap α)
    (k : Nat) : sget d (l.foldl (fun m i => supd d m i (g i)) m) k = if k ∈ l then g k (sget d m k) else sget d m k := by
  induction l generalizing m with
  | nil => rfl
  | cons a l ih =>
    obtain ⟨ha, hl⟩ := List.nodup_cons.1 h
    rw [List.foldl_cons, ih hl, supd, sget_sput]
    by_cases hk : k = a
    · subst hk
      simp [ha]
    · simp [hk]

/-- The test of source i runs no further after this round (R336). -/
def testOver (s : State) (i : Nat) : Bool := match s.aon.test with
  | some t => t.source == i && decide (s.round = t.n + t.window)
  | none => false

/-- Every filter after the end of a round: afresh when a commit, a clear or the end of a test names it. -/
theorem restartTurn_filter (i : Nat) : sget .reset (restartTurn s).aon.filters i =
    if i < 28 ∧ (bit s.aon.restart i = true ∨ testOver s i = true) then
      { sget .reset s.aon.filters i with
        hits := 0, misses := 0
        trippd := (sget Filter.reset s.aon.filters i).trippd && !bit s.aon.rearm i && !testOver s i }
    else sget .reset s.aon.filters i := by
  have h := sget_foldl_supd Filter.reset
    (fun i f => { f with hits := 0, misses := 0, trippd := f.trippd && !bit s.aon.rearm i && !testOver s i })
    ((List.nodup_range (n := 28)).filter fun i => bit s.aon.restart i || testOver s i) s.aon.filters i
  simp only [List.mem_filter, List.mem_range, Bool.or_eq_true] at h
  exact h

end

/-- FREEZE_CLEAR asked for while it may be (R329). -/
theorem freezeClear_taken {s : State} {f : Func} (hl : s.aon.latched = 0) (hq : freezeQuiet s = true) :
    freezeClear s f = { s with aon := { s.aon with thaw := some (s.round + 1) } } := by
  simp [freezeClear, hl, hq]

/-- FREEZE_CLEAR asked for while a source is latched, present or about to trip (R329). -/
theorem freezeClear_refused {s : State} {f : Func} (h : s.aon.latched ≠ 0 ∨ ¬freezeQuiet s = true) :
    freezeClear s f = regErr s f 0xF0004 := by
  refine if_neg ?_
  rw [Bool.and_eq_true, beq_iff_eq]
  tauto

/-- The source field of TAMP_TEST. -/
theorem fld_source (v : Word) : fld v 4 0 = v.toNat % 32 := by simp [fld, bits]

/-- GO on an armed monitor in RUN with no test under way starts its test (R336). -/
theorem tampTestWrite_starts {s : State} {f : Func} {v : Word} (hb : bit v 31 = true) (hr : s.power.st = .run)
    (ht : s.aon.test = none) (hi : v.toNat % 32 < 24) (ha : armed s (v.toNat % 32) = true) :
    tampTestWrite s f v = { s with aon := { s.aon with
      test := some { source := v.toNat % 32, n := s.round
                     window := tcrFilter s (v.toNat % 32) * samplePeriod (v.toNat % 32) + 16, passed := false }
      testRes := 0, testSrc := BitVec.ofNat 5 (v.toNat % 32)
      restart := setBit s.aon.restart (v.toNat % 32) true, rearm := setBit s.aon.rearm (v.toNat % 32) true } } := by
  simp [tampTestWrite, fld_source, hb, hr, ht, hi, ha]

/-- GO under any other condition is discarded (R336). -/
theorem tampTestWrite_refused {s : State} {f : Func} {v : Word} (hb : bit v 31 = true)
    (h : ¬(s.power.st = .run ∧ s.aon.test = none ∧ v.toNat % 32 < 24 ∧ armed s (v.toNat % 32) = true)) :
    tampTestWrite s f v = regErr s f 0xF001C := by
  have hc : (decide (s.power.st = .run) && s.aon.test.isNone && decide (v.toNat % 32 < 24)
      && armed s (v.toNat % 32)) = false := by
    rw [← Bool.not_eq_true]
    simpa [and_assoc] using h
  simp [tampTestWrite, fld_source, hb, hc, tampBase]

/-- TAMP_TEST_END once the window is over (R336). -/
theorem execTampTestEnd_ends {s : State} {x : SelfTest} (hx : s.aon.test = some x) (hw : x.n + x.window < s.round) :
    execTampTestEnd s = .next (logEvent { s with aon := { s.aon with
      test := none
      testRes := if x.passed = true ∧ (sget Filter.reset s.aon.filters x.source).raw = false then 1 else 2 } }
      x.source 0 4 0) := by
  simp [execTampTestEnd, hx, hw]

/-- A thaw that is due (R329). -/
theorem thawStep_due {s : State} {r : Round} (ht : s.aon.thaw = some r) (h : r ≤ s.round) :
    thawStep s = logEvent { s with
      aon := { s.aon with freeze := false, thaw := none }
      dealer := { s.dealer with
        frozen := false, thawAt := if s.dealer.frozen then s.round else s.dealer.thawAt } } 0x45 0 0 0 := by
  simp [thawStep, ht, h]

/-- Settles O44: every command by the rule of its register, the log's entries by logEvent_entry, the filters by
restartTurn_filter. -/
theorem tamperCommands : Obligations.TamperCommands := by
  unfold Obligations.TamperCommands
  refine ⟨fun f v same s x hr hf => ⟨fun hl hq => ?_, fun h => ?_, fun hb hl => ?_, fun hb hl => ?_, fun hb => ?_,
    fun hx hw => ?_, ?_, ?_⟩, fun s r i => ⟨fun ht hle => ?_, rfl, rfl, fun hi hb => ?_, fun hb ht => ?_⟩⟩
  · exact congrArg _ ((pfWrite_acts _ _ hr hf).trans (freezeClear_taken hl ((freezeQuiet_iff s).2 hq)))
  · exact congrArg _ ((pfWrite_acts _ _ hr hf).trans
      (freezeClear_refused (h.imp_right fun hq hc => hq ((freezeQuiet_iff s).1 hc))))
  · obtain ⟨hp, ht, hi, ha⟩ := hl
    exact congrArg _ ((pfWrite_acts _ _ hr hf).trans (tampTestWrite_starts hb hp ht hi ha))
  · exact congrArg _ ((pfWrite_acts _ _ hr hf).trans (tampTestWrite_refused hb hl))
  · refine congrArg _ ((pfWrite_acts _ _ hr hf).trans ?_)
    simp [tampTestWrite, hb, fld_source]
  · obtain ⟨e, he, hs, hfl, -⟩ := logEvent_entry _ _ _ _ _
    exact ⟨_, execTampTestEnd_ends hx hw, rfl, rfl, ⟨e, he, hs, hfl ▸ logFlags_testEnd _⟩, rfl⟩
  · obtain ⟨e, he, hs, -, hi⟩ := logEvent_entry _ _ _ _ _
    exact ⟨_, congrArg Host.Outcome.next (pfWrite_acts _ _ hr hf), rfl, rfl, rfl, ⟨e, he, hs, hi⟩, rfl, rfl⟩
  · exact congrArg _ (pfWrite_acts _ _ hr hf)
  · rw [thawStep_due ht hle]
    obtain ⟨e, he, hs, -, -⟩ := logEvent_entry _ _ _ _ _
    exact ⟨rfl, rfl, rfl, e, he, hs⟩
  · rw [restartTurn_filter, if_pos ⟨hi, .inl hb⟩]
    exact ⟨rfl, rfl, fun ha => by simp [ha]⟩
  · simp [restartTurn_filter, hb, testOver, ht]

end Sys2Proof.Machine
end

section
/-!
PROOFS. The registers that a read clears.
-/
namespace Sys2Proof.Machine

/-! ## Registers that a read clears (R7, R9) -/

section
variable {s : State} {f : Func} {off : Nat}

/-- The offsets of the registers that a read clears. -/
def rcOffsets : List Nat := [0x70004, 0x2010C, 0x80008, 0x8000C, 0x90008, 0xA0080, 0xA0084, 0xB0028, 0xC0010, 0xD0000,
  0xD0004, 0xD0008, 0xE0008, 0x110004]

/-- The counter behind such an offset, as its function's own. -/
def rcWord (s : State) (f : Func) (off : Nat) : Word :=
  if off = 0x70004 then sget 0 s.cnt.dbDiscard (fkey f)
  else if off = 0x2010C then s.dealer.busyCnt
  else if off = 0x80008 then s.kitty.refused
  else if off = 0x8000C then s.kitty.deniedC
  else if off = 0x90008 then s.cnt.migWait
  else if off = 0xA0080 then s.cnt.pkeInvalid
  else if off = 0xA0084 then s.cnt.dsaMax
  else if off = 0xB0028 then s.keys.deny
  else if off = 0xC0010 then s.rng.unavail
  else if off = 0xD0000 then s.prot.suitCnt
  else if off = 0xD0004 then s.prot.spanCnt
  else if off = 0xD0008 then s.prot.debugCnt
  else if off = 0xE0008 then s.prot.ueCnt
  else if off = 0x110004 then s.house.msg
  else 0

/-- A virtual function sees DB_DISCARD_CNT alone (R7). -/
def rcSeen (f : Func) (off : Nat) : Prop := isPf f = true ∨ off = 0x70004

/-- Each command of the list is a read of its offset. -/
theorem exec_clearedByRead {whole : Bool} {p : Instr × Nat} (h : p ∈ clearedByRead f whole) :
    exec p.1 s = rcRead s f p.2 whole ∧ p.2 ∈ rcOffsets := by
  simp only [clearedByRead, List.mem_cons, List.not_mem_nil, or_false] at h
  rcases h with rfl | rfl | rfl | rfl | rfl | rfl | rfl | rfl | rfl | rfl | rfl | rfl | rfl | rfl <;>
    exact ⟨rfl, by simp [rcOffsets]⟩

/-- What a read of a counter shows to a function that may see it. -/
theorem regView_rc_seen (h : off ∈ rcOffsets) (hs : rcSeen f off) : regView s f off = (rcWord s f off, false) := by
  simp only [rcOffsets, List.mem_cons, List.not_mem_nil, or_false] at h
  rcases h with rfl | rfl | rfl | rfl | rfl | rfl | rfl | rfl | rfl | rfl | rfl | rfl | rfl | rfl <;>
    simp_all [rcSeen, regView, rcWord, readSeat, readDeal, dealWord, readKitty, laneWord, pkeWord, readKeyBlock, readRng,
      protWord, memRegWord, houseWord, pfOnly, shows, mkWord, inArray]

/-- What it shows to any other function: nothing. -/
theorem regView_rc_unseen (h : off ∈ rcOffsets) (hs : ¬rcSeen f off) : regView s f off = (0, false) := by
  simp only [rcOffsets, List.mem_cons, List.not_mem_nil, or_false] at h
  rcases h with rfl | rfl | rfl | rfl | rfl | rfl | rfl | rfl | rfl | rfl | rfl | rfl | rfl | rfl <;>
    simp_all [rcSeen, regView, readDeal, dealWord, readKitty, laneWord, pkeWord, readKeyBlock, readRng,
      protWord, memRegWord, houseWord, pfOnly, blank, inArray]

/-- Clearing a counter leaves it zero and every other counter as it was. -/
theorem rcWord_clearRc {q : Nat} (h : off ∈ rcOffsets) (hs : rcSeen f off) :
    rcWord (clearRc s f off) f q = if q = off then 0 else rcWord s f q := by
  have hc : off = 0x70004 ∨ isPf f = true := hs.symm
  simp only [rcOffsets, List.mem_cons, List.not_mem_nil, or_false] at h
  by_cases hq : q = off <;>
    rcases h with rfl | rfl | rfl | rfl | rfl | rfl | rfl | rfl | rfl | rfl | rfl | rfl | rfl | rfl <;>
      simp only [Nat.reduceEqDiff, false_or, true_or] at hc <;> simp [clearRc, keepRc, rcWord, hc, hq]

/-- Clearing a counter changes nothing but the counters. -/
theorem countersOf_clearRc (t : State) (h : off ∈ rcOffsets) (hs : rcSeen f off) :
    countersOf s (clearRc t f off) = countersOf s t ∧ (clearRc t f off).answer = t.answer := by
  have hc : off = 0x70004 ∨ isPf f = true := hs.symm
  simp only [rcOffsets, List.mem_cons, List.not_mem_nil, or_false] at h
  rcases h with rfl | rfl | rfl | rfl | rfl | rfl | rfl | rfl | rfl | rfl | rfl | rfl | rfl | rfl <;>
    simp only [Nat.reduceEqDiff, false_or, true_or] at hc <;> simp [clearRc, keepRc, countersOf, hc]

/-- A counter that a function may not see is not cleared by it. -/
theorem clearRc_unseen (hs : ¬rcSeen f off) : clearRc s f off = s := by
  rw [rcSeen, not_or] at hs
  simp [clearRc, keepRc, hs]

/-- No counter belongs to a pair (R8), and a word read at its offset conforms (R6). -/
theorem rcOffsets_single : ∀ o ∈ rcOffsets, isLower o = false ∧ isUpper o = false ∧ o % 4 = 0 := by decide

/-- A whole read of a counter answers what it shows, and clears it. -/
theorem hostRead_rc (h : off ∈ rcOffsets) (ho : hostOk s f = true) :
    hostRead s f off 4 = clearRc { s with answer := .word (regView s f off).1 } f off := by
  obtain ⟨hl, hu, h4⟩ := rcOffsets_single off h
  have hv : (regView s f off).2 = false := by
    by_cases hs : rcSeen f off
    · rw [regView_rc_seen h hs]
    · rw [regView_rc_unseen h hs]
  have hd : off / 4 * 4 = off := by omega
  simp [hostRead, ho, barRead, conforms, h4, hd, hv, holdStep, upperOf, hl, hu, readWord]

/-- A read of part of a counter breaks R6: it answers without the effect. -/
theorem hostRead_rc_part (h : off ∈ rcOffsets) (ho : hostOk s f = true) :
    hostRead s f off 1 = regErr { s with answer := .word (regView s f off).1 } f off := by
  obtain ⟨-, -, h4⟩ := rcOffsets_single off h
  have hd : off / 4 * 4 = off := by omega
  simp [hostRead, ho, barRead, conforms, hd]

end

/-- Settles O32: a whole read is one clear of its counter, which clears that counter alone. -/
theorem readsThatClear : Obligations.ReadsThatClear := by
  unfold Obligations.ReadsThatClear
  refine fun f s ho => ⟨fun p hp hv => ?_, fun p hp => ?_, fun p hp hv hd => ?_⟩
  · obtain ⟨he, hm⟩ := exec_clearedByRead (s := s) hp
    have hs : rcSeen f p.2 := hv.imp_left fun h => by simp [isPf, h]
    obtain ⟨hcnt, hans⟩ := countersOf_clearRc (s := s) { s with answer := .word (regView s f p.2).1 } hm hs
    refine ⟨_, he.trans (congrArg Host.Outcome.next (hostRead_rc hm ho)), hans, ?_, hcnt, fun q hq hne => ?_⟩
    · rw [regView_rc_seen hm hs, rcWord_clearRc hm hs, if_pos rfl]
    · obtain ⟨-, hqm⟩ := exec_clearedByRead (s := s) hq
      by_cases hqs : rcSeen f q.2
      · rw [regView_rc_seen hqm hqs, regView_rc_seen hqm hqs, rcWord_clearRc hm hs, if_neg hne]
        rfl
      · rw [regView_rc_unseen hqm hqs, regView_rc_unseen hqm hqs]
  · obtain ⟨he, hm⟩ := exec_clearedByRead (s := s) hp
    exact he.trans (congrArg Host.Outcome.next (hostRead_rc_part hm ho))
  · obtain ⟨he, hm⟩ := exec_clearedByRead (s := s) hp
    have hs : ¬rcSeen f p.2 := by simp [rcSeen, isPf, hv, hd]
    refine he.trans (congrArg Host.Outcome.next ((hostRead_rc hm ho).trans ?_))
    rw [clearRc_unseen hs, regView_rc_unseen hm hs]

end Sys2Proof.Machine
end

section
/-!
PROOFS. Pairs of registers, writes of registers, IRQ_STATUS and DEAL_LANE_EN.
-/
namespace Sys2Proof.Machine

/-! ## Reads of a pair (R8) -/

section
variable {s : State} {f : Func} {off : Nat}

theorem isLower_iff : isLower off = true ↔ off = 0x20000 ∨ off = 0x80000 ∨ off = 0xB0018 ∨ off = 0x130008
    ∨ ((0x30000 ≤ off ∧ off < 0x70000) ∧ (off % 64 = 0 ∨ off % 64 = 8 ∨ off % 64 = 0x10))
    ∨ ((0xF1000 ≤ off ∧ off < 0xF1800) ∧ off % 32 = 0) := by
  simp [isLower, inSeats, or_assoc]

/-- The lower and the upper word of a pair: only the one is lower, only the other upper, and both are aligned and no
counters. -/
theorem pair_offsets (h : isLower off = true) : isUpper off = false ∧ isLower (off + 4) = false
    ∧ isUpper (off + 4) = true ∧ off % 4 = 0 ∧ off ∉ rcOffsets ∧ off + 4 ∉ rcOffsets := by
  have hu : isUpper (off + 4) = true := by simp [isUpper, h]
  rw [isLower_iff] at h
  refine ⟨?_, ?_, hu, by omega, by simp [rcOffsets]; omega,
    by simp [rcOffsets]; omega⟩
  · simp only [isUpper, ← Bool.not_eq_true, Bool.and_eq_true, decide_eq_true_eq, isLower_iff]
    omega
  · rw [← Bool.not_eq_true, isLower_iff]
    omega

/-- A register that is no counter is not cleared by a read. -/
theorem clearRc_other (h : off ∉ rcOffsets) : clearRc s f off = s := by
  simp only [rcOffsets, List.mem_cons, List.not_mem_nil, or_false, not_or] at h
  simp [clearRc, keepRc, h]

/-- What a register shows does not hang on the last answer. -/
theorem regView_answer (a : Answer) (o : Nat) : regView { s with answer := a } f o = regView s f o := by
  have hs : ∀ p, readSeat { s with answer := a } f p = readSeat s f p := fun _ => rfl
  simp only [regView, hs]
  rfl

/-- The seat block's words (R29). -/
theorem regView_seats (h : 0x30000 ≤ off ∧ off < 0x80000) : regView s f off = readSeat s f (off - 0x30000) := by
  have hb : off / 0x10000 = 3 ∨ off / 0x10000 = 4 ∨ off / 0x10000 = 5 ∨ off / 0x10000 = 6 ∨ off / 0x10000 = 7 := by omega
  rcases hb with hb | hb | hb | hb | hb <;> simp only [regView, hb]

/-- The words of the tamper log (R343). -/
theorem tampWord_log (o : Nat) (h : 0x1000 ≤ o ∧ o < 0x1800) : (tampWord s o).isSome = true := by
  have h1 : inArray o 0x100 64 = none := by simp [inArray]; omega
  have h2 : inArray o 0x1000 512 = some ((o - 0x1000) / 4) := by simp [inArray]; omega
  simp only [tampWord, h1, h2]
  simp only [apply_ite Option.isSome, Option.isSome_some, ite_self]

/-- A physical function may read both words of a pair. -/
theorem regView_pair (h : isLower off = true) (hf : f.vf = 0) :
    (regView s f off).2 = false ∧ (regView s f (off + 4)).2 = false := by
  have hp : isPf f = true := by simp [isPf, hf]
  rcases isLower_iff.1 h with rfl | rfl | rfl | rfl | ⟨hs, hr⟩ | ⟨hs, hr⟩
  · exact ⟨by simp [regView, readDeal, dealWord, hp, shows], by simp [regView, readDeal, dealWord, hp, shows]⟩
  · exact ⟨by simp [regView, readKitty, shows], by simp [regView, readKitty, shows]⟩
  · exact ⟨by simp [regView, readKeyBlock, pfOnly, hp, shows], by simp [regView, readKeyBlock, pfOnly, hp, shows]⟩
  · exact ⟨by simp [regView, lifeWord, pfOnly, hp, shows], by simp [regView, lifeWord, pfOnly, hp, shows]⟩
  · have hw : ∀ o, o < 0x40000 → (readSeat s f o).2 = false := fun o ho => by simp [readSeat, ho, hp, shows]
    rw [regView_seats (by omega), regView_seats (by omega)]
    exact ⟨hw _ (by omega), hw _ (by omega)⟩
  · have hw : ∀ o, 0xF1000 ≤ o ∧ o < 0xF1800 → (regView s f o).2 = false := fun o ho => by
      have hb : o / 0x10000 = 0xF := by omega
      obtain ⟨w, hw⟩ := Option.isSome_iff_exists.1 (tampWord_log (s := s) (o % 0x10000) (by omega))
      simp only [regView, hb, hw, pfOnly, hp, if_true, shows]
    exact ⟨hw _ (by omega), hw _ (by omega)⟩

/-- A conforming read of a register that is no counter. -/
theorem hostRead_plain (ho : hostOk s f = true) (h4 : off % 4 = 0) (hv : (regView s f off).2 = false)
    (hc : off ∉ rcOffsets) : hostRead s f off 4 = holdStep { s with answer := .word (readWord s f off) } f off := by
  have hd : off / 4 * 4 = off := by omega
  simp [hostRead, ho, barRead, conforms, h4, hd, hv, clearRc_other hc]

/-- LOWER_WORD_READ (R8): the answer, and the copy. -/
theorem hostRead_lower (ho : hostOk s f = true) (hf : f.vf = 0) (h : isLower off = true) :
    hostRead s f off 4 = { s with
      answer := .word (regView s f off).1
      cnt := { s.cnt with holding := sput none s.cnt.holding (holdKey s f (off + 4)) (some (regView s f (off + 4)).1) } } := by
  obtain ⟨hu, -, -, h4, hc, -⟩ := pair_offsets h
  rw [hostRead_plain ho h4 (regView_pair h hf).1 hc]
  simp [holdStep, upperOf, h, readWord, hu, regView_answer, holdKey, seatBank]

/-- UPPER_WORD_READ (R8): the copy where there is one, else the live word; no copy is left. -/
theorem hostRead_upper (ho : hostOk s f = true) (hf : f.vf = 0) (h : isLower off = true) :
    hostRead s f (off + 4) 4 = { s with
      answer := .word ((sget none s.cnt.holding (holdKey s f (off + 4))).getD (regView s f (off + 4)).1)
      cnt := { s.cnt with holding := sput none s.cnt.holding (holdKey s f (off + 4)) none } } := by
  obtain ⟨-, hl, hu, h4, -, hc⟩ := pair_offsets h
  rw [hostRead_plain ho (by omega) (regView_pair h hf).2 hc]
  simp only [holdStep, upperOf, hl, readWord, hu]
  cases sget none s.cnt.holding (holdKey s f (off + 4)) <;> rfl

end

/-! ## Writes of BAR0 (R6, R7, R11) -/

section
variable {s : State} {f : Func} {off : Nat}

/-- A write that breaks R6. -/
theorem hostWrite_broken {size : Nat} (v : Word) (h : Reaches s f) (hb : size ≠ 4 ∨ off % 4 ≠ 0) :
    hostWrite s f off size v = regErr s f off := by
  have hc : conforms off size = false := by
    rw [← Bool.not_eq_true, conforms, Bool.and_eq_true, beq_iff_eq, beq_iff_eq]
    omega
  simp [hostWrite, hc, h.1]

/-- A write that keeps to R6, by whether its function may see the register. -/
theorem hostWrite_conforms (v : Word) (h : Reaches s f) (h4 : off % 4 = 0) :
    hostWrite s f off 4 v = if (regView s f off).2 then regErr s f off else regWrite s f off v := by
  simp [hostWrite, conforms, h4, barWrite_reaches _ _ h]

/-- A virtual function's write of a block that only a physical function writes. -/
theorem regWrite_pfBlock (v : Word) (hf : f.vf ≠ 0) (hb : off / 0x10000 ∈ [1, 2, 8, 10, 11, 12, 14, 15, 16, 17, 18]) :
    regWrite s f off v = regErr s f off := by
  have hp : isPf f = false := by simp [isPf, hf]
  simp only [List.mem_cons, List.not_mem_nil, or_false] at hb
  simp only [regWrite, hp]
  rw [if_neg (by omega), if_neg (by omega), if_neg (by omega)]
  rfl

/-- A physical function's write of such a block. -/
theorem regWrite_block (v : Word) (hf : f.vf = 0) (hb : off / 0x10000 ∈ [1, 2, 8, 10, 11, 12, 14, 15, 16, 17, 18]) :
    regWrite s f off v = blockWrite s f off v := by
  have hp : isPf f = true := by simp [isPf, hf]
  simp only [List.mem_cons, List.not_mem_nil, or_false] at hb
  simp only [regWrite, hp]
  rw [if_neg (by omega), if_neg (by omega), if_neg (by omega)]
  rfl

end

/-! ## IRQ_STATUS (R10, R113) -/

section
variable (s : State)

/-- A fold leaves what its steps over the list's own members leave. -/
theorem foldl_same_of_mem {α β : Type} (p : State → β) (g : State → α → State) (l : List α)
    (h : ∀ x ∈ l, ∀ t, p (g t x) = p t) : ∀ t, p (l.foldl g t) = p t := by
  induction l with
  | nil => exact fun t => rfl
  | cons a l ih => exact fun t => (ih (fun x hx => h x (by simp [hx])) _).trans (h a (by simp) t)

/-- A cause raised in the cycle of a write that clears it stands set, and of its own copy nothing else changes. -/
theorem getIrq_raiseIrq_again (pl b : Nat) : getIrq (raiseIrq s pl b true) pl =
    { getIrq s pl with status := setBit (getIrq s pl).status b true } := by
  simp only [raiseIrq, Bool.not_true, Bool.and_false, Bool.false_eq_true, if_false]
  split <;> simp [getIrq_sendMsi]

/-- A cause raised changes the IRQ blocks and the host link alone. -/
theorem raiseIrq_frame (pl b : Nat) (again : Bool) (q : SMap IrqBlock) (k : Link) :
    { raiseIrq s pl b again with irq := q, link := k } = { s with irq := q, link := k } := by
  simp

/-- One bit of the causes that are raised in the cycle of a write of IRQ_STATUS. -/
def reraise (pl : Nat) (v same : Word) (t : State) (b : Nat) : State :=
  if 20 ≤ b ∧ bit v b = true ∧ bit same b = true then raiseIrq t pl b true else t

/-- A bit set joins the word's own. -/
theorem getLsbD_setBit {n : Nat} (w : BitVec n) {b : Nat} (hb : b < n) (j : Nat) :
    (setBit w b true).getLsbD j = (w.getLsbD j || decide (j = b)) := by
  have e : (BitVec.ofNat n (2 ^ b)).getLsbD j = decide (j = b) := by
    rw [BitVec.getLsbD_ofNat, Nat.testBit_two_pow]
    by_cases h : j = b
    · simp [h, hb]
    · simp [h, Ne.symm h]
  simp only [setBit, if_true, BitVec.getLsbD_or, e]

/-- The causes of IRQ_STATUS after the device has raised those of the cycle. -/
theorem status_foldl_reraise (pl : Nat) (v same : Word) (j : Nat) (l : List Nat) (h : ∀ b ∈ l, b < 32) : ∀ t,
    (getIrq (l.foldl (reraise pl v same) t) pl).status.getLsbD j =
      ((getIrq t pl).status.getLsbD j || (decide (j ∈ l) && (v.getLsbD j && same.getLsbD j && decide (20 ≤ j)))) := by
  induction l with
  | nil => simp
  | cons b l ih =>
    intro t
    rw [List.foldl_cons, ih fun x hx => h x (by simp [hx])]
    rw [Bool.eq_iff_iff]
    unfold reraise
    by_cases hc : 20 ≤ b ∧ bit v b = true ∧ bit same b = true
    · rw [if_pos hc, getIrq_raiseIrq_again, getLsbD_setBit _ (h b (by simp))]
      simp only [bit, Bool.or_eq_true, Bool.and_eq_true, decide_eq_true_eq, List.mem_cons] at hc ⊢
      rcases eq_or_ne j b with rfl | hj <;> tauto
    · rw [if_neg hc]
      simp only [bit, Bool.or_eq_true, Bool.and_eq_true, decide_eq_true_eq, List.mem_cons] at hc ⊢
      rcases eq_or_ne j b with rfl | hj <;> tauto

/-- IRQ_STATUS written: its causes, and what stays as it was. -/
theorem irqStatusWrite_spec (f : Func) (v same : Word) :
    let t := irqStatusWrite s f v same
    (getIrq t (plKey f)).status =
        ((getIrq s (plKey f)).status &&& ~~~(v &&& 0xFFF00000)) ||| (v &&& same &&& 0xFFF00000)
      ∧ { getIrq t (plKey f) with status := (getIrq s (plKey f)).status } = getIrq s (plKey f)
      ∧ (∀ k, k ≠ plKey f → getIrq t k = getIrq s k) ∧ { t with irq := s.irq, link := s.link } = s := by
  have step : ∀ {β : Type} (p : State → β), (∀ t b, p (raiseIrq t (plKey f) b true) = p t) → ∀ t,
      p ((List.range 32).foldl (reraise (plKey f) v same) t) = p t := fun p hp t =>
    foldl_same p _ (fun t b => by unfold reraise; split; exacts [hp t b, rfl]) _ t
  refine ⟨BitVec.eq_of_getLsbD_eq fun j hj => ?_, ?_, fun k hk => ?_, ?_⟩
  · refine (status_foldl_reraise _ _ _ _ _ (by simp) _).trans ?_
    have hm : (0xFFF00000 : Word).getLsbD j = decide (20 ≤ j) := by
      revert j
      decide
    rw [getIrq_setIrq]
    simp only [irqMask, BitVec.getLsbD_or, BitVec.getLsbD_and, BitVec.getLsbD_not, hj, hm, decide_true, Bool.true_and,
      List.mem_range]
  · refine (step (fun t => { getIrq t (plKey f) with status := (getIrq s (plKey f)).status }) (fun t b => ?_) _).trans ?_
    · rw [getIrq_raiseIrq_again]
    · rw [getIrq_setIrq]
  · exact (step (getIrq · k) (fun t b => raiseIrq_ne _ _ _ _ _ hk) _).trans (getIrq_setIrq_ne _ _ hk)
  · exact step (fun t => { t with irq := s.irq, link := s.link }) (fun t b => raiseIrq_frame _ _ _ _ _ _) _

end

/-! ## DEAL_LANE_EN (R75, R80) -/

section
variable (s : State)

/-- A lane whose bit is written holds it. -/
theorem enableLane_en (l : Nat) (v : Bool) : (getLane (enableLane s l v) l).en = v := by
  by_cases h : v = (getLane s l).en <;> simp [enableLane, h]

/-- A lane whose bit already stands so is left alone. -/
theorem enableLane_same {l : Nat} {v : Bool} (h : (getLane s l).en = v) : enableLane s l v = s := by
  simp [enableLane, h]

/-- Every other lane is left alone. -/
theorem enableLane_ne {l k : Nat} (v : Bool) (h : k ≠ l) : getLane (enableLane s l v) k = getLane s k := by
  unfold enableLane
  dsimp only
  split
  · rfl
  · exact getLane_setLane_ne s _ h

/-- Nothing but the lanes changes. -/
theorem enableLane_frame (l : Nat) (v : Bool) (q : SMap Lane) : { enableLane s l v with lanes := q } = { s with lanes := q } := by
  unfold enableLane
  dsimp only
  split <;> rfl

/-- What a write of word w makes of a lane of it: the write of that lane's bit, in a state in which the lane stands as
before. -/
theorem getLane_laneEnWrite (w : Nat) (v : Word) {b : Nat} (hb : b < 32) : ∃ u,
    getLane u (32 * w + b) = getLane s (32 * w + b)
    ∧ getLane (laneEnWrite s w v) (32 * w + b) = getLane (enableLane u (32 * w + b) (bit v b)) (32 * w + b) := by
  obtain ⟨l₁, l₂, hl⟩ := List.append_of_mem (List.mem_range.2 hb)
  have hn := hl ▸ List.nodup_range (n := 32)
  obtain ⟨h₁, h₂, hd⟩ := List.nodup_append.1 hn
  have other : ∀ (l : List Nat), b ∉ l → ∀ t,
      getLane (l.foldl (fun u i => enableLane u (32 * w + i) (bit v i)) t) (32 * w + b) = getLane t (32 * w + b) :=
    fun l hm => foldl_same_of_mem (getLane · (32 * w + b)) _ l fun x hx t =>
      enableLane_ne t _ (by rintro h; exact hm (by rwa [show b = x by omega]))
  refine ⟨l₁.foldl (fun u i => enableLane u (32 * w + i) (bit v i)) s, other l₁ (fun h => hd b h b (by simp) rfl) s, ?_⟩
  rw [laneEnWrite, hl, List.foldl_append, List.foldl_cons]
  exact other l₂ (List.nodup_cons.1 h₂).1 _

/-- DEAL_LANE_EN of word w written: the lanes of the word, the others, and the rest of the state. -/
theorem laneEnWrite_spec (w : Nat) (v : Word) :
    let t := laneEnWrite s w v
    { t with lanes := s.lanes } = s
      ∧ (∀ b, b < 32 → (getLane t (32 * w + b)).en = v.getLsbD b)
      ∧ (∀ b, b < 32 → (getLane s (32 * w + b)).en = v.getLsbD b → getLane t (32 * w + b) = getLane s (32 * w + b))
      ∧ ∀ l, l / 32 ≠ w → getLane t l = getLane s l := by
  refine ⟨?_, fun b hb => ?_, fun b hb he => ?_, fun l hl => ?_⟩
  · exact foldl_same (fun t => { t with lanes := s.lanes }) _ (fun t i => enableLane_frame t _ _ _) _ s
  · obtain ⟨u, -, ht⟩ := getLane_laneEnWrite s w v hb
    rw [ht]
    exact enableLane_en u _ _
  · obtain ⟨u, hu, ht⟩ := getLane_laneEnWrite s w v hb
    rw [ht, enableLane_same u (by rw [hu, he]; rfl), hu]
  · refine foldl_same_of_mem (getLane · l) _ _ (fun i hi t => enableLane_ne t _ ?_) s
    have := List.mem_range.1 hi
    omega

end

/-! ## Single registers (R80, R113, R125) -/

section
variable {s : State} {f : Func}

/-- HAND_WAIT_LIMIT written by a physical function (R80). -/
theorem hostWrite_waitLim (v : Word) (h : Reaches s f) (hf : f.vf = 0) : hostWrite s f 0x20010 4 v =
    { s with dealer := { s.dealer with waitLim := max 1 (v.toNat % 2 ^ 24) } } := by
  have hv : (regView s f 0x20010).2 = false := by simp [regView, readDeal, dealWord, isPf, hf, shows]
  rw [hostWrite_conforms v h rfl, hv, regWrite_block v hf (by decide)]
  simp [blockWrite, dealWrite, fld, bits]

/-- KITTY_LIMIT of function i written by a physical function (R125). -/
theorem hostWrite_kittyLimit (v : Word) {i : Nat} (hi : i < 256) (h : Reaches s f) (hf : f.vf = 0) :
    hostWrite s f (0x80400 + 4 * i) 4 v =
      { s with kitty := { s.kitty with limits := sput 4096 s.kitty.limits i (min 4096 (v.toNat % 8192)) } } := by
  have hb : (0x80400 + 4 * i) / 0x10000 = 8 := by omega
  have hm : (0x80400 + 4 * i) % 0x10000 = 0x400 + 4 * i := by omega
  have ha : inArray (0x400 + 4 * i) 0x400 256 = some i := by simp [inArray]; omega
  have hv : (regView s f (0x80400 + 4 * i)).2 = false := by
    simp only [regView, hb, hm, readKitty, ha, isPf, hf, shows]
    rw [if_neg (by omega), if_neg (by omega), if_neg (by omega), if_neg (by omega)]
    rfl
  rw [hostWrite_conforms v h (by omega), hv, regWrite_block v hf (by rw [hb]; decide)]
  simp only [blockWrite, hb, hm, kittyWrite, ha]
  simp [fld, bits]

/-- IRQ_ENABLE written by a physical function (R113). -/
theorem hostWrite_irqEnable (v : Word) (h : Reaches s f) (hf : f.vf = 0) : hostWrite s f 0x120004 4 v =
    setIrq s (plKey f) { getIrq s (plKey f) with enable := v &&& 0xFFF00000 } := by
  have hv : (regView s f 0x120004).2 = false := by simp [regView, readIrq, isPf, hf]
  rw [hostWrite_conforms v h rfl, hv, regWrite_block v hf (by decide)]
  simp [blockWrite, irqWrite, irqMask]

end

/-- Settles O33: the pairs by their two reads, the writes by what regWrite makes of a block, IRQ_STATUS and DEAL_LANE_EN
by the rules of their folds. -/
theorem registerAccess : Obligations.RegisterAccess := by
  unfold Obligations.RegisterAccess
  refine ⟨fun f off s w ho hf hoff => ?_, fun f off size i v same w s hr => 
    ⟨fun hb => congrArg _ (hostWrite_broken v hr hb), fun h4 hv => ?_, fun h4 hf hb => ?_, fun hf => ?_, fun hf => ?_⟩⟩
  · have hl : isLower off = true := by
      rw [isLower_iff]
      simp only [List.mem_cons, List.not_mem_nil, or_false] at hoff
      rcases hoff with h | ⟨i, r, hi, h, rfl⟩ | ⟨k, hk, rfl⟩ <;> omega
    refine ⟨congrArg _ (hostRead_lower ho hf hl), fun hc => congrArg Host.Outcome.next ?_,
      fun hc => congrArg Host.Outcome.next ?_⟩
    · rw [hostRead_upper ho hf hl, hc, Option.getD_some]
    · rw [hostRead_upper ho hf hl, hc, Option.getD_none]
  · refine congrArg Host.Outcome.next ?_
    rw [hostWrite_conforms v hr h4, hv, if_pos rfl]
  · refine congrArg Host.Outcome.next ?_
    rw [hostWrite_conforms v hr h4, regWrite_pfBlock v hf hb, ite_self]
  · exact ⟨congrArg _ (hostWrite_waitLim v hr hf), fun hi => congrArg _ (hostWrite_kittyLimit v hi hr hf),
      congrArg _ (hostWrite_irqEnable v hr hf),
      ⟨_, congrArg Host.Outcome.next (pfWrite_acts _ _ hr hf), irqStatusWrite_spec s f v same⟩,
      ⟨_, congrArg Host.Outcome.next (pfWrite_acts _ _ hr hf), laneEnWrite_spec s w.val v⟩⟩
  · exact ⟨congrArg _ (pfWrite_refuses _ _ hr hf), congrArg _ (pfWrite_refuses _ _ hr hf)⟩

end Sys2Proof.Machine
end

section
/-!
PROOFS. What a virtual function's register writes and doorbells reach.
-/
namespace Sys2Proof.Machine

/-! ## What a virtual function reaches (R7, R88, R100, R101) -/

/-- From s to t, function f reached no seat but its own, no discard count but its own, and else only the IRQ blocks, the
host link and SEAT_BANK. -/
structure KeepsToSeats (f : Func) (s t : State) : Prop where
  seats : ∀ i, boundTo s i f = false → getSeat t i = getSeat s i
  discards : ∀ g, fkey g ≠ fkey f → sget 0 t.cnt.dbDiscard (fkey g) = sget 0 s.cnt.dbDiscard (fkey g)
  rest : { t with seats := s.seats, irq := s.irq, link := s.link, cnt := s.cnt } = s

section
variable {s : State} {f : Func}

theorem keepsToSeats_refl : KeepsToSeats f s s := ⟨fun _ _ => rfl, fun _ _ => rfl, rfl⟩

/-- A discarded access. -/
theorem keepsToSeats_regErr (off : Nat) : KeepsToSeats f s (regErr s f off) :=
  ⟨fun _ _ => by simp [getSeat], fun _ _ => by simp, by simp⟩

/-- A discarded doorbell counts for its own function. -/
theorem keepsToSeats_discardDoorbell : KeepsToSeats f s (discardDoorbell s f) where
  seats _ _ := by simp [getSeat]
  discards g hg := by simp [discardDoorbell, supd, sget_sput_ne _ _ _ hg]
  rest := by simp

/-- A seat that is not bound to the function is another one than a seat that is. -/
theorem ne_of_bound {i j : Nat} (hi : boundTo s i f = true) (hj : boundTo s j f = false) : j ≠ i := by
  rintro rfl
  rw [hi] at hj
  cases hj

/-- A write of a seat of its own. -/
theorem keepsToSeats_setSeat {i : Nat} (x : Seat) (h : boundTo s i f = true) : KeepsToSeats f s (setSeat s i x) :=
  ⟨fun _ hj => getSeat_setSeat_ne s x (ne_of_bound h hj), fun _ _ => rfl, rfl⟩

/-- A halt leaves every other seat as it was. -/
theorem getSeat_enterHalt_ne (c : HaltCause) (idx : Option Nat) {i j : Nat} (h : j ≠ i) :
    getSeat (enterHalt s i c idx) j = getSeat s j := by
  have hm : ∀ t, getSeat (seatMsi t i) j = getSeat t j := fun t => by
    unfold seatMsi
    dsimp only
    split
    · rw [getSeat, sendMsi_seats]
      exact getSeat_setSeat_ne t _ h
    · rfl
  rw [enterHalt, getSeat, raiseAll_seats]
  exact (hm _).trans (getSeat_modSeat_ne s _ h)

/-- The halt of a seat of its own. -/
theorem keepsToSeats_enterHalt {i : Nat} (c : HaltCause) (idx : Option Nat) (h : boundTo s i f = true) :
    KeepsToSeats f s (enterHalt s i c idx) :=
  ⟨fun _ hj => getSeat_enterHalt_ne c idx (ne_of_bound h hj), fun _ _ => by simp, by simp⟩

/-- SEAT_CTRL by a virtual function: FORCE_HALT is not its own to give (R88). -/
theorem keepsToSeats_seatCtrl (i : Nat) (v : Word) (hf : f.vf ≠ 0) : KeepsToSeats f s (seatCtrl s f i v) := by
  have hm : mayForce s f i = false := by simp [mayForce, isPf, hf]
  unfold seatCtrl seatCtrlRows
  cases hv : bit v 31
  · cases hb : boundTo s i f
    · exact keepsToSeats_regErr _
    · exact keepsToSeats_setSeat _ hb
  · simp only [hm, if_true, Bool.false_eq_true, if_false]
    exact keepsToSeats_regErr _

/-- A register of the seat window. -/
theorem keepsToSeats_windowWrite (i r : Nat) (v : Word) (hf : f.vf ≠ 0) : KeepsToSeats f s (windowWrite s f i r v) := by
  unfold windowWrite
  dsimp only
  split
  · exact keepsToSeats_seatCtrl i v hf
  · cases hb : boundTo s i f
    · exact keepsToSeats_regErr _
    · simp only [Bool.not_true, Bool.false_eq_true, if_false]
      (repeat' split)
      · exact keepsToSeats_setSeat _ hb
      · exact keepsToSeats_regErr _
      · exact keepsToSeats_setSeat _ hb
      · exact keepsToSeats_setSeat _ hb
      · exact keepsToSeats_setSeat _ hb
      · exact keepsToSeats_regErr _
      · exact keepsToSeats_refl

/-- A register of the SEAT block: SEAT_BIND is a physical function's (R87). -/
theorem keepsToSeats_seatBlockWrite (o : Nat) (v : Word) (hf : f.vf ≠ 0) : KeepsToSeats f s (seatBlockWrite s f o v) := by
  unfold seatBlockWrite
  split
  · exact keepsToSeats_windowWrite _ _ v hf
  split
  · exact ⟨fun _ _ => rfl, fun _ _ => rfl, rfl⟩
  split
  · have hp : isPf f = false := by simp [isPf, hf]
    simp only [seatBindWrite, hp, Bool.false_and, Bool.false_eq_true, if_false]
    exact keepsToSeats_regErr _
  · exact keepsToSeats_refl

/-- A register that takes a write. -/
theorem keepsToSeats_regWrite (off : Nat) (v : Word) (hf : f.vf ≠ 0) : KeepsToSeats f s (regWrite s f off v) := by
  have hp : isPf f = false := by simp [isPf, hf]
  simp only [regWrite, hp, Bool.false_eq_true, if_false]
  (repeat' split)
  · exact keepsToSeats_refl
  · exact keepsToSeats_regErr _
  · exact keepsToSeats_refl
  · exact keepsToSeats_seatBlockWrite _ v hf
  · exact keepsToSeats_regErr _

/-- REGISTER_WRITE by a virtual function. -/
theorem keepsToSeats_hostWrite (off size : Nat) (v : Word) (hf : f.vf ≠ 0) : KeepsToSeats f s (hostWrite s f off size v) := by
  unfold hostWrite barWrite
  dsimp only
  (repeat' split)
  · exact keepsToSeats_regErr _
  · exact keepsToSeats_refl
  · exact keepsToSeats_refl
  · exact keepsToSeats_regErr _
  · exact keepsToSeats_regErr _
  · exact keepsToSeats_regWrite off v hf

/-- A doorbell that R100 accepts. -/
theorem keepsToSeats_ringDoorbell {i : Nat} (v : Nat) (hb : boundTo s i f = true) : KeepsToSeats f s (ringDoorbell s f i v) := by
  unfold ringDoorbell
  dsimp only
  split
  · split
    · exact keepsToSeats_discardDoorbell
    · exact keepsToSeats_enterHalt _ _ hb
  · exact keepsToSeats_setSeat _ hb

/-- DOORBELL. -/
theorem exec_doorbell_keepsToSeats {t : State} (off : Nat) (data : Bytes) (h : exec (.doorbell f off data) s = .next t) :
    KeepsToSeats f s t := by
  change execDoorbell f off data s = .next t at h
  unfold execDoorbell at h
  dsimp only at h
  (repeat' split at h) <;> cases h
  · exact keepsToSeats_refl
  · exact keepsToSeats_discardDoorbell
  · exact keepsToSeats_discardDoorbell
  · next hn =>
    refine keepsToSeats_ringDoorbell _ ?_
    cases hb : boundTo s (off / 8) f
    · simp [hb] at hn
    · rfl

end

/-- Settles O34: every way such a write or doorbell ends keeps to the function's own seats. -/
theorem virtualFunctionsKeepToTheirSeats : Obligations.VirtualFunctionsKeepToTheirSeats := by
  unfold Obligations.VirtualFunctionsKeepToTheirSeats
  intro f off size v data s t hf h
  have hk : KeepsToSeats f s t := by
    rcases h with h | h
    · cases h
      exact keepsToSeats_hostWrite off size v hf
    · exact exec_doorbell_keepsToSeats off data h
  obtain ⟨hseats, hdisc, hrest⟩ := hk
  have part : ∀ {β : Type} (p : State → β), p { t with seats := s.seats, irq := s.irq, link := s.link, cnt := s.cnt } = p s :=
    fun p => congrArg p hrest
  exact ⟨hseats, part State.mem, part State.round, part State.power, part State.fuses, part State.aon, part State.kitty,
    part State.dealer, part State.lanes, part State.records, part State.engines, part State.keys, part State.rng,
    part State.prot, part State.house, part State.slots, part State.quorum, hdisc⟩

end Sys2Proof.Machine
end

section
/-!
PROOFS. A round boundary, with CLK_CORE running, stopping and stopped.
-/
namespace Sys2Proof.Machine

/-! ## The always-on clock (R344) -/

/-- RTC_FRAC and the seconds together count one tick of 1/32,768 s, while the seconds do not run over. -/
theorem rtcTicks_succ {sec : BitVec 32} {fr : BitVec 15} (h : sec.toNat * 32768 + fr.toNat + 1 < 2 ^ 47) :
    (if fr + 1 = 0 then sec + 1 else sec).toNat * 32768 + (fr + 1).toNat = sec.toNat * 32768 + fr.toNat + 1 := by
  have hfr : (fr + 1).toNat = (fr.toNat + 1) % 2 ^ 15 := BitVec.toNat_add fr 1
  have hlt := fr.isLt
  split
  next hz =>
    have hz' : (fr + 1).toNat = 0 := by rw [hz]; rfl
    have hsec : (sec + 1).toNat = (sec.toNat + 1) % 2 ^ 32 := BitVec.toNat_add sec 1
    omega
  next hz =>
    have hz' : (fr + 1).toNat ≠ 0 := fun h0 => hz (BitVec.eq_of_toNat_eq h0)
    omega

/-- One interval of 40 ns adds 32,768 parts, and what is left of a tick stays below one. -/
theorem rtcTotal_rtcStep {a : Aon} (hacc : a.rtcAcc < 25000000) (hmax : rtcTotal a + 32768 < 2 ^ 47 * 25000000) :
    rtcTotal (rtcStep a) = rtcTotal a + 32768 ∧ (rtcStep a).rtcAcc < 25000000 := by
  simp only [rtcTotal] at hmax ⊢
  by_cases hc : a.rtcAcc + 32768 < 25000000
  · have hs : rtcStep a = { a with rtcAcc := a.rtcAcc + 32768, now := a.now + 1 } := by
      simp [rtcStep, Config.roundsPerSecond, hc]
    simp only [hs]
    omega
  · have hs : rtcStep a = { a with
        rtcAcc := a.rtcAcc + 32768 - 25000000, rtcFrac := a.rtcFrac + 1, now := a.now + 1
        rtcSec := if a.rtcFrac + 1 = 0 then a.rtcSec + 1 else a.rtcSec } := by
      simp [rtcStep, Config.roundsPerSecond, hc]
    have hroom : a.rtcSec.toNat * 32768 + a.rtcFrac.toNat + 1 < 2 ^ 47 := by
      refine Nat.lt_of_mul_lt_mul_right (a := 25000000) (hmax.trans_le' ?_)
      omega
    simp only [hs, rtcTicks_succ hroom]
    omega

/-! ## A boundary's parts with nothing to do (R327, R336, R344) -/

section
variable {s : State}

/-- No source has qualified, so no response runs. -/
theorem tripTurn_of_none_due (h : s.aon.due = 0) : tripTurn s = s := by
  have hn : dueSources s = [] := by simp [dueSources, h, bit]
  simp [tripTurn, hn]

/-- No filter is to start afresh and no test runs. -/
theorem restartTurn_of_none_named (hr : s.aon.restart = 0) (ha : s.aon.rearm = 0) (ht : s.aon.test = none) :
    restartTurn s = s := by
  -- the fields that restartTurn sets to 0 are named, so that simp can compare them
  change restartTurn s = { s with aon := { s.aon with restart := s.aon.restart, rearm := s.aon.rearm } }
  simp [restartTurn, hr, ha, ht, bit]

end

/-! ## The three ways of a boundary (R39, R377) -/

/-- An operation that holds no main reset holds ROUND_COUNT. -/
theorem Keeps.round_eq {s t : State} (h : Keeps false s t) : t.round = s.round := by
  rcases h.round with r | ⟨hz, -⟩
  · exact r
  · cases hz

section
variable {s : State} (env : RoundEnv)

/-- CLK_CORE goes on: round n closes and the next begins. -/
theorem exec_roundTick_begins (hr : running s = true) (hq : (quietTurn (endRound s env)).power.resetReq = false)
    (hd : standbyDue (quietTurn (endRound s env)) = false) :
    exec (.roundTick env) s = .next (beginRound (quietTurn (endRound s env)) env) := by
  simp [exec, execRoundTick, roundTick, hr, hq, hd]

/-- CLK_CORE stops with the round that is closed. -/
theorem exec_roundTick_stops (hr : running s = true) (hq : (quietTurn (endRound s env)).power.resetReq = false)
    (hd : standbyDue (quietTurn (endRound s env)) = true) :
    exec (.roundTick env) s = .next (standbyEnter (quietTurn (endRound s env))) := by
  simp [exec, execRoundTick, roundTick, hr, hq, hd]

/-- CLK_CORE stands: 40 ns of what does not need it. -/
theorem exec_roundTick_stopped (hr : running s = false) (hq : (quietTurn (tripTurn s)).power.resetReq = false) :
    exec (.roundTick env) s = .next (quietTurn (tripTurn s)) := by
  simp [exec, execRoundTick, roundTick, hr, hq]

/-- What closes a round holds ROUND_COUNT. -/
theorem closedRound_round : (quietTurn (endRound s env)).round = s.round :=
  Keeps.round_eq (quietTurn_keeps (endRound_keeps (.refl s)))

end

/-- ROUND_COUNT of the round that begins. -/
theorem beginRound_round (s : State) (env : RoundEnv) : (beginRound s env).round = s.round + 1 :=
  Keeps.round_eq (beginRound_keeps s env)

/-- Settles O28: each clause by its way of a boundary; ROUND_COUNT by what the parts of that way keep. -/
theorem roundBoundary : Obligations.RoundBoundary := by
  unfold Obligations.RoundBoundary
  refine fun env s => ⟨fun hr hq hd => ?_, fun hr hq hd => ?_, fun hr hq => ?_, fun hr hq hdue hre hrm ht => ?_,
    fun hacc _ hmax => rtcTotal_rtcStep hacc hmax⟩
  · exact ⟨_, exec_roundTick_begins env hr hq hd, by rw [beginRound_round, closedRound_round]⟩
  · refine ⟨_, exec_roundTick_stops env hr hq hd, ?_, rfl, rfl, rfl, rfl⟩
    exact (Keeps.round_eq (standbyEnter_keeps (.refl _))).trans (closedRound_round env)
  · exact ⟨_, exec_roundTick_stopped env hr hq, Keeps.round_eq (quietTurn_keeps (tripTurn_keeps (.refl s)))⟩
  · have htrip := tripTurn_of_none_due hdue
    have hquiet := restartTurn_of_none_named hre hrm ht
    have hreset : (quietTurn (tripTurn s)).power.resetReq = false := by rw [htrip, quietTurn, hquiet]; exact hq
    rw [exec_roundTick_stopped env hr hreset, htrip, quietTurn, hquiet]
    simp [aonUp]

end Sys2Proof.Machine
end

section
/-!
PROOFS. ROUND_COUNT over a step, and the staging of a segment's input.
-/
namespace Sys2Proof.Machine

/-! ## ROUND_COUNT (R39) -/

/-- Settles O6: an idle block holds it; a command moves it as exec_next says. -/
theorem roundCountMoves : Obligations.RoundCountMoves := by
  unfold Obligations.RoundCountMoves
  intro s t h
  unfold step at h
  split at h
  · cases h
    exact .inl rfl
  next c rest hp =>
    obtain ⟨u, hu, hk⟩ := exec_next c { s with pending := rest }
    cases hu.symm.trans h
    rcases hk with hk | ⟨⟨env, rfl⟩, hk⟩
    · rcases hk.round with hr | ⟨-, hr⟩
      · exact .inl hr
      · exact .inr (.inl hr)
    · exact .inr (.inr ⟨hk.round_eq, env, rest, hp⟩)

/-! ## Tricks of a cipher segment (R42, R109, R171) -/

section
variable {g : Flight} {j : Nat}

/-- A segment of a descriptor that forms messages begins below LEN (R42). -/
theorem lt_len_of_lt_segCount {d : Desc} (hm : (opClass d.op).msg = true) (hl : 0 < d.l) (hj : j < segCount d) :
    4096 * j < d.l := by
  simp only [segCount, hm, if_true, ceilDiv] at hj
  omega

/-- A cipher opcode is none of the two that read a hand in place of a source. -/
theorem op_ne_of_cipher (hc : opClass g.desc.op = .cipher) : g.desc.op ≠ 0x54 ∧ g.desc.op ≠ 0x58 := by
  refine ⟨fun h => ?_, fun h => ?_⟩ <;> rw [h] at hc <;> cases hc

/-- The input bytes of a cipher segment (R42). -/
theorem segBytes_cipher (hc : opClass g.desc.op = .cipher) : segBytes g.desc j = min 4096 (g.desc.l - 4096 * j) := by
  simp [segBytes, hc, op_ne_of_cipher hc, OpClass.msg]

/-- A cipher segment of a source contiguous in host memory is one piece of it. -/
theorem segSpans_cipher (hc : opClass g.desc.op = .cipher) (hs : g.srcList = none) (hk : g.desc.srcKitty = false)
    (hj : 4096 * j < g.desc.l) : segSpans g j =
      [{ kitty := false, addr := g.desc.src + BitVec.ofNat 64 (4096 * j), len := segBytes g.desc j }] := by
  have hl : g.desc.l ≠ 0 := by omega
  have hn : segBytes g.desc j ≠ 0 := by rw [segBytes_cipher hc]; omega
  have hle : segBytes g.desc j ≤ g.desc.l - 4096 * j := by rw [segBytes_cipher hc]; omega
  simp [segSpans, hc, op_ne_of_cipher hc, OpClass.msg, srcSpans, hs, hl, hk, cutSpans, hn, hj, Nat.min_eq_left hle]

/-- Its input takes one trick for each that it carries (R109). -/
theorem needIn_cipher (hc : opClass g.desc.op = .cipher) (hs : g.srcList = none) (hk : g.desc.srcKitty = false)
    (hr : g.desc.result = 0) (hj : 4096 * j < g.desc.l) : needIn g j = segTricks g.desc j := by
  simp [needIn, segSpans_cipher hc hs hk hj, spanBytes, expectBytes, hr, segTricks]

/-- So does its output, which is as long (R109). -/
theorem needOut_cipher (hc : opClass g.desc.op = .cipher) (hd : g.dstList = none) (hk : g.desc.dstKitty = false)
    (hr : g.desc.result = 0) (hcap : 0 < g.desc.cap) : needOut g j = segTricks g.desc j := by
  have hn : g.desc.cap ≠ 0 := by omega
  simp [needOut, hc, hr, dstSpans, hd, hn, hk, segOut, segTricks]

end

/-! ## Reservations and returned input (R43, R109, R111, R183) -/

section
variable {s : State} {seat : Fin 8192} {sq : Nat} {g : Flight}

/-- STAGING_RESERVATION of a live seat, for the descriptor it names. -/
theorem execStagingReservation_named (hr : running s = true) (hl : seatLive s seat.val = true)
    (hn : Names s seat.val sq g wantsPlaces) : execStagingReservation seat sq s =
      let n := needIn g g.nextSeg + needOut g g.nextSeg
      if opClass g.desc.op = .engine ∧ (getSeat s seat.val).stageLim < n then
        .next (decide_ s seat.val g.seq .bounds 0xFFFE s.round false)
      else if mayReserve s seat.val g n then .next (reserveSeg s seat.val g (needIn g g.nextSeg) (needOut g g.nextSeg))
      else .next s := by
  have hf : flightBySq s seat.val sq wantsPlaces = some g := hn
  simp [execStagingReservation, hf, hr, hl]

/-- What a reservation needs of the pool and the order (R56, R57, R109). -/
theorem mayReserve_iff {i n : Nat} : mayReserve s i g n = true ↔
    n = 0 ∨ (n ≤ poolFree s ∧ seatLets s i g n = true ∧ poolTurn s i n = true) := by
  simp only [mayReserve, Bool.or_eq_true, beq_iff_eq, Bool.and_eq_true, decide_eq_true_eq]
  tauto

/-- The flight that PAYLOAD_READ_RETURN looks for: one whose input, or whose expected value, has been asked for. -/
def awaits (expected : Bool) (h : Flight) : Bool :=
  h.decided.isNone && (h.reserved || isCeremony h.desc.op)
    && (if expected then wantsExpected h && h.expected.isNone
        else decide (0 < hostBytes (segSpans h h.nextSeg)) && h.input.isNone)

/-- Input that returns is staged, an expected value in the last trick (R43, R171). -/
theorem execPayloadReadReturn_data {x : Bool} (b : Bytes) (hr : running s = true) (hn : Names s seat.val sq g (awaits x)) :
    execPayloadReadReturn seat sq x (.data b) s = .next (
      if x then
        modFlight (stagePut s (g.resvIn.drop (g.resvIn.length - 1)) (padTo (expectBytes g) b)) seat.val g.seq fun y =>
          { y with
            expected := some (padTo (expectBytes g) b), dealFrom := s.round, reads := readsLeft g .expected }
      else
        modFlight (stagePut s g.resvIn (padTo (hostBytes (segSpans g g.nextSeg)) b)) seat.val g.seq fun y =>
          { y with
            input := some (padTo (hostBytes (segSpans g g.nextSeg)) b), dealFrom := s.round
            reads := readsLeft g .payload }) := by
  have hf : flightBySq s seat.val sq (awaits x) = some g := hn
  unfold awaits at hf
  unfold execPayloadReadReturn
  simp only [hf, hr]
  cases x <;> rfl

/-- A read that fails halts the seat with its DETAIL (R106, R111). -/
theorem execPayloadReadReturn_fails {x : Bool} {d : HostData} {e : BitVec 16} (hr : running s = true)
    (hn : Names s seat.val sq g (awaits x)) (hd : readDetail 3 d = some e) :
    execPayloadReadReturn seat sq x d s = .next
      (dmaHalt (modFlight s seat.val g.seq fun y => { y with reads := readsLeft g (if x then .expected else .payload) })
        seat.val g e) := by
  have hf : flightBySq s seat.val sq (awaits x) = some g := hn
  unfold awaits at hf
  unfold execPayloadReadReturn
  cases d with
  | data b => cases hd
  | poisoned | refused | timeout => simp [hf, hr, hd]

/-- The DETAIL of each way in which a read fails. -/
theorem readDetail_of_mem {d : HostData} {e : BitVec 16}
    (h : (d, e) ∈ [(HostData.poisoned, (3 : BitVec 16)), (.refused, 4), (.timeout, 5)]) : readDetail 3 d = some e := by
  simp only [List.mem_cons, Prod.mk.injEq, List.not_mem_nil, or_false] at h
  rcases h with ⟨rfl, rfl⟩ | ⟨rfl, rfl⟩ | ⟨rfl, rfl⟩ <;> rfl

end

/-- Settles O25: a reservation by the branches of the command, input by the rules for data and for a read that failed; of
the two tricks for each trick carried one is the input's, one the output's. -/
theorem staging : Obligations.Staging := by
  unfold Obligations.Staging
  refine ⟨fun seat sq s g b d e => ?_, fun g hc hs hd hsk hdk hr hl hcap hj => ?_⟩
  · intro i a n v w without hrun
    refine ⟨fun hn hl => ?_, fun hn => ?_, fun hn => ?_⟩
    · have hex := execStagingReservation_named hrun hl hn
      refine ⟨fun hc hlim => ?_, fun hlim hok => ?_⟩
      · exact ⟨_, hex.trans (if_pos ⟨hc, hlim⟩), decide_ends ..⟩
      · exact hex.trans ((if_neg hlim).trans (if_pos (mayReserve_iff.2 hok)))
    · exact ⟨execPayloadReadReturn_data (x := false) b hrun hn,
        fun hm => execPayloadReadReturn_fails (x := false) hrun hn (readDetail_of_mem hm)⟩
    · exact ⟨execPayloadReadReturn_data (x := true) b hrun hn,
        fun hm => execPayloadReadReturn_fails (x := true) hrun hn (readDetail_of_mem hm)⟩
  · have hlt := lt_len_of_lt_segCount (by rw [hc]; rfl) hl hj
    rw [needIn_cipher hc hs hsk hr hlt, needOut_cipher hc hd hdk hr (Nat.lt_of_lt_of_le hl hcap), Nat.two_mul]

end Sys2Proof.Machine
end

section
/-!
PROOFS. Coalescing timer, drain end, link departures and vector unmask.
-/
namespace Sys2Proof.Machine

/-! ## An entry written twice -/

section
variable {α : Type}

theorem serase_serase (m : SMap α) (k : Nat) : serase (serase m k) k = serase m k := by
  simp [serase]

theorem serase_sins (k : Nat) (v : α) (m : SMap α) : serase (sins k v m) k = serase m k := by
  induction m with
  | nil => simp [sins, serase]
  | cons e t ih =>
    obtain ⟨a, w⟩ := e
    simp only [sins]
    split
    · simp [serase]
    · simp only [serase, List.filter_cons] at ih ⊢
      rw [ih]

/-- The second write is the one that stands. -/
theorem sput_sput [DecidableEq α] (d : α) (m : SMap α) (k : Nat) (v w : α) :
    sput d (sput d m k v) k w = sput d m k w := by
  have hs : serase (sput d m k v) k = serase m k := by
    unfold sput
    split
    · exact serase_serase m k
    · rw [serase_sins, serase_serase]
  change (if w = d then serase (sput d m k v) k else sins k w (serase (sput d m k v) k)) = sput d m k w
  rw [hs]
  rfl

end

theorem setSeat_setSeat (s : State) (i : Nat) (x y : Seat) : setSeat (setSeat s i x) i y = setSeat s i y := by
  simp only [setSeat, sput_sput]

theorem setEngine_setEngine (s : State) (k : Nat) (x y : Engine) : setEngine (setEngine s k x) k y = setEngine s k y := by
  simp only [setEngine, sput_sput]

/-! ## A seat's timer and its drain (R76, R90, R110) -/

section
variable {s : State} {seat : Fin 8192}

/-- COAL_TIMER_EXPIRY once the timer has run out (R110). -/
theorem execCoalTimerExpiry_due {o : Round} (hr : running s = true) (hs : standbyHold s = false)
    (he : (getSeat s seat.val).irqEn.at_ s.round = true) (ho : (getSeat s seat.val).oldest = some o)
    (hc : 0 < (getSeat s seat.val).coalTime.at_ s.round) (hd : o + (getSeat s seat.val).coalTime.at_ s.round ≤ s.round) :
    execCoalTimerExpiry seat s = .next (sendMsi
      (setSeat s seat.val { getSeat s seat.val with unsig := 0, oldest := none })
      (getSeat s seat.val).bind ((getSeat s seat.val).irqVec.at_ s.round)) := by
  simp [execCoalTimerExpiry, timerDue, seatMsi, hr, hs, he, ho, hc, hd]

/-- DRAIN_END of a drained seat (R90). -/
theorem execDrainEnd_drained (hd : seatState s (getSeat s seat.val) = .draining) (hf : (getSeat s seat.val).flights = [])
    (ha : (getSeat s seat.val).fetches = []) : execDrainEnd seat s =
      .next (setSeat s seat.val { getSeat s seat.val with ctrl := (getSeat s seat.val).ctrl ++ [.drained] }) :=
  if_pos ⟨hd, hf, ha⟩

/-- The turn in which that takes effect (R76, R90). -/
theorem ctrlTurn_drained {i : Nat} (hc : (getSeat s i).ctrl = [.drained]) (hd : seatState s (getSeat s i) = .draining) :
    ctrlTurn s i = setSeat s i { getSeat s i with
      ctrl := [], prevSt := .draining, st := (if (getSeat s i).pend then .run else .armed), stFrom := s.round
      pend := false } := by
  have hst : seatState (setSeat s i { getSeat s i with ctrl := [] }) { getSeat s i with ctrl := [] } = .draining := hd
  simp [ctrlTurn, hc, seatMove, hst, nextState, setSeat_setSeat]

end

/-! ## The host link (R19, R86, R110) -/

section
variable {s : State} {f : Func} {vec : BitVec 11} {a : BitVec 64} {dw : BitVec 32}

/-- LINK_WRITE_DEPART with room for the oldest write (R86). -/
theorem execLinkWriteDepart_room {port link : Fin 2} {w : LinkWrite} {rest : List LinkWrite}
    (hq : sget [] s.link.queue (2 * port.val + link.val) = w :: rest)
    (hr : sget 0 s.link.used (2 * port.val + link.val) + writeSize w ≤ linkRoom s port.val link.val) :
    execLinkWriteDepart port link s = .next { s with link := { s.link with
      queue := sput [] s.link.queue (2 * port.val + link.val) rest
      used := sput 0 s.link.used (2 * port.val + link.val)
        (sget 0 s.link.used (2 * port.val + link.val) + writeSize w)
      left := sput none s.link.left (2 * port.val + link.val) (some w) } } := by
  simp [execLinkWriteDepart, hq, hr]

/-- The state with one entry of a function's MSI-X table filled in and unmasked. -/
def unmask (s : State) (f : Func) (vec : BitVec 11) (a : BitVec 64) (dw : BitVec 32) : State :=
  { s with link := { s.link with
    unmasked := sput false s.link.unmasked (2048 * fkey f + vec.toNat) true
    msix := sput ⟨0, 0⟩ s.link.msix (2048 * fkey f + vec.toNat) ⟨a, dw⟩ } }

/-- VECTOR_UNMASK of an entry of the function's table: a pending message is sent. -/
theorem execVectorUnmask_entry (hf : hostOk s f = true) (hv : vec.toNat < msixSize s f) :
    execVectorUnmask f ⟨vec, a, dw⟩ s = .next (
      if sget false s.link.msiPend (2048 * fkey f + vec.toNat) then
        let t := unmask s f vec a dw
        sendMsi { t with link := { t.link with
          msiPend := sput false s.link.msiPend (2048 * fkey f + vec.toNat) false } } f vec
      else unmask s f vec a dw) := by
  simp only [execVectorUnmask, hf, hv, decide_true, Bool.and_true, if_true]
  exact (apply_ite Host.Outcome.next _ _ _).symm

/-- A message by an unmasked entry is queued for its port and link (R86, R110). -/
theorem sendMsi_unmasked (h : sget false s.link.unmasked (2048 * fkey f + vec.toNat) = true) :
    sendMsi s f vec = pushWrite s
      { func := f, addr := (sget (⟨0, 0⟩ : MsixEntry) s.link.msix (2048 * fkey f + vec.toNat)).addr
        data := natLe 4 (sget (⟨0, 0⟩ : MsixEntry) s.link.msix (2048 * fkey f + vec.toNat)).data.toNat
        kind := .msix vec, issued := s.round } := by
  simp [sendMsi, h]

end

/-- Settles O27: each event by its own rule; what a queue or a table reads then, by the laws of tables. -/
theorem ringEvents : Obligations.RingEvents := by
  unfold Obligations.RingEvents
  refine fun seat port link f vec a dw s w rest o => ⟨execCoalTimerExpiry_due, execDrainEnd_drained, ctrlTurn_drained,
    fun hq hr => ?_, fun hf hv hp => ?_, fun hf hv hp => ?_⟩
  · exact ⟨_, execLinkWriteDepart_room hq hr, by simp, by simp, fun j hj => sget_sput_ne _ _ _ hj, rfl⟩
  · exact (execVectorUnmask_entry hf hv).trans (by rw [hp]; rfl)
  · refine ⟨_, (execVectorUnmask_entry hf hv).trans (by rw [if_pos hp]), ?_⟩
    rw [sendMsi_unmasked (by simp [unmask])]
    simp [pushWrite, unmask, supd]

end Sys2Proof.Machine
end

section
/-!
PROOFS. Waits for hands and for random blocks, at their limits.
-/
namespace Sys2Proof.Machine

/-! ## A wait for a hand (R63) -/

section
variable {s : State} {seat : Fin 8192} {sq : Nat} {g : Flight} {w : Round}

/-- HAND_WAIT_EXPIRY of a descriptor whose hold has ended in round w. -/
theorem execHandWaitExpiry_expired (hn : Names s seat.val sq g (fun h => h.decided.isNone && h.expired.isSome))
    (he : g.expired = some w) (hr : running s = true) : execHandWaitExpiry seat sq s =
      .next (decide_ (releaseFlight s g.seq) seat.val g.seq .handBusy 0 w (isService g.desc.op)) := by
  have hf : flightBySq s seat.val sq (fun h => h.decided.isNone && h.expired.isSome) = some g := hn
  simp [execHandWaitExpiry, hf, he, hr]

/-- A hold that is still on ends in the last of its HAND_WAIT_LIMIT rounds. -/
theorem dropHolds_held {i : Nat} {h : Flight} {r : Round} (hm : h ∈ (getSeat s i).flights) (hf : h.heldFrom = some r)
    (he : h.expired = none) (hh : isHeld s i h = true ∨ haltedHeld s i h = true) :
    { h with expired := if r + s.dealer.waitLim ≤ s.round then some (s.round - 1) else none }
      ∈ (getSeat (dropHolds s i) i).flights := by
  have hb : (isHeld s i h || haltedHeld s i h) = true := by simpa using hh
  rw [dropHolds, getSeat_modFlights]
  refine List.mem_map.2 ⟨h, hm, ?_⟩
  simp [hf, he, hb]

/-! ## A wait for blocks (R192, R243) -/

/-- RNG_WAIT_EXPIRY of a descriptor whose wait has reached its limit. -/
theorem execRngWaitExpiry_flight
    (hn : Names s seat.val sq g (fun h => h.decided.isNone && h.granted.isNone && h.waitFrom.isSome))
    (hw : g.waitFrom = some w) (hl : waitLimit s w ≤ s.round) : execRngWaitExpiry (.flight seat sq) s =
      .next (decide_ s seat.val g.seq .rngUnavailable 0 (waitLimit s w) (decide (g.desc.op ≠ 0x60))) := by
  have hf : flightBySq s seat.val sq (fun h => h.decided.isNone && h.granted.isNone && h.waitFrom.isSome) = some g := hn
  simp [execRngWaitExpiry, hf, hw, hl]

/-- RNG_WAIT_EXPIRY of the request at the head of an engine's queue. -/
theorem execRngWaitExpiry_engine {deck : Fin 16} {tk : Ticket} {rest : List Ticket}
    (hq : (getEngine s deck.val).queue = tk :: rest) (hw : tk.waitFrom = some w) (hl : waitLimit s w ≤ s.round) :
    execRngWaitExpiry (.engine deck) s = .next (decide_
      (setEngine s deck.val
        { getEngine s deck.val with queue := rest, tickets := (getEngine s deck.val).tickets - 1 })
      tk.seat tk.seq .rngUnavailable 0 (waitLimit s w) false) := by
  simp [execRngWaitExpiry, hq, hw, hl, endTicket, modEngine, setEngine_setEngine]

end

/-- Settles O29: what each command decides, and when. -/
theorem waitsExpire : Obligations.WaitsExpire := by
  unfold Obligations.WaitsExpire
  refine fun seat sq deck s g w tk rest => ⟨fun hn he hr => ?_, fun h r => dropHolds_held, fun hn hw hl => ?_,
    fun hq hw hl => ?_⟩
  · exact ⟨_, execHandWaitExpiry_expired hn he hr, decide_ends ..⟩
  · exact ⟨_, execRngWaitExpiry_flight hn hw hl, decide_ends ..⟩
  · exact ⟨_, execRngWaitExpiry_engine hq hw hl, decide_ends ..⟩

end Sys2Proof.Machine
end

section
/-!
PROOFS. The commands of the KEYS block: the erase asked for, the end of the wipe, and the rearm with its blocks.
-/
namespace Sys2Proof.Machine

/-! ## Blocks for a house draw (R60, R74, R243) -/

section
variable {s : State}

/-- Nothing yields while the shoe holds enough. -/
theorem yieldFor_enough {n : Nat} (h : n ≤ s.rng.shoe.length) (k : Nat) : yieldFor n k s = s := by
  cases k with
  | zero => rfl
  | succ k => exact if_pos h

/-- The shoe holds enough: no sheet stands back. -/
theorem houseRoom_enough {n : Nat} (h : n ≤ s.rng.shoe.length) : houseRoom s n = s := yieldFor_enough h _

/-- A sheet of the round of sheet h without its cover refresh. -/
def uncovered (h c : Sheet) : Sheet := if c.round = h.round then { c with refresh := none, seed := [] } else c

/-- The state in which the cover refresh of sheet h has given its blocks back. -/
def coverYields (s : State) (h : Sheet) : State :=
  shoeReturn { s with dealer := { s.dealer with
    refreshAt := h.refresh.getD s.dealer.refreshAt, sheets := s.dealer.sheets.map (uncovered h) } } h.seed

/-- The cover refresh of the round's sheet is the first to yield (R60, R74). -/
theorem yieldLast_refresh {h : Sheet} (hn : newRefresh s = some h) : yieldLast s = coverYields s h := by
  simp only [yieldLast, hn]
  rfl

/-- The shoe is short, and what the cover refresh gives back is enough. -/
theorem houseRoom_refresh {n : Nat} {h : Sheet} (hs : s.rng.shoe.length < n) (hn : newRefresh s = some h)
    (he : n ≤ (h.seed ++ s.rng.shoe).length) : houseRoom s n = coverYields s h := by
  have hk : 1 + s.dealer.grants.length + s.engines.length = s.dealer.grants.length + s.engines.length + 1 := by omega
  rw [houseRoom, hk, yieldFor, if_neg (Nat.not_le.2 hs), yieldLast_refresh hn]
  exact yieldFor_enough he _

/-- Then no cover refresh is left in the sheet. -/
theorem newRefresh_coverYields {h : Sheet} (hn : newRefresh s = some h) : newRefresh (coverYields s h) = none := by
  obtain ⟨hsh, -⟩ := Option.filter_eq_some_iff.1 hn
  have hp : (fun c : Sheet => c.round == s.round + 2) ∘ uncovered h = fun c => c.round == s.round + 2 := by
    funext c
    simp only [Function.comp_apply, uncovered]
    split <;> rfl
  have hc : sheetOf (coverYields s h) (s.round + 2) = some (uncovered h h) := by
    change (s.dealer.sheets.map (uncovered h)).find? (fun c => c.round == s.round + 2) = _
    rw [List.find?_map, hp]
    exact congrArg (Option.map (uncovered h)) hsh
  change (sheetOf (coverYields s h) (s.round + 2)).filter _ = none
  simp [hc, uncovered]

/-- The blocks in the shoe are enough. -/
theorem houseHas_of_shoe {n : Nat} (hr : s.rng.st = .run) (h : n ≤ s.rng.shoe.length) : houseHas s n = true := by
  simp only [houseHas, hr, decide_true, Bool.and_true, decide_eq_true_eq]
  omega

/-- The blocks in the shoe and those of the cover refresh are enough. -/
theorem houseHas_of_refresh {n : Nat} {h : Sheet} (hr : s.rng.st = .run) (hn : newRefresh s = some h)
    (he : n ≤ (h.seed ++ s.rng.shoe).length) : houseHas s n = true := by
  rw [List.length_append] at he
  simp only [houseHas, yieldable, hn, hr, decide_true, Bool.and_true, decide_eq_true_eq, Option.map_some, Option.getD_some]
  omega

end

/-! ## The rearm (R214, R227) -/

section
variable {s : State} {f : Func}

/-- When a rearm is accepted (R227, R396). -/
theorem rearmOk_iff : (rearmOk s && s.aon.rootValid) = true ↔
    s.keys.ready = false ∧ s.keys.wipeLeft = 0 ∧ s.keys.wipeFault = false ∧ s.keys.rearm = none ∧ s.power.phase ≠ 9
      ∧ s.aon.rootValid = true := by
  simp [rearmOk, and_assoc]

/-- The state with a rearm asked for in this round. -/
def rearmAsked (s : State) : State := { s with keys := { s.keys with rearm := some s.round } }

/-- The state in which the rearm has reserved the first three blocks of the shoe in this round. -/
def rearmTaken (s : State) : State :=
  shoeReserve { s with keys := { s.keys with rearmRes := some s.round, rearmBlk := nextBlocks s 3 } } 3

/-- REARM where it is accepted. -/
theorem execRearm_legal (hr : Reaches s f) (hf : f.vf = 0) (hl : (rearmOk s && s.aon.rootValid) = true) :
    execRearm f s = .next (rearmDraw (rearmAsked s)) := by
  rw [execRearm, pfWrite_acts _ _ hr hf]
  exact congrArg Host.Outcome.next (if_pos hl)

/-- REARM where it is not. -/
theorem execRearm_refused (hr : Reaches s f) (hf : f.vf = 0) (hl : ¬(rearmOk s && s.aon.rootValid) = true) :
    execRearm f s = .next (regErr s f 0xB0004) := by
  rw [execRearm, pfWrite_acts _ _ hr hf]
  exact congrArg Host.Outcome.next (if_neg hl)

/-- A draw that cannot be supplied waits. -/
theorem rearmDraw_waits (h : houseHas s 3 = false) : rearmDraw s = s := by
  simp [rearmDraw, h]

/-- A draw that can be supplied reserves its blocks. -/
theorem rearmDraw_taken (ha : s.keys.rearm.isSome = true) (hr : s.keys.rearmRes = none) (h : houseHas s 3 = true)
    (hround : (houseRoom s 3).round = s.round) : rearmDraw s = rearmTaken (houseRoom s 3) := by
  simp only [rearmDraw, ha, hr, h, Option.isNone_none, Bool.and_self, if_true, rearmTaken, hround]

/-- REARM_COMPLETE in a round after the blocks were reserved. -/
theorem execRearmComplete_reserved {r : Round} (hr : s.keys.rearmRes = some r) (hl : r < s.round)
    (hrun : running s = true) : execRearmComplete s = .next { s with keys := { s.keys with
      ready := true, rearm := none, rearmRes := none, rearmBlk := []
      storeKey := some (deriveStoreKey s (blockBytes (s.keys.rearmBlk.take 2)))
      migKey := s.keys.rearmBlk[2]? } } := by
  simp [execRearmComplete, hr, hl, hrun]

/-- WIPE_END once the wipe's rounds are over (R224). -/
theorem execWipeEnd_over (hw : s.keys.wiping = true) (hd : s.keys.wipeAt + 16386 ≤ s.round) :
    execWipeEnd s = .next { s with keys := { s.keys with wiping := false, wipeLeft := 0 } } := by
  simp [execWipeEnd, hw, hd]

end

/-- Settles O41: ZEROISE and REARM by the kind of function, a rearm's draw by where its blocks come from. -/
theorem keyStoreCommands : Obligations.KeyStoreCommands := by
  unfold Obligations.KeyStoreCommands
  refine fun f s r h => ⟨fun hreach hf => ⟨?_, fun hl hres hrng hsh => ?_, fun hl hres hrng hsh hn he => ?_,
      fun hl hres hno => ?_, fun hl => ?_⟩, fun hreach hf => ⟨?_, ?_⟩, fun hw hd => execWipeEnd_over hw hd,
    fun hr hl hrun => ⟨_, execRearmComplete_reserved hr hl hrun, rfl, rfl, rfl, rfl, rfl, rfl, rfl⟩⟩
  · exact congrArg Host.Outcome.next (pfWrite_acts _ _ hreach hf)
  · have hroom : houseRoom (rearmAsked s) 3 = rearmAsked s := houseRoom_enough hsh
    have hdraw := rearmDraw_taken (s := rearmAsked s) rfl hres (houseHas_of_shoe hrng hsh) (by rw [hroom])
    refine ⟨_, execRearm_legal hreach hf (rearmOk_iff.2 hl), ?_⟩
    rw [hdraw, hroom]
    exact ⟨⟨rfl, rfl⟩, rfl, rfl⟩
  · have hroom : houseRoom (rearmAsked s) 3 = coverYields (rearmAsked s) h := houseRoom_refresh hsh hn he
    have hdraw := rearmDraw_taken (s := rearmAsked s) rfl hres (houseHas_of_refresh hrng hn he) (by rw [hroom]; rfl)
    refine ⟨_, execRearm_legal hreach hf (rearmOk_iff.2 hl), ?_⟩
    rw [hdraw, hroom]
    exact ⟨⟨rfl, rfl⟩, newRefresh_coverYields (s := rearmAsked s) hn, rfl, rfl⟩
  · exact (execRearm_legal hreach hf (rearmOk_iff.2 hl)).trans
      (congrArg Host.Outcome.next (rearmDraw_waits (s := rearmAsked s) hno))
  · exact execRearm_refused hreach hf (mt rearmOk_iff.1 hl)
  · exact congrArg Host.Outcome.next (pfWrite_refuses _ _ hreach hf)
  · exact congrArg Host.Outcome.next (pfWrite_refuses _ _ hreach hf)

end Sys2Proof.Machine
end

section
/-!
PROOFS. What the final round of a segment posts, for the opcodes of the lanes and for applets.
-/
namespace Sys2Proof.Machine

/-! ## Words written (R313-R315) -/

/-- A table in which the entries of a list of keys were written with one value. -/
theorem sget_foldl_sput {α : Type} [DecidableEq α] (d v : α) (ks : List Nat) (m : SMap α) (j : Nat) :
    sget d (ks.foldl (fun m k => sput d m k v) m) j = if j ∈ ks then v else sget d m j := by
  induction ks generalizing m with
  | nil => rfl
  | cons k ks ih =>
    rw [List.foldl_cons, ih, sget_sput]
    by_cases hk : j = k <;> simp [hk]

/-- Words that took new check bits. -/
theorem wordsWritten_of_prot {s t : State} {ks : List Nat} (h : t.prot = (freshWords s ks).prot) :
    WordsWritten s t ks := by
  unfold WordsWritten
  rw [h]
  simp only [freshWords, sget_foldl_sput]
  refine ⟨fun k hk => ?_, fun k hk => ?_, trivial⟩ <;> simp [hk]

/-! ## The parts of a final round (R45, R61, R153, R154) -/

section
variable {s : State} {l : Nat} {b : Binding} {f : Status × BitVec 16}

/-- The state with segment b of lane l ended. -/
def postedSeg (s : State) (l : Nat) (b : Binding) : State := modBind s l b fun c => { c with posted := true }

/-- A status posted without a value for a slot is decided in the final round. -/
theorem postStatus_decides (h : b.toHand = none) :
    postStatus s l b f = decide_ (postedSeg s l b) b.seat b.seq f.1 f.2 b.final false := by
  simp [postStatus, h, placeKey, postedSeg]

/-- The end of a descriptor does not hang on the records or on the error logic. -/
theorem Ends.of_records_prot {u t : State} {r : SMap (Option MigRec)} {p : Prot} {i q : Nat} {d : Decided}
    (h : Ends { u with records := r, prot := p } t i q d) : Ends u { t with records := u.records, prot := u.prot } i q d where
  seat := h.seat
  seats := h.seats
  house := h.house
  keys := h.keys
  hands := h.hands
  rest := congrArg (fun x : State => { x with records := u.records, prot := u.prot }) h.rest

/-- The record of a refused segment is all that its refusal changes. -/
theorem refuseRec_frame (s : State) (b : Binding) : ∃ r, refuseRec s b = { s with records := r } := by
  unfold refuseRec
  (repeat' split) <;> exact ⟨_, rfl⟩

/-- A message that closes changes its record alone. -/
theorem closeRec_frame (s : State) (o : Option Nat) : ∃ r, closeRec s o = { s with records := r } := by
  cases o <;> exact ⟨_, rfl⟩

/-- The record of a message that closes is free. -/
theorem getRec_closeRec (s : State) (k : Nat) : getRec (closeRec s (some k)) k = none :=
  getRec_setRec s k none

/-- A record written with its words. -/
theorem setRec_freshWords (s : State) (ks : List Nat) (k : Nat) (x : Option MigRec) : setRec (freshWords s ks) k x =
    { s with records := sput none s.records k x, prot := (freshWords s ks).prot } := rfl

/-- A saved state changes the segment's record, and of the error logic the words it was written to. -/
theorem saveRec_frame (s : State) (b : Binding) (last : Bool) : ∃ r p,
    saveRec s b last = { s with records := r, prot := p }
      ∧ (p = s.prot ∨ ∃ k, b.record = some k ∧ p = (freshWords s (wkeys (recAddr k) 512)).prot) := by
  unfold saveRec
  split
  next k st hk _ =>
    split
    · exact ⟨_, _, setRec_freshWords .., .inr ⟨k, hk, rfl⟩⟩
    · exact ⟨_, _, rfl, .inl rfl⟩
  · exact ⟨_, _, rfl, .inl rfl⟩

/-! ## Each kind of segment in its final round -/

theorem finalSeg_refused (hr : b.refused = some f) : finalSeg s l b = refuseRec (postStatus s l b f) b := by
  simp [finalSeg, hr]

theorem finalSeg_handOff (hr : b.refused = none) (hh : b.handOff = true) : finalSeg s l b = postedSeg s l b := by
  simp [finalSeg, hr, hh, postedSeg]

theorem finalSeg_applet (hr : b.refused = none) (hh : b.handOff = false) (ha : b.applet = true) :
    finalSeg s l b = endApplet s l b := by
  simp [finalSeg, hr, hh, ha]

theorem finalSeg_part (hr : b.refused = none) (hh : b.handOff = false) (ha : b.applet = false)
    (hl : b.seg + 1 ≠ segCount b.desc) : finalSeg s l b = endPart s l b := by
  simp [finalSeg, hr, hh, ha, Binding.lastOf, hl]

theorem finalSeg_last (hr : b.refused = none) (hh : b.handOff = false) (ha : b.applet = false)
    (hl : b.seg + 1 = segCount b.desc) : finalSeg s l b = endLast s l b := by
  simp [finalSeg, hr, hh, ha, Binding.lastOf, hl]

/-- A refused segment (R61, R154). -/
theorem finalSeg_refused_ends (ht : b.toHand = none) (hr : b.refused = some f) : ∃ v,
    Ends (postedSeg s l b) v b.seat b.seq ⟨f.1, f.2, b.final, false⟩
      ∧ { finalSeg s l b with records := s.records } = { v with records := s.records } := by
  obtain ⟨r, h⟩ := refuseRec_frame (postStatus s l b f) b
  rw [finalSeg_refused hr, h, postStatus_decides ht]
  exact ⟨_, decide_ends .., rfl⟩

/-- A segment that is not the last of its descriptor (R153). -/
theorem endPart_effect (s : State) (l : Nat) (b : Binding) :
    let t := endPart s l b
    getSeat t b.seat = { getSeat s b.seat with flights := (getSeat s b.seat).flights.map fun g =>
        if g.seq = b.seq then { g with running := false, dealFrom := b.final + 2, outPos := b.outBase + b.out.length }
        else g }
      ∧ { t with seats := s.seats, records := s.records, prot := s.prot } =
        { postedSeg s l b with seats := s.seats, records := s.records }
      ∧ (t.prot = s.prot ∨ ∃ k, b.record = some k ∧ WordsWritten s t (wkeys (recAddr k) 512)) := by
  obtain ⟨r, p, h, hp⟩ := saveRec_frame (postedSeg s l b) b false
  change saveRec (modBind s l b fun c => { c with posted := true }) b false = _ at h
  simp only [endPart, h]
  refine ⟨getSeat_modFlight .., rfl, hp.imp id ?_⟩
  rintro ⟨k, hk, hw⟩
  exact ⟨k, hk, wordsWritten_of_prot (s := s) hw⟩

/-- The last segment of its descriptor posts its outcome; a message that closes leaves its record free, another one is
saved (R61, R153). -/
theorem endLast_ends (ht : b.toHand = none) (ho : b.outcome = some f) : ∃ v,
    let t := endLast s l b
    Ends (postedSeg s l b) v b.seat b.seq ⟨f.1, f.2, b.final, false⟩
      ∧ { t with records := s.records, prot := s.prot } = { v with records := s.records }
      ∧ (t.prot = s.prot ∨ ∃ k, b.record = some k ∧ WordsWritten s t (wkeys (recAddr k) 512))
      ∧ (b.role.closes = true → ∀ k, b.record = some k → getRec t k = none) := by
  cases hc : b.role.closes with
  | true =>
    have hend : endLast s l b = closeRec (postStatus s l b f) b.record := by simp [endLast, ho, hc]
    have hprot : (postStatus s l b f).prot = s.prot := by
      rw [postStatus_decides ht]
      exact decide__prot ..
    obtain ⟨r, hclose⟩ := closeRec_frame (postStatus s l b f) b.record
    refine ⟨postStatus s l b f, ?_⟩
    rw [hend]
    refine ⟨?_, ?_, .inl ?_, fun _ k hk => hk ▸ getRec_closeRec _ k⟩
    · rw [postStatus_decides ht]
      exact decide_ends ..
    · rw [hclose, ← hprot]
    · rw [hclose]
      exact hprot
  | false =>
    obtain ⟨r, p, hsave, hp⟩ := saveRec_frame s b true
    have hend : endLast s l b =
        decide_ { postedSeg s l b with records := r, prot := p } b.seat b.seq f.1 f.2 b.final false := by
      simp only [endLast, ho, Option.getD_some, hc, Bool.false_eq_true, if_false, postStatus_decides ht, hsave]
      rfl
    have hprot : (endLast s l b).prot = p := by
      rw [hend]
      exact decide__prot ..
    have hends : Ends { postedSeg s l b with records := r, prot := p } (endLast s l b) b.seat b.seq
        ⟨f.1, f.2, b.final, false⟩ := by
      rw [hend]
      exact decide_ends ..
    refine ⟨_, hends.of_records_prot, rfl, hp.imp hprot.trans ?_, nofun⟩
    rintro ⟨k, hk, hw⟩
    exact ⟨k, hk, wordsWritten_of_prot (hprot.trans hw)⟩

/-! ## Applets (R142, R156, R203) -/

/-- The status an applet posts: its outcome where the kernel took the core, else what RESULT held. -/
theorem applet_status (h : b.outcome = some f ∨ (b.outcome = none ∧ f = (Status.ofCode (fld (getLane s l).resultAt 31 24),
    BitVec.ofNat 16 (fld (getLane s l).resultAt 15 0)))) : b.outcome.getD (resultStatus (getLane s l)) = f := by
  rcases h with h | ⟨h, rfl⟩ <;> simp [h, resultStatus]

/-- An applet with no request to issue posts its status. -/
theorem endApplet_posts (hf : b.outcome.getD (resultStatus (getLane s l)) = f)
    (hg : (getLane s l).pkrAt.go = false ∨ f.1 ≠ .done) : endApplet s l b = postStatus s l b f := by
  simp only [endApplet, hf]
  refine if_neg ?_
  rintro ⟨hgo, hdone⟩
  rcases hg with hg | hg
  · rw [hg] at hgo
    cases hgo
  · exact hg hdone

/-- An applet that ends DONE with GO at 1 issues the request in its window (R203). -/
theorem endApplet_issues (hf : b.outcome.getD (resultStatus (getLane s l)) = f) (hg : (getLane s l).pkrAt.go = true)
    (hd : f.1 = .done) (hr : rawFails s b (getLane s l).pkrAt = []) : endApplet s l b =
      modBind (issueTicket s l b (some (getLane s l).pkrAt) []) l b fun c => { c with posted := true } := by
  simp [endApplet, hf, hg, hd, hr, worst]

end

/-! ## The two commands -/

section
variable {s : State} {lane : Fin 128} {b : Binding}

/-- SEGMENT_FINAL_ROUND of the oldest segment in its final round, once its effect is worked out. -/
theorem execSegmentFinalRound_found
    (hb : (getLane s lane.val).binds.find? (fun c => !c.posted && decide (c.final ≤ s.round)) = some b)
    (h : b.played = true ∨ b.refused.isSome = true ∨ b.handOff = true) :
    execSegmentFinalRound lane s = .next (finalSeg s lane.val b) := by
  have hc : (b.played || b.refused.isSome || b.handOff || b.applet) = true := by
    rcases h with h | h | h <;> simp [h]
  simp [execSegmentFinalRound, hb, hc]

/-- APPLET of the oldest applet segment that has begun. -/
theorem execApplet_found (hb : (getLane s lane.val).binds.find?
      (fun c => !c.posted && c.applet && c.loaded && c.refused.isNone && decide (c.first ≤ s.round)) = some b) :
    execApplet lane s = .next (if b.final ≤ s.round then finalSeg s lane.val b
      else modBind s lane.val b fun c => { c with played := true }) := by
  simp only [execApplet, hb]
  exact (apply_ite Host.Outcome.next _ _ _).symm

end

/-- Settles O30: each kind of segment by its rule in finalSeg. -/
theorem segmentsEnd : Obligations.SegmentsEnd := by
  unfold Obligations.SegmentsEnd
  refine ⟨fun lane s b f => ?_, fun lane s b f => ?_⟩
  · intro l u hb ht
    refine ⟨fun hr => ?_, fun hr hh => ?_, fun hr hh ha hp hs => ?_, fun hr hh ha hp hs ho => ?_⟩
    · obtain ⟨v, hv, hrest⟩ := finalSeg_refused_ends (s := s) (l := l) ht hr
      exact ⟨_, v, execSegmentFinalRound_found hb (.inr (.inl (by rw [hr]; rfl))), hv, hrest⟩
    · exact (execSegmentFinalRound_found hb (.inr (.inr hh))).trans (congrArg _ (finalSeg_handOff hr hh))
    · exact ⟨_, (execSegmentFinalRound_found hb (.inl hp)).trans (congrArg _ (finalSeg_part hr hh ha hs)),
        endPart_effect s l b⟩
    · obtain ⟨v, hv⟩ := endLast_ends (s := s) (l := l) ht ho
      exact ⟨_, v, (execSegmentFinalRound_found hb (.inl hp)).trans (congrArg _ (finalSeg_last hr hh ha hs)), hv⟩
  · intro l ln u hb ht
    have hex := execApplet_found hb
    obtain ⟨⟨⟨⟨-, ha⟩, -⟩, hr⟩, -⟩ : (((b.posted = false ∧ b.applet = true) ∧ b.loaded = true) ∧ b.refused = none)
        ∧ b.first ≤ s.round := by simpa using List.find?_some hb
    refine ⟨fun hlt => ?_, fun hle hh ho => ?_, fun hle hh => ?_⟩
    · exact hex.trans (by rw [if_neg (Nat.not_le.2 hlt)])
    · have hf := applet_status ho
      rw [if_pos hle, finalSeg_applet hr hh ha] at hex
      refine ⟨fun hg => ?_, fun hg hd hw => ?_⟩
      · rw [endApplet_posts hf hg, postStatus_decides ht] at hex
        exact ⟨_, hex, decide_ends ..⟩
      · exact hex.trans (congrArg _ (endApplet_issues hf hg hd hw))
    · rw [if_pos hle, finalSeg_handOff hr hh] at hex
      exact hex

end Sys2Proof.Machine
end

section
/-!
PROOFS. What a SEAT_CTRL write asks for, and what the next round makes of it.
-/
namespace Sys2Proof.Machine

/-! ## SEAT_CTRL written (R83, R88, R90) -/

section
variable {s : State} {f : Func} {i : Nat} {v : Word} {rows : List SeatState}

/-- A function on the same port and link. -/
theorem plKey_eq_iff {g : Func} : plKey f = plKey g ↔ f.port = g.port ∧ f.link = g.link := by
  obtain ⟨⟨p, hp⟩, ⟨l, hl⟩, -⟩ := f
  obtain ⟨⟨q, hq⟩, ⟨m, hm⟩, -⟩ := g
  simp only [plKey, Fin.mk.injEq]
  omega

/-- Who may give FORCE_HALT (R88, R111). -/
theorem mayForce_iff : mayForce s f i = true ↔
    f.vf = 0 ∧ f.port = (getSeat s i).bind.port ∧ f.link = (getSeat s i).bind.link := by
  simp [mayForce, isPf, plKey_eq_iff]

/-- A write with the rights of R88 waits for the next round. -/
theorem seatCtrlRows_asks (h : (if bit v 31 then mayForce s f i else boundTo s i f) = true) :
    seatCtrlRows s f i v rows = seatAsks s i v rows := if_pos h

/-- A write without them is discarded. -/
theorem seatCtrlRows_refused (h : ¬(if bit v 31 then mayForce s f i else boundTo s i f) = true) :
    seatCtrlRows s f i v rows = regErr s f (seatOff i 0x1C) := if_neg h

/-- A command that stands for one field, from the function that the seat is bound to. -/
theorem seatCtrlCmd_asks (hv : bit v 31 = false) (h : Commands s f i) :
    seatCtrlCmd s f i v rows = seatAsks s i v rows :=
  (barWrite_reaches _ _ h.1).trans (seatCtrlRows_asks (by rw [hv]; exact h.2))

/-- One from any other function. -/
theorem seatCtrlCmd_refused (hv : bit v 31 = false) (h : Reaches s f) (hb : boundTo s i f = false) :
    seatCtrlCmd s f i v rows = regErr s f (seatOff i 0x1C) :=
  (barWrite_reaches _ _ h).trans (seatCtrlRows_refused (by simp [hv, hb]))

/-- A write that waits changes no state of the seat in its own round. -/
theorem seatState_seatAsks :
    seatState (seatAsks s i v rows) (getSeat (seatAsks s i v rows) i) = seatState s (getSeat s i) := by
  simp [seatAsks, seatState]

end

/-! ## A seat that halts (R111) -/

section
variable (s : State) (i : Nat) (c : HaltCause) (idx : Option Nat)

/-- A message of a seat leaves all of it but the count and the timer. -/
theorem getSeat_seatMsi : ∃ n o, getSeat (seatMsi s i) i = { getSeat s i with unsig := n, oldest := o } := by
  unfold seatMsi
  dsimp only
  split
  · refine ⟨0, none, ?_⟩
    rw [getSeat, sendMsi_seats]
    exact getSeat_setSeat ..
  · exact ⟨_, _, rfl⟩

/-- A seat that has halted. -/
theorem getSeat_enterHalt : ∃ n o, getSeat (enterHalt s i c idx) i = { getSeat s i with
    st := .halted, prevSt := .halted, stFrom := s.round, haltAt := s.round, cause := c
    idxValid := idx.isSome, haltIdx := idx.getD 0, unsig := n, oldest := o } := by
  obtain ⟨n, o, h⟩ := getSeat_seatMsi (modSeat s i fun x =>
    { x with
      st := .halted, prevSt := .halted, stFrom := s.round, haltAt := s.round, cause := c
      idxValid := idx.isSome, haltIdx := idx.getD 0 }) i
  refine ⟨n, o, ?_⟩
  rw [enterHalt, getSeat, raiseAll_seats]
  exact h.trans (by rw [getSeat_modSeat])

/-- Its state is HALTED at once. -/
theorem seatState_enterHalt : seatState (enterHalt s i c idx) (getSeat (enterHalt s i c idx) i) = .halted := by
  obtain ⟨n, o, h⟩ := getSeat_enterHalt s i c idx
  simp [h, seatState]

end

/-! ## The rows of the table (R90) -/

section
variable {s : State} {i : Nat}

/-- When ARM takes a seat to ARMED. -/
theorem armLegal_iff {x : Seat} : (ringLegal x && armSuitOk x && decide (s.power.phase ≠ 9)) = true ↔ ArmLegal s x := by
  simp [ringLegal, armSuitOk, ArmLegal, isPf, and_assoc]

/-- ARM of a seat that may be armed. -/
theorem armSeat_legal {x : Seat} (h : ArmLegal s x) : armSeat s x = nextState s
    { x with sqHead := 0, sqTail := 0, cqHead := 0, cqTail := 0, cqSeen := 0, phase := true, cfgErr := false } .armed :=
  if_pos (armLegal_iff.2 h)

/-- ARM of one that may not. -/
theorem armSeat_illegal {x : Seat} (h : ¬ArmLegal s x) : armSeat s x = { x with cfgErr := true } :=
  if_neg (mt armLegal_iff.1 h)

theorem seatAct_armOff (h : seatState s (getSeat s i) = .off) : seatAct s i 1 = setSeat s i (armSeat s (getSeat s i)) := by
  simp [seatAct, bit, h]

theorem seatAct_disarm (h : seatState s (getSeat s i) = .armed) :
    seatAct s i 0 = setSeat s i (nextState s (getSeat s i) .off) := by
  simp [seatAct, bit, h]

theorem seatAct_enableArmed (h : seatState s (getSeat s i) = .armed) (hs : standbyHold s = false) :
    seatAct s i 3 = setSeat s i (nextState s (getSeat s i) .run) := by
  simp [seatAct, bit, h, hs]

theorem seatAct_enableDraining (h : seatState s (getSeat s i) = .draining) :
    seatAct s i 3 = setSeat s i { getSeat s i with pend := true } := by
  simp [seatAct, bit, h]

theorem seatAct_drainRun (h : seatState s (getSeat s i) = .run) :
    seatAct s i 1 = setSeat s i (nextState s (getSeat s i) .draining) := by
  simp [seatAct, bit, h]

theorem seatAct_drainDraining (h : seatState s (getSeat s i) = .draining) :
    seatAct s i 1 = setSeat s i { getSeat s i with pend := false } := by
  simp [seatAct, bit, h]

theorem seatAct_clearHalt (h : seatState s (getSeat s i) = .halted) : seatAct s i 4 =
    if (getSeat s i).flights = [] then setSeat s i (nextState s (getSeat s i) .armed)
    else regErr s (getSeat s i).bind (seatOff i 0x1C) := by
  simp [seatAct, bit, h]

theorem seatAct_forceHalt : seatAct s i 0x80000000 =
    if seatState s (getSeat s i) = .run ∨ seatState s (getSeat s i) = .draining then enterHalt s i .forced none else s := by
  simp [seatAct, bit]

/-- Whatever a write makes of its seat, it leaves the others. -/
theorem getSeat_seatAct_ne {j : Nat} (v : Word) (h : j ≠ i) : getSeat (seatAct s i v) j = getSeat s j := by
  have hset : ∀ x, getSeat (setSeat s i x) j = getSeat s j := fun x => getSeat_setSeat_ne s x h
  have herr : ∀ g off, getSeat (regErr s g off) j = getSeat s j := fun g off => by simp [getSeat]
  have hhalt := getSeat_enterHalt_ne (s := s) .forced none h
  unfold seatAct
  dsimp only
  (repeat' split) <;> simp only [hset, herr, hhalt]

end

/-! ## The turn of a lone write (R76, R90) -/

section
variable {s : State} {i : Nat} {v : Word} {rows : List SeatState}

/-- The state with the write of seat i taken off its list. -/
def ctrlTaken (s : State) (i : Nat) : State := setSeat s i { getSeat s i with ctrl := [] }

theorem getSeat_ctrlTaken : getSeat (ctrlTaken s i) i = { getSeat s i with ctrl := [] } := getSeat_setSeat ..

theorem seatState_ctrlTaken : seatState (ctrlTaken s i) (getSeat (ctrlTaken s i) i) =
    seatState s { getSeat s i with ctrl := [] } := by rw [getSeat_ctrlTaken]; rfl

/-- A lone write acts when its rows name the seat's state. -/
theorem ctrlTurn_write (h : (getSeat s i).ctrl = [.write v rows]) : ctrlTurn s i =
    if seatState s { getSeat s i with ctrl := [] } ∈ rows then seatAct (ctrlTaken s i) i v else ctrlTaken s i := by
  rw [← seatState_ctrlTaken]
  simp [ctrlTurn, h, seatMove, ctrlTaken]

/-- A write of the seat after the write was taken off its list. -/
theorem setSeat_ctrlTaken (x : Seat) : setSeat (ctrlTaken s i) i x = setSeat s i x := setSeat_setSeat ..

/-- A seat that moves on in its turn. -/
theorem setSeat_nextState (x : Seat) (st : SeatState) (hs : seatState s x = seatState s (getSeat s i)) :
    setSeat (ctrlTaken s i) i (nextState (ctrlTaken s i) x st) = seatMoves s i x st := by
  rw [setSeat_ctrlTaken, seatMoves, ← hs]
  rfl

end

/-- Settles O19: a write by the rights of R88, its turn by the rows of seatAct, a halt by getSeat_enterHalt. -/
theorem seatTransitions : Obligations.SeatTransitions := by
  unfold Obligations.SeatTransitions
  refine ⟨fun f seat s => ⟨fun h => ?_, fun h hf hp hl => ?_, fun h hn => ?_, fun v rows => ?_⟩, fun s i v rows hc => ?_,
    fun s i x st => ?_⟩
  · exact ⟨congrArg _ (seatCtrlCmd_asks rfl h), congrArg _ (seatCtrlCmd_asks rfl h), congrArg _ (seatCtrlCmd_asks rfl h),
      congrArg _ (seatCtrlCmd_asks rfl h), congrArg _ (seatCtrlCmd_asks rfl h)⟩
  · exact congrArg Host.Outcome.next ((barWrite_reaches _ _ h).trans (seatCtrlRows_asks (mayForce_iff.2 ⟨hf, hp, hl⟩)))
  · exact congrArg Host.Outcome.next ((barWrite_reaches _ _ h).trans (seatCtrlRows_refused (mt mayForce_iff.1 hn)))
  · exact ⟨seatState_seatAsks, fun j hj => getSeat_setSeat_ne s _ hj⟩
  · intro x st t
    have ht := ctrlTurn_write hc
    have hst : seatState (ctrlTaken s i) (getSeat (ctrlTaken s i) i) = st := seatState_ctrlTaken
    have acts (h : st ∈ rows) : t = seatAct (ctrlTaken s i) i v := ht.trans (if_pos h)
    have moves (y : Seat) (w : SeatState) (hy : seatState s y = st) :
        setSeat (ctrlTaken s i) i (nextState (ctrlTaken s i) y w) = seatMoves s i y w := setSeat_nextState y w hy
    refine ⟨?_, ?_, ?_, ?_, ?_, ?_, ?_, ?_, ?_, ?_, ?_, ?_, ?_⟩
    · rintro rfl rfl h hl
      rw [acts (by simp [h]), seatAct_armOff (hst.trans h), getSeat_ctrlTaken, armSeat_legal (s := ctrlTaken s i) hl]
      exact moves _ _ rfl
    · rintro rfl rfl h hl
      rw [acts (by simp [h]), seatAct_armOff (hst.trans h), getSeat_ctrlTaken, armSeat_illegal (s := ctrlTaken s i) hl, setSeat_ctrlTaken]
    · rintro rfl rfl h
      rw [acts (by simp [h]), seatAct_disarm (hst.trans h), getSeat_ctrlTaken]
      exact moves _ _ rfl
    · rintro rfl rfl h hs
      rw [acts (by simp [h]), seatAct_enableArmed (hst.trans h) hs, getSeat_ctrlTaken]
      exact moves _ _ rfl
    · rintro rfl rfl h
      rw [acts (by simp [h]), seatAct_enableDraining (hst.trans h), getSeat_ctrlTaken, setSeat_ctrlTaken]
    · rintro rfl rfl h
      rw [acts (by simp [h]), seatAct_drainRun (hst.trans h), getSeat_ctrlTaken]
      exact moves _ _ rfl
    · rintro rfl rfl h
      rw [acts (by simp [h]), seatAct_drainDraining (hst.trans h), getSeat_ctrlTaken, setSeat_ctrlTaken]
    · rintro rfl rfl h hf
      rw [acts (by simp [h]), seatAct_clearHalt (hst.trans h), getSeat_ctrlTaken, if_pos hf]
      exact moves _ _ rfl
    · rintro rfl rfl h hf
      rw [acts (by simp [h]), seatAct_clearHalt (hst.trans h), getSeat_ctrlTaken, if_neg hf]
      rfl
    · rintro rfl hr h
      rw [acts hr, seatAct_forceHalt, hst, if_pos h]
      rfl
    · rintro rfl h1 h2
      by_cases hr : st ∈ rows
      · rw [acts hr, seatAct_forceHalt, hst, if_neg (by simp [h1, h2])]
        rfl
      · exact ht.trans (if_neg hr)
    · exact fun hr => ht.trans (if_neg hr)
    · intro j hj
      have hsame : getSeat (ctrlTaken s i) j = getSeat s j := getSeat_setSeat_ne s _ hj
      change getSeat (ctrlTurn s i) j = _
      rw [ht]
      split
      · rw [getSeat_seatAct_ne v hj, hsame]
      · exact hsame
  · obtain ⟨n, o, hh⟩ := getSeat_enterHalt s i .forced none
    exact ⟨by simp [seatMoves, seatState], seatState_enterHalt s i .forced none, by rw [hh], by rw [hh]⟩

end Sys2Proof.Machine
end

section
/-!
PROOFS. The binding of a seat, its interrupt configuration, and doorbells.
-/
namespace Sys2Proof.Machine

/-! ## Writes of a seat's context (R83, R87, R88) -/

section
variable {s : State} {f : Func} {i : Nat}

/-- A function that does not reach the device writes nothing (R83). -/
theorem barWrite_unreached (off : Nat) (act : State → State) (h : hostOk s f = false) : barWrite s f off act = s := by
  simp [barWrite, h]

/-- A write of the context of a seat bound to another function (R88). -/
theorem seatWrite_refused (reg : Nat) (act : State → State) (h : Reaches s f) (hb : boundTo s i f = false) :
    seatWrite s f i reg act = regErr s f (seatOff i reg) := by
  rw [seatWrite, barWrite_reaches _ _ h]
  simp [hb]

/-- One of a seat of its own. -/
theorem seatWrite_acts (reg : Nat) (act : State → State) (h : Reaches s f) (hb : boundTo s i f = true) :
    seatWrite s f i reg act = act s := by
  rw [seatWrite, barWrite_reaches _ _ h]
  simp [hb]

/-- Who may rebind a seat (R87). -/
theorem mayBind_iff : (isPf f && decide (plKey f = plKey (getSeat s i).bind)
      && decide (seatState s (getSeat s i) = .off)) = true ↔
    f.vf = 0 ∧ f.port = (getSeat s i).bind.port ∧ f.link = (getSeat s i).bind.link
      ∧ seatState s (getSeat s i) = .off := by
  simp [isPf, plKey_eq_iff, and_assoc]

/-- SEAT_BIND of an OFF seat of the function's own port and link. -/
theorem seatBindWrite_binds (v : Word) (h : f.vf = 0 ∧ f.port = (getSeat s i).bind.port
      ∧ f.link = (getSeat s i).bind.link ∧ seatState s (getSeat s i) = .off) :
    seatBindWrite s f i v = setSeat s i { getSeat s i with bind := funcOf (v.toNat % 1024) } := by
  have hv : fld v 9 0 = v.toNat % 1024 := by simp [fld, bits]
  rw [← hv]
  exact if_pos (mayBind_iff.2 h)

/-- Any other write of SEAT_BIND. -/
theorem seatBindWrite_refused (v : Word) (h : ¬(f.vf = 0 ∧ f.port = (getSeat s i).bind.port
      ∧ f.link = (getSeat s i).bind.link ∧ seatState s (getSeat s i) = .off)) :
    seatBindWrite s f i v = regErr s f (bindOff i) := if_neg (mt mayBind_iff.1 h)

end

/-! ## Values in force from a later round (R110) -/

section
variable {α : Type} (d : Deferred α) (r : Round) (v : α)

/-- A value written for the next round is not in force in its own. -/
theorem Deferred.at_put_now : (d.put r (r + 1) v).at_ r = d.at_ r := if_pos (Nat.lt_succ_self r)

/-- It is in the next. -/
theorem Deferred.at_put_next : (d.put r (r + 1) v).at_ (r + 1) = v := if_neg (Nat.lt_irrefl _)

end

/-- A COUNT of 0 stores 1 (R110). -/
theorem irqCount_ofWord (v : Word) : (if BitVec.ofNat 8 (fld v 7 0) = 0 then (1 : BitVec 8) else BitVec.ofNat 8 (fld v 7 0)) =
    if v.toNat % 256 = 0 then 1 else BitVec.ofNat 8 v.toNat := by
  have hv : fld v 7 0 = v.toNat % 256 := by simp [fld, bits]
  have hb : BitVec.ofNat 8 (v.toNat % 256) = BitVec.ofNat 8 v.toNat :=
    BitVec.eq_of_toNat_eq (by simp)
  have hz : BitVec.ofNat 8 v.toNat = 0 ↔ v.toNat % 256 = 0 := by
    rw [← BitVec.toNat_inj, BitVec.toNat_ofNat]
    rfl
  simp only [hv, hb, hz]

/-- The vector of IRQ_CFG. -/
theorem irqVec_ofWord (v : Word) : BitVec.ofNat 11 (fld v 26 16) = BitVec.ofNat 11 (v.toNat / 65536) :=
  BitVec.eq_of_toNat_eq (by simp [fld, bits])

/-- IRQ_CFG of a seat: nothing but the seat changes, and when its fields are in force (R89, R110). -/
theorem irqCfgWrite_spec (s : State) (i : Nat) (v : Word) :
    let t := irqCfgWrite s i v
    t = setSeat s i (getSeat t i)
      ∧ (getSeat t i).irqEn.at_ s.round = (getSeat s i).irqEn.at_ s.round
      ∧ (getSeat t i).irqEn.at_ (s.round + 1) = v.getLsbD 31
      ∧ (getSeat t i).irqVec.at_ (s.round + 1) = BitVec.ofNat 11 (v.toNat / 65536)
      ∧ (getSeat t i).irqCount.at_ (s.round + 1) = (if v.toNat % 256 = 0 then 1 else BitVec.ofNat 8 v.toNat) := by
  simp only [irqCfgWrite, getSeat_modSeat, Deferred.at_put_now, Deferred.at_put_next, irqVec_ofWord, irqCount_ofWord]
  exact ⟨rfl, trivial, rfl, trivial, trivial⟩

/-- Settles O20: each write by whether its function reaches the device and may write the seat. -/
theorem seatBinding : Obligations.SeatBinding := by
  unfold Obligations.SeatBinding
  refine ⟨fun f seat v s => ⟨fun c hc hr hb => ?_, fun c hc hn => ?_⟩, fun f seat v s hr => ⟨fun h => ?_, fun h => ?_,
    fun hb => ?_⟩⟩
  · have refused (w : Word) (rows : List SeatState) (hw : bit w 31 = false) :
        Host.Outcome.next (seatCtrlCmd s f seat.val w rows) = (.next (regErr s f (seatOff seat.val 0x1C)) : Out) :=
      congrArg _ (seatCtrlCmd_refused hw hr hb)
    simp only [List.mem_cons, List.not_mem_nil, or_false] at hc
    rcases hc with rfl | rfl | rfl | rfl | rfl | rfl
    · exact refused 1 _ rfl
    · exact refused 0 _ rfl
    · exact refused 3 _ rfl
    · exact refused 1 _ rfl
    · exact refused 4 _ rfl
    · exact congrArg Host.Outcome.next (seatWrite_refused _ _ hr hb)
  · have same (off : Nat) (act : State → State) : Host.Outcome.next (barWrite s f off act) = (.next s : Out) :=
      congrArg _ (barWrite_unreached off act hn)
    simp only [List.mem_cons, List.not_mem_nil, or_false] at hc
    rcases hc with rfl | rfl | rfl | rfl | rfl | rfl <;> exact same _ _
  · exact congrArg Host.Outcome.next ((barWrite_reaches _ _ hr).trans (seatBindWrite_binds v h))
  · exact congrArg Host.Outcome.next ((barWrite_reaches _ _ hr).trans (seatBindWrite_refused v h))
  · exact ⟨_, congrArg Host.Outcome.next (seatWrite_acts _ _ hr hb), irqCfgWrite_spec s seat.val v⟩

/-! ## Doorbells (R99-R101) -/

section
variable {s : State} {f : Func}

/-- A doorbell that R100 discards changes no seat and is counted. -/
theorem discardDoorbell_spec (s : State) (f : Func) :
    sget 0 (discardDoorbell s f).cnt.dbDiscard (fkey f) = satAdd (sget 0 s.cnt.dbDiscard (fkey f)) 1
      ∧ bit (getIrq (discardDoorbell s f) (plKey f)).status 30 = true :=
  ⟨by simp [discardDoorbell, supd], raiseIrq_on _ _ _ _ (by decide)⟩

/-- The doorbells that R100 discards. -/
theorem execDoorbell_discarded {off : Nat} {data : Bytes} (ho : hostOk s f = true)
    (h : data.length ≠ 8 ∨ off % 8 ≠ 0 ∨ bits (leNat data) 44 32 ≠ off / 8 ∨ bits (leNat data) 61 45 ≠ 0
      ∨ boundTo s (off / 8) f = false ∨ seatState s (getSeat s (off / 8)) = .off) :
    execDoorbell f off data s = .next (discardDoorbell s f) := by
  simp only [execDoorbell, ho, Bool.not_true, Bool.false_eq_true, if_false]
  split
  · rfl
  · refine if_pos ?_
    rw [Bool.or_eq_true, Bool.not_eq_true', decide_eq_true_eq]
    tauto

/-- The others. -/
theorem execDoorbell_rings {off : Nat} {data : Bytes} (ho : hostOk s f = true)
    (hl : data.length = 8) (ha : off % 8 = 0) (hs : bits (leNat data) 44 32 = off / 8) (hz : bits (leNat data) 61 45 = 0)
    (hb : boundTo s (off / 8) f = true) (hst : seatState s (getSeat s (off / 8)) ≠ .off) :
    execDoorbell f off data s = .next (ringDoorbell s f (off / 8) (leNat data)) := by
  simp [execDoorbell, ho, hl, ha, hs, hz, hb, hst]

/-- A legal SQ_TAIL (R101). -/
theorem sqLegal_iff {x : Seat} {n : Nat} : sqLegal x n = true ↔ n < 2 ^ x.sqLog2.toNat
    ∧ (x.sqTail + 2 ^ x.sqLog2.toNat - x.sqHead) % 2 ^ x.sqLog2.toNat
      + (n + 2 ^ x.sqLog2.toNat - x.sqTail) % 2 ^ x.sqLog2.toNat ≤ 2 ^ x.sqLog2.toNat - 1 := by
  simp only [sqLegal, Bool.and_eq_true]
  exact and_congr decide_eq_true_iff decide_eq_true_iff

/-- A legal CQ_HEAD (R101). -/
theorem cqLegal_iff {x : Seat} {m : Nat} : cqLegal x m = true ↔ m < 2 ^ x.cqLog2.toNat
    ∧ (m + 2 ^ x.cqLog2.toNat - x.cqHead) % 2 ^ x.cqLog2.toNat
      ≤ (x.cqTail + 2 ^ x.cqLog2.toNat - x.cqHead) % 2 ^ x.cqLog2.toNat := by
  simp only [cqLegal, Bool.and_eq_true]
  exact and_congr decide_eq_true_iff decide_eq_true_iff

/-- A doorbell carries no SQ_TAIL but a legal one, and no CQ_HEAD but a legal one (R101). -/
def carriesLegal (x : Seat) (v : Nat) : Prop :=
  (bits v 63 63 = 1 → sqLegal x (bits v 15 0) = true) ∧ (bits v 62 62 = 1 → cqLegal x (bits v 31 16) = true)

variable {i v : Nat}

theorem carriesLegal_iff {x : Seat} : carriesLegal x v ↔
    (decide (bits v 63 63 = 1) && !sqLegal x (bits v 15 0) || decide (bits v 62 62 = 1) && !cqLegal x (bits v 31 16)) = false := by
  simp [carriesLegal]

/-- Within R101 a doorbell moves the indices it carries. -/
theorem ringDoorbell_moves (h : carriesLegal (getSeat s i) v) : ringDoorbell s f i v = setSeat s i { getSeat s i with
    sqTail := if bits v 63 63 = 1 then bits v 15 0 else (getSeat s i).sqTail
    cqHead := if bits v 62 62 = 1 then bits v 31 16 else (getSeat s i).cqHead } := by
  simp only [ringDoorbell, carriesLegal_iff.1 h, Bool.false_eq_true, if_false]

/-- Beyond it, it is discarded in ARMED and HALTED. -/
theorem ringDoorbell_discarded (h : ¬carriesLegal (getSeat s i) v)
    (hst : seatState s (getSeat s i) = .armed ∨ seatState s (getSeat s i) = .halted) :
    ringDoorbell s f i v = discardDoorbell s f := by
  rw [carriesLegal_iff, Bool.not_eq_false] at h
  simp only [ringDoorbell, h, if_true, hst]

/-- Beyond it, a seat in RUN or DRAINING halts. -/
theorem ringDoorbell_halts (h : ¬carriesLegal (getSeat s i) v)
    (hst : seatState s (getSeat s i) = .run ∨ seatState s (getSeat s i) = .draining) : ringDoorbell s f i v =
      enterHalt s i (if bits v 63 63 = 1 ∧ ¬sqLegal (getSeat s i) (bits v 15 0) = true then .sqDoorbell else .cqDoorbell)
        none := by
  rw [carriesLegal_iff, Bool.not_eq_false] at h
  have hn : ¬(seatState s (getSeat s i) = .armed ∨ seatState s (getSeat s i) = .halted) := by
    rcases hst with h | h <;> simp [h]
  simp only [ringDoorbell, h, if_true, hn, if_false, Bool.and_eq_true, decide_eq_true_eq, Bool.not_eq_true',
    Bool.not_eq_true]

end

/-- Settles O21: a doorbell by whether R100 discards it, and then by R101. -/
theorem doorbells : Obligations.Doorbells := by
  unfold Obligations.Doorbells
  refine ⟨fun f off data s => ?_, fun f off data s => ?_⟩
  · intro v i x sqv cqv n m sz cz sqOk cqOk ho hl ha hs hz hb hst
    have hex := execDoorbell_rings ho hl ha hs hz hb hst
    have hsq : sqLegal x n = true ↔ sqOk := sqLegal_iff
    have hc : carriesLegal x v ↔ (sqv → sqOk) ∧ (cqv → cqOk) :=
      and_congr (imp_congr_right fun _ => hsq) (imp_congr_right fun _ => cqLegal_iff)
    refine ⟨fun hq hm => ?_, fun hn hd => ?_, fun hn hr => ?_⟩
    · exact hex.trans (congrArg _ (ringDoorbell_moves (hc.2 ⟨hq, hm⟩)))
    · exact hex.trans (congrArg _ (ringDoorbell_discarded (mt hc.1 hn) hd))
    · refine hex.trans (congrArg _ ((ringDoorbell_halts (mt hc.1 hn) hr).trans ?_))
      simp only [← hsq]
      rfl
  · intro v ho h
    exact ⟨_, execDoorbell_discarded ho h, by simp, by simp, by simp, discardDoorbell_spec s f⟩

end Sys2Proof.Machine
end

section
/-!
PROOFS. The fetch of descriptors, and what a fetch that returns brings into flight.
-/
namespace Sys2Proof.Machine

/-! ## What a descriptor fetch reads (R104) -/

section
variable {s : State} {seat : Fin 8192}

/-- DESCRIPTOR_FETCH of a seat in RUN with entries to fetch. -/
theorem execDescriptorFetch_fetches (hr : running s = true) (hst : seatState s (getSeat s seat.val) = .run)
    (hn : 0 < fetchCount (getSeat s seat.val)) : execDescriptorFetch seat s =
      let x := getSeat s seat.val
      let start := (x.sqHead + fetchedAhead x) % sqSize x
      .next ((List.range (fetchCount x)).foldl
        (fun t j => tagGranules t (granule (prefetchAddr seat.val (start + j))) 1 x.suit)
        (setSeat s seat.val { x with fetches := x.fetches ++ [
          { start := start, count := fetchCount x, addr := x.sqBase + BitVec.ofNat 64 (64 * start), func := x.bind
            issued := s.round, stale := false }] })) := by
  simp [execDescriptorFetch, hr, hst, hn]

end

/-- Settles O22: the fetch joins the seat's list, and of the rest only tags change. -/
theorem descriptorFetchReads : Obligations.DescriptorFetchReads := by
  unfold Obligations.DescriptorFetchReads
  intro seat s i x sz ahead start n ft hr hst hn
  refine ⟨_, execDescriptorFetch_fetches hr hst hn, ?_⟩
  have tags {β : Type} (p : State → β) (hp : ∀ t a, p (tagGranules t a 1 x.suit) = p t) (l : List Nat) (t : State) :
      p (l.foldl (fun t j => tagGranules t (granule (prefetchAddr i (start + j))) 1 x.suit) t) = p t :=
    foldl_same p _ (fun t j => hp t _) l t
  refine ⟨?_, fun j hj => ?_, ?_, ?_, ?_⟩
  · exact (tags (getSeat · i) (fun _ _ => rfl) _ _).trans (getSeat_setSeat ..)
  · exact (tags (getSeat · j) (fun _ _ => rfl) _ _).trans (getSeat_setSeat_ne s _ hj)
  · exact tags State.mem (fun _ _ => rfl) _ _
  · exact tags State.link (fun _ _ => rfl) _ _
  · exact tags State.lanes (fun _ _ => rfl) _ _

/-! ## A descriptor taken into flight (R95, R104) -/

section
variable (s : State) (i : Nat)

/-- The count of suit refusals changes the error logic alone. -/
theorem countSuit_frame (fs : List Fail) (gs : List Nat) : (countSuit s fs gs).seats = s.seats
    ∧ (countSuit s fs gs).mem = s.mem ∧ (countSuit s fs gs).round = s.round := by
  unfold countSuit
  dsimp only
  split <;> simp

/-- What of a flight its checks do not change. -/
def entryOf (g : Flight) : Nat × Desc × Round := (g.sq, g.desc, g.fetched)

/-- The flights of a seat changed by a function that leaves their entries. -/
structure SameEntries (s t : State) (i : Nat) : Prop where
  seat : ∃ k : Flight → Flight, (∀ g, entryOf (k g) = entryOf g)
    ∧ getSeat t i = { getSeat s i with flights := (getSeat s i).flights.map k }
  seats : ∀ j, j ≠ i → getSeat t j = getSeat s j
  mem : t.mem = s.mem
  round : t.round = s.round

theorem sameEntries_refl : SameEntries s s i := ⟨⟨id, fun _ => rfl, by simp⟩, fun _ _ => rfl, rfl, rfl⟩

/-- One flight changed. -/
theorem sameEntries_modFlight (seq : Nat) {f : Flight → Flight} (hf : ∀ g, entryOf (f g) = entryOf g) :
    SameEntries s (modFlight s i seq f) i where
  seat := ⟨fun g => if g.seq = seq then f g else g, fun g => by dsimp only; split; exacts [hf g, rfl],
    getSeat_modFlight ..⟩
  seats _ hj := getSeat_modFlights_ne s _ _ hj
  mem := rfl
  round := rfl

/-- A status decided. -/
theorem sameEntries_decide (seq : Nat) (st : Status) (d : BitVec 16) (r : Round) (house : Bool) :
    SameEntries s (decide_ s i seq st d r house) i where
  seat := ⟨fun g => if g.seq = seq ∧ g.decided = none then
      { g with
        decided := some ⟨st, d, r, house⟩, listPool := [], resvIn := [], resvOut := [], reserved := false
        running := false }
      else g, fun g => by dsimp only; split <;> rfl, (decide_ends ..).seat⟩
  seats := (decide_ends ..).seats
  mem := decide__mem ..
  round := decide__round ..

/-- The ring engine's checks (R95). -/
theorem sameEntries_judgeDesc (sq : Nat) (g : Flight) (suit : List Fail) (reads : List ReadReq) (o : Option Fail) :
    SameEntries s (judgeDesc s i sq g suit reads o) i := by
  cases o with
  | some f =>
    obtain ⟨hseats, hmem, hround⟩ := countSuit_frame s suit (granules (prefetchAddr i sq) 64)
    have hs : ∀ j, getSeat (countSuit s suit (granules (prefetchAddr i sq) 64)) j = getSeat s j := fun j => by
      rw [getSeat, hseats, getSeat]
    obtain ⟨hseat, hother, hm, hr⟩ :=
      sameEntries_decide (countSuit s suit (granules (prefetchAddr i sq) 64)) i g.seq f.1 f.2 s.round false
    exact ⟨hs i ▸ hseat, fun j hj => (hother j hj).trans (hs j), hm.trans hmem, hr.trans hround⟩
  | none =>
    simp only [judgeDesc]
    split
    · exact sameEntries_modFlight s i g.seq fun _ => rfl
    · exact sameEntries_refl s i

/-- From s to t seat i took the entries es into flight, its first from ring index sq on. -/
structure TakesIn (s t : State) (i : Nat) (sq : Nat) (es : List (Nat × Desc × Round)) : Prop where
  flights : (getSeat t i).flights.map entryOf = (getSeat s i).flights.map entryOf ++ es
  head : (getSeat t i).sqHead = if es = [] then (getSeat s i).sqHead else (sq + es.length) % 2 ^ (getSeat s i).sqLog2.toNat
  size : (getSeat t i).sqLog2 = (getSeat s i).sqLog2
  fetches : (getSeat t i).fetches = (getSeat s i).fetches
  seats : ∀ j, j ≠ i → getSeat t j = getSeat s j
  round : t.round = s.round

/-- One descriptor taken into flight. -/
theorem takeDesc_takesIn (sq : Nat) (b : Bytes) : TakesIn s (takeDesc s i sq b) i sq [(sq, parseDesc b, s.round)] := by
  obtain ⟨⟨k, hk, hseat⟩, hother, -, hround⟩ := sameEntries_judgeDesc
    (placeDesc s i sq (newFlight s sq (parseDesc b)) b) i sq (newFlight s sq (parseDesc b)) (prefetchSuit s i sq)
    (ceremonyReads s i (newFlight s sq (parseDesc b))) (worst (descFails s i sq (newFlight s sq (parseDesc b)).desc))
  have hp : getSeat (placeDesc s i sq (newFlight s sq (parseDesc b)) b) i = { getSeat s i with
      flights := (getSeat s i).flights ++ [newFlight s sq (parseDesc b)], sqHead := (sq + 1) % sqSize (getSeat s i) } :=
    getSeat_setSeat ..
  have hn : ∀ j, j ≠ i → getSeat (placeDesc s i sq (newFlight s sq (parseDesc b)) b) j = getSeat s j := fun j hj =>
    getSeat_setSeat_ne s _ hj
  have hkey : entryOf ∘ k = entryOf := funext hk
  rw [hp] at hseat
  constructor <;> try rw [takeDesc, hseat]
  · simp only [List.map_append, List.map_map, hkey, List.map_cons, List.map_nil, hk]
    rfl
  · simp [sqSize]
  · exact fun j hj => (hother j hj).trans (hn j hj)
  · exact hround

/-- Its bytes lie in its prefetch place. -/
theorem placeDesc_mem (sq : Nat) (g : Flight) (b : Bytes) :
    (placeDesc s i sq g b).mem = memPut s.mem (prefetchAddr i sq) (padTo 64 b) := rfl

theorem takeDesc_mem (sq : Nat) (b : Bytes) :
    (takeDesc s i sq b).mem = memPut s.mem (prefetchAddr i sq) (padTo 64 b) := by
  rw [takeDesc, (sameEntries_judgeDesc ..).mem, placeDesc_mem]

/-- Descriptors taken one after another from consecutive entries. -/
theorem takesIn_fold (sq : Nat) (b : Nat → Bytes) (n : Nat) :
    TakesIn s ((List.range n).foldl (fun t j => takeDesc t i (sq + j) (b j)) s) i sq
      ((List.range n).map fun j => (sq + j, parseDesc (b j), s.round)) := by
  induction n with
  | zero => exact ⟨by simp, by simp, rfl, rfl, fun _ _ => rfl, rfl⟩
  | succ n ih =>
    obtain ⟨hfl, -, hsz, hft, hse, hro⟩ := ih
    rw [List.range_succ, List.foldl_append, List.foldl_cons, List.foldl_nil, List.map_append]
    obtain ⟨hfl', hhd', hsz', hft', hse', hro'⟩ :=
      takeDesc_takesIn ((List.range n).foldl (fun t j => takeDesc t i (sq + j) (b j)) s) i (sq + n) (b n)
    rw [hfl, hro] at hfl'
    rw [hsz] at hhd'
    refine ⟨hfl'.trans (by simp), hhd'.trans ?_, hsz'.trans hsz, hft'.trans hft,
      fun j hj => (hse' j hj).trans (hse j hj), hro'.trans hro⟩
    simp [Nat.add_assoc]

end

end Sys2Proof.Machine
end

section
/-!
PROOFS. What the return of a fetch does.
-/
namespace Sys2Proof.Machine

/-! ## A read that fails (R104, R111) -/

section
variable {s : State} {i : Nat}

/-- A seat in RUN or DRAINING, or halted in this round: what it takes in and what fails counts for it (R91, R104). -/
def takesNow (s : State) (x : Seat) : Prop :=
  seatState s x = .run ∨ seatState s x = .draining ∨ (seatState s x = .halted ∧ x.haltAt = s.round)

theorem takesFetch_iff : takesFetch s i = true ↔ takesNow s (getSeat s i) := by
  simp [takesFetch, takesNow, or_assoc]

/-- A failed read halts a seat that is live. -/
theorem dmaHalt_live (g : Flight) (d : BitVec 16)
    (h : seatState s (getSeat s i) = .run ∨ seatState s (getSeat s i) = .draining) :
    dmaHalt s i g d = enterHalt (modFlight s i g.seq fun x => { x with dmaErr := some d }) i .dmaData (some g.sq) :=
  if_pos h

/-- In a seat that halted in this round it marks its descriptor. -/
theorem dmaHalt_halted (g : Flight) (d : BitVec 16) (h : seatState s (getSeat s i) = .halted)
    (ha : (getSeat s i).haltAt = s.round) :
    dmaHalt s i g d = modFlight s i g.seq fun x => { x with dmaErr := some d } := by
  simp [dmaHalt, h, ha]

/-- What a failed read leaves of the seat. -/
theorem getSeat_dmaHalt (g : Flight) (d : BitVec 16) (h : takesNow s (getSeat s i)) :
    let y := getSeat (dmaHalt s i g d) i
    y.flights = ((getSeat s i).flights.map fun x => if x.seq = g.seq then { x with dmaErr := some d } else x)
      ∧ y.sqHead = (getSeat s i).sqHead ∧ y.fetches = (getSeat s i).fetches := by
  by_cases hl : seatState s (getSeat s i) = .run ∨ seatState s (getSeat s i) = .draining
  · obtain ⟨n, o, hh⟩ := getSeat_enterHalt (modFlight s i g.seq fun x => { x with dmaErr := some d }) i .dmaData (some g.sq)
    rw [getSeat_modFlight] at hh
    rw [dmaHalt_live g d hl, hh]
    exact ⟨rfl, rfl, rfl⟩
  · obtain ⟨hst, ha⟩ := (or_assoc.2 h).resolve_left hl
    rw [dmaHalt_halted g d hst ha, getSeat_modFlight]
    exact ⟨rfl, rfl, rfl⟩

/-- A failed read leaves the other seats. -/
theorem getSeat_dmaHalt_ne (g : Flight) (d : BitVec 16) {j : Nat} (h : j ≠ i) :
    getSeat (dmaHalt s i g d) j = getSeat s j := by
  unfold dmaHalt
  dsimp only
  (repeat' split)
  · exact (getSeat_enterHalt_ne _ _ h).trans (getSeat_modFlights_ne s _ _ h)
  · exact getSeat_modFlights_ne s _ _ h
  · rfl

/-- The halt that a failed read makes of a live seat names its descriptor (R111). -/
theorem dmaHalt_names (g : Flight) (d : BitVec 16)
    (h : seatState s (getSeat s i) = .run ∨ seatState s (getSeat s i) = .draining) :
    let t := dmaHalt s i g d
    seatState t (getSeat t i) = .halted ∧ (getSeat t i).cause = .dmaData ∧ (getSeat t i).idxValid = true
      ∧ (getSeat t i).haltIdx = g.sq ∧ (getSeat t i).haltAt = s.round := by
  obtain ⟨n, o, hh⟩ := getSeat_enterHalt (modFlight s i g.seq fun x => { x with dmaErr := some d }) i .dmaData (some g.sq)
  rw [dmaHalt_live g d h]
  refine ⟨seatState_enterHalt .., ?_⟩
  rw [hh]
  exact ⟨rfl, rfl, rfl, rfl⟩

/-- An index shadow changes no seat and no round. -/
theorem shadowWrite_frame (s : State) (i : Nat) :
    (shadowWrite s i).seats = s.seats ∧ (shadowWrite s i).round = s.round ∧ (shadowWrite s i).mem = s.mem := by
  unfold shadowWrite
  dsimp only
  split <;> exact ⟨rfl, rfl, rfl⟩

theorem getSeat_shadowWrite (s : State) (i j : Nat) : getSeat (shadowWrite s i) j = getSeat s j := by
  rw [getSeat, (shadowWrite_frame s i).1, getSeat]

theorem seatState_shadowWrite (s : State) (i : Nat) (x : Seat) : seatState (shadowWrite s i) x = seatState s x := by
  rw [seatState, (shadowWrite_frame s i).2.1, seatState]

/-- The DETAIL of each way in which a read fails, n where it came back poisoned (R106). -/
theorem readDetail_failed (n : Nat) {d : HostData} {e : BitVec 16}
    (h : (d, e) ∈ [(HostData.poisoned, BitVec.ofNat 16 n), (.refused, 4), (.timeout, 5)]) : readDetail n d = some e := by
  simp only [List.mem_cons, Prod.mk.injEq, List.not_mem_nil, or_false] at h
  rcases h with ⟨rfl, rfl⟩ | ⟨rfl, rfl⟩ | ⟨rfl, rfl⟩ <;> rfl

end

/-! ## A fetch returns (R91, R95, R104) -/

section
variable {s : State} {seat : Fin 8192} {ft : Fetch} {rest : List Fetch} {d : HostData}

/-- The state in which the oldest fetch of a seat has left its list. -/
def fetchGone (s : State) (i : Nat) (rest : List Fetch) : State := setSeat s i { getSeat s i with fetches := rest }

theorem getSeat_fetchGone (s : State) (i : Nat) (rest : List Fetch) :
    getSeat (fetchGone s i rest) i = { getSeat s i with fetches := rest } := getSeat_setSeat ..

/-- A fetch that is not taken is discarded whole. -/
theorem execFetchReturn_discards (hf : (getSeat s seat.val).fetches = ft :: rest) (hr : running s = true)
    (h : ft.stale = true ∨ ¬takesNow s (getSeat s seat.val) ∨ ft.start ≠ (getSeat s seat.val).sqHead) :
    execFetchReturn seat d s = .next (fetchGone s seat.val rest) := by
  have hc : (ft.stale || !takesFetch s seat.val || ft.start != (getSeat s seat.val).sqHead) = true := by
    simp only [Bool.or_eq_true, Bool.not_eq_true', bne_iff_ne, ← Bool.not_eq_true, takesFetch_iff]
    tauto
  simp only [execFetchReturn, hf, hr, hc]
  rfl

/-- One that is taken and returned data. -/
theorem execFetchReturn_data (b : Bytes) (hf : (getSeat s seat.val).fetches = ft :: rest) (hr : running s = true)
    (hs : ft.stale = false) (ht : takesNow s (getSeat s seat.val)) (hh : ft.start = (getSeat s seat.val).sqHead) :
    execFetchReturn seat (.data b) s = .next (takeFetch (fetchGone s seat.val rest) seat.val ft b) := by
  have hc : (ft.stale || !takesFetch s seat.val || ft.start != (getSeat s seat.val).sqHead) = false := by
    simp [hs, takesFetch_iff.2 ht, hh]
  simp only [execFetchReturn, hf, hr, hc]
  rfl

/-- One that is taken and whose read failed. -/
theorem execFetchReturn_fails {e : BitVec 16} (hf : (getSeat s seat.val).fetches = ft :: rest) (hr : running s = true)
    (hs : ft.stale = false) (ht : takesNow s (getSeat s seat.val)) (hh : ft.start = (getSeat s seat.val).sqHead)
    (he : readDetail 1 d = some e) :
    execFetchReturn seat d s = .next (badFetch (fetchGone s seat.val rest) seat.val ft e) := by
  have hc : (ft.stale || !takesFetch s seat.val || ft.start != (getSeat s seat.val).sqHead) = false := by
    simp [hs, takesFetch_iff.2 ht, hh]
  simp only [execFetchReturn, hf, hr, hc]
  cases d with
  | data b => cases he
  | poisoned | refused | timeout => simp [he, fetchGone]

/-- Data that is taken brings its descriptors into flight. -/
theorem takeFetch_takesIn (s : State) (i : Nat) (ft : Fetch) (b : Bytes) : TakesIn s (takeFetch s i ft b) i ft.start
    ((List.range ft.count).map fun j => (ft.start + j, parseDesc (padTo 64 (slice b (64 * j) 64)), s.round)) := by
  obtain ⟨hfl, hhd, hsz, hft, hse, hro⟩ := takesIn_fold s i ft.start (fun j => padTo 64 (slice b (64 * j) 64)) ft.count
  constructor <;> simp only [takeFetch, getSeat_shadowWrite, (shadowWrite_frame _ _).2.1]
  · exact hfl
  · exact hhd
  · exact hsz
  · exact hft
  · exact hse
  · exact hro

/-- The state in which a fetch's first entry has come into flight without its bytes. -/
def firstEntry (s : State) (i : Nat) (ft : Fetch) : State :=
  { setSeat s i { getSeat s i with
      flights := (getSeat s i).flights ++ [newFlight s ft.start (parseDesc [])]
      sqHead := (ft.start + 1) % sqSize (getSeat s i) } with
    dealer := { s.dealer with seq := s.dealer.seq + 1 } }

theorem badFetch_eq (s : State) (i : Nat) (ft : Fetch) (e : BitVec 16) : badFetch s i ft e =
    shadowWrite (dmaHalt (firstEntry s i ft) i (newFlight s ft.start (parseDesc [])) e) i := rfl

theorem getSeat_firstEntry (s : State) (i : Nat) (ft : Fetch) : getSeat (firstEntry s i ft) i = { getSeat s i with
    flights := (getSeat s i).flights ++ [newFlight s ft.start (parseDesc [])]
    sqHead := (ft.start + 1) % sqSize (getSeat s i) } := getSeat_setSeat ..

/-- A read that failed brings in the first entry alone, as the cause of a halt. -/
theorem badFetch_spec {i : Nat} (e : BitVec 16) (h : takesNow s (getSeat s i)) :
    let t := badFetch s i ft e
    (getSeat t i).fetches = (getSeat s i).fetches
      ∧ (getSeat t i).sqHead = (ft.start + 1) % 2 ^ (getSeat s i).sqLog2.toNat
      ∧ (getSeat t i).flights.map (·.sq) = (getSeat s i).flights.map (·.sq) ++ [ft.start]
      ∧ (∃ g, (getSeat t i).flights.getLast? = some g ∧ g.dmaErr = some e ∧ g.decided = none)
      ∧ (seatState s (getSeat s i) ≠ .halted → seatState t (getSeat t i) = .halted ∧ (getSeat t i).cause = .dmaData
        ∧ (getSeat t i).idxValid = true ∧ (getSeat t i).haltIdx = ft.start ∧ (getSeat t i).haltAt = s.round)
      ∧ ∀ j, j ≠ i → getSeat t j = getSeat s j := by
  have hstate : seatState (firstEntry s i ft) (getSeat (firstEntry s i ft) i) = seatState s (getSeat s i) := by
    rw [getSeat_firstEntry]
    rfl
  have hnow : takesNow (firstEntry s i ft) (getSeat (firstEntry s i ft) i) := by
    rw [getSeat_firstEntry]
    exact h
  obtain ⟨hfl, hhd, hft⟩ := getSeat_dmaHalt (newFlight s ft.start (parseDesc [])) e hnow
  rw [getSeat_firstEntry] at hfl hhd hft
  simp only [badFetch_eq, getSeat_shadowWrite, seatState_shadowWrite]
  refine ⟨hft, hhd, ?_, ⟨{ newFlight s ft.start (parseDesc []) with dmaErr := some e }, ?_, rfl, rfl⟩, fun hn => ?_,
    fun j hj => ?_⟩
  · have hsq : ((·.sq) ∘ fun x : Flight => if x.seq = (newFlight s ft.start (parseDesc [])).seq then
        { x with dmaErr := some e } else x) = (·.sq) := funext fun x => by
      rw [Function.comp_apply]
      split <;> rfl
    rw [hfl, List.map_map, hsq, List.map_append]
    rfl
  · rw [hfl]
    simp
  · refine dmaHalt_names (s := firstEntry s i ft) _ e (hstate ▸ ?_)
    exact h.imp_right fun h => h.resolve_right fun h => hn h.1
  · exact (getSeat_dmaHalt_ne _ e hj).trans (getSeat_setSeat_ne s _ hj)

end

/-- Settles O23: a fetch by whether it is taken, its descriptors by takesIn_fold, a failed read by dmaHalt. -/
theorem fetchReturns : Obligations.FetchReturns := by
  unfold Obligations.FetchReturns
  refine ⟨fun seat s ft rest b d e => ?_, fun s i sq b hb => ?_⟩
  · intro i x sz takes hf hr
    have hnow (h : takes) : takesNow (fetchGone s i rest) (getSeat (fetchGone s i rest) i) := by
      rw [getSeat_fetchGone]
      exact h
    refine ⟨execFetchReturn_discards hf hr, fun hs ht hh hc => ?_, fun hs ht hh hm => ?_⟩
    · obtain ⟨hfl, hhd, -, hft, hse, -⟩ := takeFetch_takesIn (fetchGone s i rest) i ft b
      rw [getSeat_fetchGone] at hfl hhd hft
      refine ⟨_, execFetchReturn_data b hf hr hs ht hh, hft, ?_, hfl, fun j hj => ?_⟩
      · have hne : ft.count ≠ 0 := by omega
        simpa [hne] using hhd
      · exact (hse j hj).trans (getSeat_setSeat_ne s _ hj)
    · have hbad := badFetch_spec (ft := ft) e (hnow ht)
      obtain ⟨hft, hhd, hfl, hlast, hhalt, hse⟩ := hbad
      rw [getSeat_fetchGone] at hft hhd hfl hhalt
      exact ⟨_, execFetchReturn_fails hf hr hs ht hh (readDetail_failed 1 hm), hft, hhd, hfl, hlast, hhalt,
        fun j hj => (hse j hj).trans (getSeat_setSeat_ne s _ hj)⟩
  · have hpad : padTo 64 b = b := by simp [padTo, ← hb]
    have hrd : ∀ a, rd (takeDesc s i sq b) a = rd (store s (prefetchAddr i sq) b) a := fun a => by
      rw [rd, takeDesc_mem, hpad]
      rfl
    obtain ⟨hfl, hhd, -, -, -, -⟩ := takeDesc_takesIn s i sq b
    refine ⟨hhd, ?_, ?_, fun a ha => ?_⟩
    · simpa using congrArg List.length hfl
    · calc rdN (takeDesc s i sq b) (prefetchAddr i sq) 64
        _ = rdN (store s (prefetchAddr i sq) b) (prefetchAddr i sq) b.length := by simp only [rdN, hrd, hb]
        _ = b := rdN_store ..
    · rw [hrd, rd_store, if_neg (by omega)]

end Sys2Proof.Machine
end

section
/-!
PROOFS. Fragment lists asked for, and what their return does.
-/
namespace Sys2Proof.Machine

section
variable {s : State} {seat : Fin 8192} {sq : Nat} {g : Flight} {dst : Bool}

/-! ## Lists asked for (R85, R97, R98) -/

/-- FRAGMENT_LIST_FETCH of a live seat whose turn it is, with room in the pool. -/
theorem execFragmentListFetch_asks (hr : running s = true) (hn : Names s seat.val sq g wantsLists)
    (hl : seatState s (getSeat s seat.val) = .run ∨ seatState s (getSeat s seat.val) = .draining)
    (hp : listTricks g.desc ≤ poolFree s) (ht : poolTurn s seat.val (listTricks g.desc) = true) :
    execFragmentListFetch seat sq s = .next
      (modFlight (tagPlaces s (poolTake s (listTricks g.desc)) (getSeat s seat.val).suit) seat.val g.seq fun x =>
        { x with
          listsAsked := true, listPool := poolTake s (listTricks g.desc)
          reads := x.reads ++ listReqs s (getSeat s seat.val).bind g.desc }) := by
  have hf : flightBySq s seat.val sq wantsLists = some g := hn
  simp [execFragmentListFetch, hf, hr, seatLive, hl, hp, ht]

/-! ## A list that returns (R97, R111, R112) -/

/-- The flight that FRAGMENT_LIST_RETURN looks for: one whose list was asked for and is not there. -/
def awaitsList (dst : Bool) (h : Flight) : Bool :=
  h.decided.isNone && h.listsAsked
    && (if dst then h.desc.dstFrag && h.dstList.isNone else h.desc.srcFrag && h.srcList.isNone)

/-- Entries of the list. -/
def listEntries (g : Flight) (dst : Bool) : Nat := if dst then g.desc.dstFrags.toNat else g.desc.srcFrags.toNat

/-- The kind of its reads. -/
def listKind (dst : Bool) : ReadKind := if dst then .dstList else .srcList

/-- The flight with the list that returned. -/
def withList (g : Flight) (dst : Bool) (b : Bytes) : Flight :=
  let l := parseFrags (padTo (16 * listEntries g dst) b)
  if dst then { g with dstList := some l } else { g with srcList := some l }

/-- The state that holds the list: its bytes in its tricks, its entries with its descriptor, its reads gone, and the payload
of a ceremony asked for. -/
def listHeld (s : State) (i : Nat) (g : Flight) (dst : Bool) (b : Bytes) : State :=
  let first := if g.desc.srcFrag then ceilDiv g.desc.srcFrags.toNat 4 else 0
  let placed := stagePut s (if dst then g.listPool.drop first else g.listPool.take first) (padTo (16 * listEntries g dst) b)
  modFlight placed i g.seq fun x =>
    { x with
      srcList := (withList g dst b).srcList, dstList := (withList g dst b).dstList, lockFrom := s.round + 1
      dealFrom := s.round
      reads := readsLeft g (listKind dst)
        ++ (if listsIn (withList g dst b) then ceremonyReads s i (withList g dst b) else []) }

/-- What the checks find once the list is there. -/
def listOutcome (g : Flight) (dst : Bool) (b : Bytes) : Option Fail :=
  worst (listFails g.desc (withList g dst b).srcList (withList g dst b).dstList)

theorem takeList_eq (s : State) (i : Nat) (g : Flight) (dst : Bool) (b : Bytes) : takeList s i g dst b =
    if listsIn (withList g dst b) && !haltPast s i then
      match listOutcome g dst b with
      | some f => decide_ (listHeld s i g dst b) i g.seq f.1 f.2 s.round false
      | none => listHeld s i g dst b
    else listHeld s i g dst b := rfl

/-- A list that leaves the descriptor undecided. -/
theorem takeList_holds {i : Nat} {b : Bytes}
    (h : listsIn (withList g dst b) = false ∨ listOutcome g dst b = none ∨ haltPast s i = true) :
    takeList s i g dst b = listHeld s i g dst b := by
  rw [takeList_eq]
  rcases h with h | h | h <;> simp [h]

/-- A failed check decides it. -/
theorem takeList_decides {i : Nat} {b : Bytes} {o : Fail} (hl : listsIn (withList g dst b) = true)
    (ho : listOutcome g dst b = some o) (hh : haltPast s i = false) :
    takeList s i g dst b = decide_ (listHeld s i g dst b) i g.seq o.1 o.2 s.round false := by
  simp [takeList_eq, hl, ho, hh]

/-- FRAGMENT_LIST_RETURN of data. -/
theorem execFragmentListReturn_data (b : Bytes) (hr : running s = true) (hn : Names s seat.val sq g (awaitsList dst)) :
    execFragmentListReturn seat sq dst (.data b) s = .next (takeList s seat.val g dst b) := by
  have hf : flightBySq s seat.val sq (awaitsList dst) = some g := hn
  unfold awaitsList at hf
  simp [execFragmentListReturn, hf, hr]

/-- A list whose read failed. -/
theorem execFragmentListReturn_fails {d : HostData} {e : BitVec 16} (hr : running s = true)
    (hn : Names s seat.val sq g (awaitsList dst)) (he : readDetail 2 d = some e) :
    execFragmentListReturn seat sq dst d s = .next
      (dmaHalt (modFlight s seat.val g.seq fun x => { x with reads := readsLeft g (listKind dst) }) seat.val g e) := by
  have hf : flightBySq s seat.val sq (awaitsList dst) = some g := hn
  unfold awaitsList at hf
  cases d with
  | data b => cases he
  | poisoned | refused | timeout => simp [execFragmentListReturn, hf, hr, he, listKind]

end

/-- Settles O24: the lists asked for by the branch of the command, a list that returns by takeList. -/
theorem fragmentLists : Obligations.FragmentLists := by
  unfold Obligations.FragmentLists
  intro seat sq s g b dst d e i f tricks reads n kind frags g1 left first placed hr
  refine ⟨fun hn hl hp ht => execFragmentListFetch_asks hr hn hl hp ht, fun hn => ⟨fun h => ?_, fun o hl ho hh => ?_,
    fun hm => execFragmentListReturn_fails hr hn (readDetail_failed 2 hm)⟩⟩
  · exact (execFragmentListReturn_data b hr hn).trans (congrArg _ (takeList_holds h))
  · refine ⟨_, (execFragmentListReturn_data b hr hn).trans (congrArg _ (takeList_decides hl ho hh)), ?_⟩
    exact decide_ends (listHeld s i g dst b) ..

end Sys2Proof.Machine
end

section
/-!
PROOFS. The completion entry of a descriptor.
-/
namespace Sys2Proof.Machine

/-! ## Writes queued for a link (R86) -/

section
variable (s : State)

/-- A write goes behind those queued for its port and link. -/
theorem queue_pushWrite (w : LinkWrite) : sget [] (pushWrite s w).link.queue (plKey w.func) =
    sget [] s.link.queue (plKey w.func) ++ [w] := sget_sput_self ..

/-- From s to t the queue of a port and link only grew at its end. -/
def QueueGrows (s t : State) (k : Nat) : Prop := sget [] s.link.queue k <+: sget [] t.link.queue k

theorem queueGrows_pushWrite (w : LinkWrite) (k : Nat) : QueueGrows s (pushWrite s w) k := by
  by_cases hk : k = plKey w.func
  · subst hk
    rw [QueueGrows, queue_pushWrite]
    exact List.prefix_append ..
  · rw [QueueGrows, pushWrite, supd]
    simp only [sget_sput_ne _ _ _ hk]
    exact List.prefix_refl _

theorem queueGrows_shadowWrite (i k : Nat) : QueueGrows s (shadowWrite s i) k := by
  unfold shadowWrite
  dsimp only
  split
  · exact queueGrows_pushWrite ..
  · exact List.prefix_refl _

theorem queueGrows_sendMsi (f : Func) (v : BitVec 11) (k : Nat) : QueueGrows s (sendMsi s f v) k := by
  unfold sendMsi
  dsimp only
  split
  · exact queueGrows_pushWrite ..
  · exact List.prefix_refl _

theorem queueGrows_seatMsi (i k : Nat) : QueueGrows s (seatMsi s i) k := by
  unfold seatMsi
  dsimp only
  split
  · exact queueGrows_sendMsi (setSeat s i _) _ _ k
  · exact List.prefix_refl _

/-- A message of a seat leaves the others. -/
theorem getSeat_seatMsi_ne {i j : Nat} (h : j ≠ i) : getSeat (seatMsi s i) j = getSeat s j := by
  unfold seatMsi
  dsimp only
  split
  · rw [getSeat, sendMsi_seats]
    exact getSeat_setSeat_ne s _ h
  · rfl

end

/-! ## The entry (R106, R107) -/

section
variable (s : State) (i : Nat) (g : Flight) (d : Decided)

/-- The counters of completions change no seat, no queue and no byte. -/
theorem countDone_frame (st : Status) :
    (countDone s st).seats = s.seats ∧ (countDone s st).link = s.link ∧ (countDone s st).mem = s.mem := by
  unfold countDone
  split
  · exact ⟨rfl, rfl, rfl⟩
  · split <;> exact ⟨rfl, rfl, rfl⟩

/-- The completion entry of g. -/
def entryOfDone (s : State) (i : Nat) (g : Flight) (d : Decided) : LinkWrite :=
  { func := (getSeat s i).bind, addr := (getSeat s i).cqBase + BitVec.ofNat 64 (16 * (getSeat s i).cqTail)
    data := entryBytes (getSeat s i) g d, kind := .completion, issued := s.round }

/-- The seat once the entry is written. -/
def doneSeat (s : State) (i : Nat) (g : Flight) : Seat :=
  let x := getSeat s i
  let t := (x.cqTail + 1) % cqSize x
  let en := x.irqEn.at_ s.round
  { x with
    flights := x.flights.filter (fun h => h.seq != g.seq)
    cqTail := t, phase := if t = 0 then !x.phase else x.phase
    unsig := if en then x.unsig + 1 else x.unsig
    oldest := if en && x.oldest.isNone then some s.round else x.oldest }

/-- The state in which the entry is queued and the index shadow after it. -/
def entryQueued (s : State) (i : Nat) (g : Flight) (d : Decided) : State :=
  shadowWrite (pushWrite (setSeat (countDone s d.status) i (doneSeat s i g)) (entryOfDone s i g d)) i

theorem writeEntry_eq : writeEntry s i g d =
    if (getSeat s i).irqEn.at_ s.round && (countDue s (doneSeat s i g) || g.desc.irqNow) then
      seatMsi (entryQueued s i g d) i
    else entryQueued s i g d := rfl

theorem getSeat_entryQueued : getSeat (entryQueued s i g d) i = doneSeat s i g :=
  (getSeat_shadowWrite ..).trans (getSeat_setSeat ..)

theorem getSeat_entryQueued_ne {j : Nat} (h : j ≠ i) : getSeat (entryQueued s i g d) j = getSeat s j := by
  refine (getSeat_shadowWrite ..).trans ((getSeat_setSeat_ne (countDone s d.status) _ h).trans ?_)
  rw [getSeat, (countDone_frame s d.status).1, getSeat]

theorem entryQueued_mem : (entryQueued s i g d).mem = s.mem :=
  (shadowWrite_frame ..).2.2.trans (countDone_frame s d.status).2.2

/-- The entry is queued behind the writes of its port and link. -/
theorem queue_entryQueued : sget [] s.link.queue (plKey (getSeat s i).bind) ++ [entryOfDone s i g d] <+:
    sget [] (entryQueued s i g d).link.queue (plKey (getSeat s i).bind) := by
  have hq := queue_pushWrite (setSeat (countDone s d.status) i (doneSeat s i g)) (entryOfDone s i g d)
  rw [setSeat_link, (countDone_frame s d.status).2.1] at hq
  exact hq ▸ queueGrows_shadowWrite _ i (plKey (getSeat s i).bind)

/-- One completion entry written, whether or not its message is due. -/
theorem writeEntry_spec :
    let t := writeEntry s i g d
    (∃ n o, getSeat t i = { doneSeat s i g with unsig := n, oldest := o })
      ∧ (∀ j, j ≠ i → getSeat t j = getSeat s j)
      ∧ (sget [] s.link.queue (plKey (getSeat s i).bind) ++ [entryOfDone s i g d] <+:
        sget [] t.link.queue (plKey (getSeat s i).bind))
      ∧ t.mem = s.mem := by
  intro t
  have ht : t = writeEntry s i g d := rfl
  rw [writeEntry_eq] at ht
  split at ht
  · rw [ht]
    obtain ⟨n, o, hseat⟩ := getSeat_seatMsi (entryQueued s i g d) i
    rw [getSeat_entryQueued] at hseat
    exact ⟨⟨n, o, hseat⟩, fun j hj => (getSeat_seatMsi_ne _ hj).trans (getSeat_entryQueued_ne s i g d hj),
      (queue_entryQueued s i g d).trans (queueGrows_seatMsi ..), (seatMsi_mem ..).trans (entryQueued_mem s i g d)⟩
  · rw [ht]
    exact ⟨⟨_, _, getSeat_entryQueued s i g d⟩, fun j hj => getSeat_entryQueued_ne s i g d hj,
      queue_entryQueued s i g d, entryQueued_mem s i g d⟩

end

/-- COMPLETION_WRITE of the next descriptor, once nothing holds its entry back. -/
theorem execCompletionWrite_writes {s : State} {seat : Fin 8192} {g : Flight} {d : Decided}
    (hg : nextDone (getSeat s seat.val).flights = some g) (hd : g.decided = some d) (hr : running s = true)
    (ht : d.round < s.round) (hrel : released s g = true)
    (hroom : ((getSeat s seat.val).cqTail + 1) % cqSize (getSeat s seat.val) ≠ (getSeat s seat.val).cqSeen)
    (hu : undrained s seat.val g.seq = false) (hi : inTurn s seat.val g d.round = true) :
    execCompletionWrite seat s = .next (writeEntry s seat.val g d) := by
  simp [execCompletionWrite, hg, hd, hr, ht, hrel, cqRoom, hroom, hu, hi]

/-- Settles O26: the entry is queued first, and what may follow it, a shadow and a message, only joins the queue. -/
theorem completionEntry : Obligations.CompletionEntry := by
  unfold Obligations.CompletionEntry
  intro seat s g d i x tail entry hg hd hr ht hrel hroom hu hi
  obtain ⟨⟨n, o, hseat⟩, hother, ⟨more, hq⟩, hmem⟩ := writeEntry_spec s i g d
  refine ⟨_, execCompletionWrite_writes hg hd hr ht hrel hroom hu hi, by rw [hseat]; rfl, by rw [hseat]; rfl,
    by rw [hseat]; rfl, hother, ⟨more, ?_⟩, hmem⟩
  rw [← hq, List.append_assoc]
  rfl

end Sys2Proof.Machine
end

section
/-!
PROOFS. What an erase of the key store cannot change: an induction over its parts, for any property that they leave.
-/
namespace Sys2Proof.Machine

/-! ## Shared operations as updates of a few parts -/

section
variable (s : State)

/-- A device-wide cause changes the IRQ blocks and the host link alone. -/
theorem raiseAll_eq (b : Nat) : raiseAll s b = { s with irq := (raiseAll s b).irq, link := (raiseAll s b).link } := by
  have h : { raiseAll s b with irq := s.irq, link := s.link } = s := by simp
  exact congrArg (fun t : State => { t with irq := (raiseAll s b).irq, link := (raiseAll s b).link }) h

/-- A status decided changes the seats, reservations of hands and house firmware's queue alone. -/
theorem decide_eq (i seq : Nat) (st : Status) (d : BitVec 16) (r : Round) (house : Bool) : ∃ m h,
    decide_ s i seq st d r house =
      { (if st = .done then s else dropResv s seq) with seats := m, house := h } := by
  unfold decide_
  dsimp only
  split
  · unfold queueScore
    split <;> split <;> exact ⟨_, _, rfl⟩
  · split <;> exact ⟨_, _, rfl⟩

end

/-! ## Aborted work and the end of a session (R61, R200, R370) -/

/-- A property that hangs on none of the parts in which work in flight lives: seats, lanes, engines, records, slots, house,
session, IRQ blocks and link; nor on the reservations of hands. -/
structure AbortSafe (P : State → Prop) : Prop where
  work : ∀ {s}, P s → ∀ a b c d e f g h k, P { s with
    seats := a, lanes := b, engines := c, records := d, slots := e, house := f, quorum := g, irq := h, link := k }
  resv : ∀ {s}, P s → ∀ seq, P (dropResv s seq)

section
variable {P : State → Prop} (hP : AbortSafe P) {s : State}
include hP

theorem carries_setSeat (h : P s) (i : Nat) (x : Seat) : P (setSeat s i x) := hP.work h ..
theorem carries_modFlights (h : P s) (i : Nat) (p : Flight → Bool) (f : Flight → Flight) : P (modFlights s i p f) :=
  carries_setSeat hP h ..
theorem carries_modLane (h : P s) (i : Nat) (f : Lane → Lane) : P (modLane s i f) := hP.work h ..
theorem carries_setEngine (h : P s) (i : Nat) (x : Engine) : P (setEngine s i x) := hP.work h ..
theorem carries_modEngine (h : P s) (i : Nat) (f : Engine → Engine) : P (modEngine s i f) := hP.work h ..
theorem carries_modSlot (h : P s) (i : Nat) (f : Slot → Slot) : P (modSlot s i f) := hP.work h ..
theorem carries_raiseAll (h : P s) (b : Nat) : P (raiseAll s b) := raiseAll_eq s b ▸ hP.work h ..
theorem carries_closeRec (h : P s) (o : Option Nat) : P (closeRec s o) := by
  obtain ⟨r, e⟩ := closeRec_frame s o
  exact e ▸ hP.work h ..

theorem carries_decide (h : P s) (i seq : Nat) (st : Status) (d : BitVec 16) (r : Round) (house : Bool) :
    P (decide_ s i seq st d r house) := by
  obtain ⟨m, k, e⟩ := decide_eq s i seq st d r house
  rw [e]
  split
  · exact hP.work h ..
  · exact hP.work (hP.resv h seq) ..

omit hP in
/-- A fold keeps what each of its steps keeps. -/
theorem foldl_carries {α : Type} {f : State → α → State} (hf : ∀ t x, P t → P (f t x)) (l : List α) :
    ∀ {t}, P t → P (l.foldl f t) := by
  induction l with
  | nil => exact id
  | cons x l ih => exact fun h => ih (hf _ x h)

theorem carries_abortSeg (h : P s) (l : Nat) (b : Binding) (st : Status) (d : BitVec 16) (r : Round) :
    P (abortSeg s l b st d r) := carries_closeRec hP (carries_decide hP (carries_modLane hP h ..) ..) _

theorem carries_abortEngine (h : P s) (k : Nat) (p : Ticket → Bool) (st : Status) (d : BitVec 16) (r : Round) :
    P (abortEngine s k p st d r) :=
  foldl_carries (P := P) (fun _ _ ht => carries_decide hP (carries_modEngine hP ht ..) ..) _ (carries_setEngine hP h ..)

theorem carries_abortHouse (h : P s) (p : Flight → Bool) (st : Status) (d : BitVec 16) (r : Round) :
    P (abortHouse s p st d r) := by
  refine foldl_carries (P := P) (fun t e ht => foldl_carries (P := P) (fun u g hu => ?_) _ ht) _ h
  split
  · exact carries_decide hP hu ..
  · exact hu

theorem carries_endSession (h : P s) (e : QuorumEnd) : P (endSession s e) := by
  unfold endSession
  dsimp only
  split
  · exact h
  · exact carries_raiseAll hP (carries_abortHouse hP (hP.work (carries_modSlot hP (carries_modSlot hP h ..) ..) ..) ..) _

/-! ## The erase of the key store (R224-R228) -/

theorem carries_eraseLane (h : P s) (l : Nat) : P (eraseLane s l) := by
  refine foldl_carries (P := P) (fun t b ht => ?_) _ (carries_modLane hP h ..)
  (repeat' split)
  · exact ht
  · exact carries_abortSeg hP ht ..
  · exact carries_modLane hP ht ..

theorem carries_eraseEngine (h : P s) (k : Nat) : P (eraseEngine s k) := by
  unfold eraseEngine
  exact carries_modEngine hP (carries_abortEngine hP h ..) ..

theorem carries_eraseFlights (h : P s) (i : Nat) : P (eraseFlights s i) := by
  refine foldl_carries (P := P) (fun t g ht => ?_) _ h
  dsimp only
  split
  · exact carries_decide hP ht ..
  · exact ht

omit hP in
theorem carries_eachSeat {f : State → Nat → State} (hf : ∀ t i, P t → P (f t i)) (h : P s) : P (eachSeat s f) := by
  unfold eachSeat
  exact foldl_carries (P := P) (fun t e ht => hf t e.1 ht) _ h

theorem carries_eraseCommitted (hundo : ∀ {t} u, P t → P (undoCommit t u)) (h : P s) : P (eraseCommitted s) := by
  unfold eraseCommitted
  exact carries_eachSeat (fun _ _ ht => carries_modFlights hP ht ..)
    (foldl_carries (P := P) (fun _ u ht => hundo u ht) _ h)

/-- An erase leaves a property that no abort changes, nor the undoing of a commit, nor new values of the key store,
of EPOCH and of the records. -/
theorem carries_eraseStore (hundo : ∀ {t} u, P t → P (undoCommit t u))
    (hkeys : ∀ {t} k e, P t → P { t with keys := k, aon := { t.aon with epoch := e }, records := [] }) (h : P s) (boot : Bool) :
    P (eraseStore s boot) := by
  have hlanes : P (eachLane s eraseLane) := foldl_carries (P := P) (fun _ _ ht => carries_eraseLane hP ht _) _ h
  have hengines : P (eachEngine (eachLane s eraseLane) eraseEngine) :=
    foldl_carries (P := P) (fun _ _ ht => carries_eraseEngine hP ht _) _ hlanes
  have hcommits := carries_eraseCommitted hP hundo hengines
  have hflights := carries_eachSeat (P := P) (f := eraseFlights) (fun _ _ ht => carries_eraseFlights hP ht _) hcommits
  unfold eraseStore
  dsimp only
  generalize eachSeat (eraseCommitted (eachEngine (eachLane s eraseLane) eraseEngine)) eraseFlights = t at hflights ⊢
  exact carries_endSession hP (hkeys _ _ hflights) _

end

/-! ## What it leaves -/

section
variable (s : State) (boot : Bool)

/-- Fuses and memory stand through an erase. -/
theorem eraseStore_frame : (eraseStore s boot).fuses = s.fuses ∧ (eraseStore s boot).mem = s.mem := by
  have hP : AbortSafe fun t => t.fuses = s.fuses ∧ t.mem = s.mem := ⟨fun h => fun _ _ _ _ _ _ _ _ _ => h, fun h _ => h⟩
  have hlog : ∀ (l : List LogEntry) (t : State), (l.foldl pushLog t).fuses = t.fuses ∧ (l.foldl pushLog t).mem = t.mem :=
    fun l t => ⟨foldl_same State.fuses pushLog (fun _ _ => rfl) l t, foldl_same State.mem pushLog (fun _ _ => rfl) l t⟩
  refine carries_eraseStore hP (fun {t} u h => ?_) (fun _ _ h => h) ⟨rfl, rfl⟩ boot
  cases u with
  | root | suit => exact h
  | tcr d fresh m | latch bs fresh again m => exact ⟨(hlog _ _).1.trans h.1, (hlog _ _).2.trans h.2⟩

end

end Sys2Proof.Machine
end

section
/-!
PROOFS. Power requests, configuration requests and link events.
-/
namespace Sys2Proof.Machine

section
variable {s : State} {f : Func}

/-! ## PWR_CTRL written (R376, R377) -/

/-- The PWR block takes writes of a physical function while STANDBY is held too (R377). -/
theorem pwrCmd_acts (st : Nat) (ho : hostOk s f = true) (hf : f.vf = 0) :
    pwrCmd s f st = pwrCtrlWrite s f (mkWord (256 * b2n s.power.gateEn.cur + st)) := by
  simp [pwrCmd, pfWrite, barWrite, ho, isPf, hf]

/-- A virtual function's request is discarded (R7). -/
theorem pwrCmd_refused (st : Nat) (h : Reaches s f) (hf : f.vf ≠ 0) : pwrCmd s f st = regErr s f 0x10000 :=
  pfWrite_refuses _ _ h hf

/-- The state with the gating bit of PWR_CTRL written. -/
def gateWritten (s : State) : State :=
  { s with power := { s.power with
    gateEn := s.power.gateEn.put s.round (s.round + 3) (bit (mkWord (256 * b2n s.power.gateEn.cur)) 8) } }

/-- A request is its STATE field, beside the gating bit that the register reads. -/
theorem pwrCmd_requests (v : BitVec 2) (ho : hostOk s f = true) (hf : f.vf = 0) :
    pwrCmd s f v.toNat = powerRequest (gateWritten s) f v := by
  have hgate : ∀ b : Bool, bit (mkWord (256 * b2n b + v.toNat)) 8 = bit (mkWord (256 * b2n b)) 8
      ∧ BitVec.ofNat 2 (fld (mkWord (256 * b2n b + v.toNat)) 1 0) = v := by
    revert v
    decide
  obtain ⟨hb, hv⟩ := hgate s.power.gateEn.cur
  rw [pwrCmd_acts _ ho hf, pwrCtrlWrite, hb, hv]
  rfl

/-- STANDBY in RUN with every seat quiet and none pending is accepted (R376). -/
theorem powerRequest_standby (hst : s.power.st = .run) (hn : s.power.stbyAt = none) (hq : seatsQuiet s = true) :
    powerRequest s f 2 = { s with power := { s.power with reqSt := 2, stbyAt := some s.round } } := by
  simp [powerRequest, hst, hn, hq]

/-- With a seat at work it is discarded. -/
theorem powerRequest_standbyBusy (hst : s.power.st = .run) (hq : seatsQuiet s = false) :
    powerRequest s f 2 = regErr s f 0x10000 := by
  simp [powerRequest, hst, hq]

/-- RUN in STANDBY starts CLK_CORE and the noise sources (R377). -/
theorem powerRequest_run (hst : s.power.st = .standby) : powerRequest s f 3 =
    rngStart { s with power := { s.power with st := .run, clock := true, reqSt := 3 } } := by
  simp [powerRequest, hst]

/-- AON_ONLY erases the key store and resets the main domain (R376). -/
theorem powerRequest_aonOnly (hst : s.power.st = .run ∨ s.power.st = .standby) : powerRequest s f 1 =
    { mainReset (eraseStore s false) with
      power := { (mainReset (eraseStore s false)).power with st := .aonOnly } } := by
  simp [powerRequest, hst]

/-- A main reset: what it keeps, and what it sets back (R12, R39). -/
theorem mainReset_spec (s : State) : let t := mainReset s
    t.fuses = s.fuses ∧ t.mem = s.mem ∧ t.keys = KeyStore.reset ∧ t.seats = [] ∧ t.round = 0 ∧ t.power.phase = 0
      ∧ t.power.clock = false := by
  unfold mainReset
  dsimp only
  split
  · simp only [slotEvent, raiseAll_fuses, raiseAll_mem, raiseAll_keys, raiseAll_seats, raiseAll_round, raiseAll_power]
    exact ⟨trivial, trivial, rfl, rfl, rfl, rfl, rfl⟩
  · exact ⟨rfl, rfl, rfl, rfl, rfl, rfl, rfl⟩

/-- A discarded access sets REG_ACCESS_ERR (R7, R113). -/
theorem regErr_raises (s : State) (f : Func) (off : Nat) : bit (getIrq (regErr s f off) (plKey f)).status 31 = true :=
  raiseIrq_on _ _ _ _ (by decide)

/-! ## Configuration requests and link events (R81-R83, R113) -/

/-- A cause raised leaves the links as they have trained. -/
theorem raiseIrq_mode (s : State) (pl b : Nat) (again : Bool) : (raiseIrq s pl b again).link.mode = s.link.mode := by
  unfold raiseIrq sendMsi
  dsimp only
  (repeat' split) <;> rfl

/-- What the function's configuration space says (R82). -/
theorem configSpace_eq (s : State) (f : Func) : configSpace s f =
    { maxPayload := 512, msix := true, msixSize := msixSize s f, sriov := decide (f.vf = 0)
      vfs := (if f.vf = 0 then (dcrByte s (12 + plKey f)).toNat else 0), ats := false, pasid := false
      peer := false, ide := false, rest := Config.configRest (fkey f) } := by
  have hp : isPf f = decide (f.vf = 0) := rfl
  simp only [configSpace, hp, decide_eq_true_eq]

/-- A configuration request to a device that is ready. -/
theorem execConfigurationRequest_ready (hp : 8 ≤ s.power.phase) (hst : s.power.st = .run ∨ s.power.st = .standby) :
    execConfigurationRequest f s = .next { s with answer := .config (configSpace s f) } := by
  simp [execConfigurationRequest, hp, hst]

/-- One to a device that boots. -/
theorem execConfigurationRequest_retry (hp : s.power.phase < 8) :
    execConfigurationRequest f s = .next { s with answer := .retry } := by
  simp [execConfigurationRequest, Nat.not_le.2 hp]

end

/-- Settles O47: each request by its row in powerRequest; AON_ONLY by what a main reset and an erase leave. -/
theorem powerRequests : Obligations.PowerRequests := by
  unfold Obligations.PowerRequests
  intro f s port link m p lf
  refine ⟨fun ho hf hst hn hq => ?_, fun ho hf hst hq => ?_, fun ho hf hst => ?_, fun ho hf hst => ?_, fun h hf => ?_,
    fun hp hst => ?_, fun hp => execConfigurationRequest_retry hp, fun ho => ?_, fun ho => ?_⟩
  · refine ⟨_, congrArg Host.Outcome.next ((pwrCmd_requests 2 ho hf).trans (powerRequest_standby hst hn hq)), ?_⟩
    exact ⟨rfl, rfl, hst, rfl, rfl, rfl⟩
  · refine ⟨_, congrArg Host.Outcome.next ((pwrCmd_requests 2 ho hf).trans (powerRequest_standbyBusy hst hq)), ?_⟩
    exact ⟨by simp [gateWritten, p], by simpa [gateWritten] using hst, regErr_raises .., by simp [gateWritten]⟩
  · refine ⟨_, congrArg Host.Outcome.next ((pwrCmd_requests 3 ho hf).trans (powerRequest_run hst)), ?_⟩
    exact ⟨rfl, rfl, rfl, rfl, rfl, rfl, rfl, rfl⟩
  · obtain ⟨hfuses, hmem⟩ := eraseStore_frame (gateWritten s) false
    obtain ⟨hf', hm', hk, hs, hr, hph, hc⟩ := mainReset_spec (eraseStore (gateWritten s) false)
    have hex := (pwrCmd_requests 1 ho hf).trans (powerRequest_aonOnly (s := gateWritten s) hst)
    refine ⟨_, congrArg Host.Outcome.next hex, rfl, ?_⟩
    dsimp only
    exact ⟨hph, hc, hk, hs, hr, hf'.trans hfuses, hm'.trans hmem⟩
  · exact ⟨congrArg _ (pwrCmd_refused 2 h hf), congrArg _ (pwrCmd_refused 3 h hf), congrArg _ (pwrCmd_refused 1 h hf)⟩
  · exact ⟨_, (execConfigurationRequest_ready hp hst).trans (by rw [configSpace_eq])⟩
  · refine ⟨_, congrArg Host.Outcome.next (if_pos ho), ?_, raiseIrq_on _ _ _ _ (by decide), fun k hk => ?_, ?_⟩
    · rw [raiseIrq_mode]
      exact sget_sput_self none s.link.mode (plKey lf) (some m)
    · exact raiseIrq_ne _ _ _ _ _ hk
    · exact raiseIrq_frame _ _ _ _ _ _
  · exact congrArg Host.Outcome.next (if_neg (Bool.eq_false_iff.1 ho))

end Sys2Proof.Machine
end

section
/-!
PROOFS. NOP, RANDOM and the hand services: a service at its turn whose checks pass commits, and what a changed hand
writes.
-/
namespace Sys2Proof.Machine

/-! ## A hand written (R205, R300) -/

section
variable (s : State) (h : Nat) (gs : List Nat) (f : Hand → Hand)

theorem getHand_writeHand : getHand (writeHand s h gs f) h = f (getHand s h) := getHand_modHand s h f

theorem getHand_writeHand_ne {j : Nat} (hj : j ≠ h) : getHand (writeHand s h gs f) j = getHand s j :=
  getHand_modHand_ne s f hj

/-- A write of granules tags them, and no other. -/
theorem sget_foldl_storeTag {α : Type} [DecidableEq α] (d v : α) (m : SMap α) (n : Nat) :
    sget d (gs.foldl (fun m g => sput d m (storeTag g) v) m) (storeTag n) =
      if n ∈ gs then v else sget d m (storeTag n) := by
  have hmap := sget_foldl_sput d v (gs.map storeTag) m (storeTag n)
  rw [List.foldl_map] at hmap
  have hinj : Function.Injective storeTag := fun a b e => Nat.add_left_cancel e
  simpa only [List.mem_map_of_injective hinj] using hmap

/-- The hand's header and the granules named take its suit, in sound tag entries. -/
theorem writeHand_tags (n : Nat) :
    sget 0 (writeHand s h gs f).prot.tags (storeTag n) =
        (if n ∈ h :: gs then (f (getHand s h)).suit else sget 0 s.prot.tags (storeTag n))
      ∧ sget false (writeHand s h gs f).prot.badTags (storeTag n) =
        (if n ∈ h :: gs then false else sget false s.prot.badTags (storeTag n)) :=
  ⟨sget_foldl_storeTag (h :: gs) 0 _ _ n, sget_foldl_storeTag (h :: gs) false false _ n⟩

/-- The words of granules written are fresh. -/
theorem tagStore_words (suit : BitVec 16) {k : Nat} (hk : k ∈ gs.flatMap storeWords) :
    sget none (tagStore s gs suit).prot.bad k = none ∧ sget false (tagStore s gs suit).prot.written k = true := by
  obtain ⟨hfresh, -, -⟩ := wordsWritten_of_prot (s := s) (t := freshWords s (gs.flatMap storeWords)) rfl
  obtain ⟨hbad, -, hwritten⟩ := hfresh k hk
  exact ⟨hbad, hwritten⟩

end

/-! ## A service at its turn (R217) -/

section
variable {s : State} {i sq op : Nat} {g : Flight}

/-- The flight that house firmware takes up has the opcode asked for. -/
theorem houseTurn_op (h : houseTurn s i sq op = some g) : g.desc.op = op := by
  unfold houseTurn at h
  split at h
  · have hfound := List.find?_some h
    simp only [Bool.and_eq_true, decide_eq_true_eq] at hfound
    obtain ⟨-, hop, -⟩ := hfound
    exact hop
  · cases h

theorem Turn.op_eq (h : Turn s i sq op g) : g.desc.op = op := houseTurn_op h.1

/-- Output moves the clock no further. -/
theorem putTricks_round (u : State) (i : Nat) (g : Flight) (off : Nat) (b : Bytes) :
    (putTricks u i g off b).1.round = u.round := (putTricks_keeps (.refl u)).round_eq

section
variable {c : Instr} {keyed other : List Fail} {gs : List Nat} {f : State → State × Bytes} {u : State} {out : Bytes}

/-- A service whose checks pass and whose granules are sound ends as its commit does. -/
theorem Turn.answers (ht : Turn s i sq op g) (he : exec c s = .next (serve s i g keyed other gs f))
    (hk : keyed = []) (ho : other = []) (hg : SoundGranules s gs) (hf : f s = (u, out)) (hr : u.round = s.round) :
    Answers c s u i g out := by
  obtain ⟨-, hspan⟩ := ht
  have hends := commitHouse_ends u i g out
  rw [putTricks_round, hr] at hends
  refine ⟨_, he, ?_⟩
  rw [serve_passes s i g keyed other gs f hk ho hspan hg, hf]
  exact hends

/-- A service that writes no output commits. -/
theorem Turn.commits (ht : Turn s i sq op g) (he : exec c s = .next (serve s i g keyed other gs f))
    (hk : keyed = []) (ho : other = []) (hg : SoundGranules s gs) (hf : f s = (u, [])) (hr : u.round = s.round) :
    Commits c s u i g := by
  obtain ⟨-, hspan⟩ := ht
  refine ⟨_, he, ?_⟩
  rw [serve_passes s i g keyed other gs f hk ho hspan hg, hf, commitHouse_nil, hr]
  exact decide_ends ..

end

/-- HAND_FREE and SLOT_CLEAR wait for nothing but a hand in use. -/
theorem serviceWaits_of_unheld (hop : g.desc.op = 0x51 ∨ g.desc.op = 0x52) (hh : heldService s i g.desc = false) :
    serviceWaits s i g = false := by
  rcases hop with h | h <;> simp [serviceWaits, h, hh]

/-- KEY_GEN waits for nothing once its blocks are delivered. -/
theorem serviceWaits_of_drawn {r : Round} (hop : g.desc.op = 0x53) (hg : g.granted = some r) (hr : r < s.round) :
    serviceWaits s i g = false := by
  simp [serviceWaits, hop, hg, hr]

/-- The checks on a slot pass where it holds an object that fits. -/
theorem slotNamed_nil {k : KeyObj} {p : KeyObj → Bool} (hk : slotObj (getHand s (handleHand g.desc.key0)) g.desc.slot0 = some k)
    (hc : chainFails s (handleHand g.desc.key0) g.desc.slot0 = []) (hp : p k = true) : slotNamed s g.desc p = [] := by
  simp [slotNamed, slotFails, hk, hc, need_nil.2 hp]

end

/-! ## NOP and RANDOM -/

section
variable {seat : Fin 8192} {sq : Nat} {s : State} {g : Flight}

theorem execNop_ends
    (h : Names s seat.val sq g fun h => h.decided.isNone && h.dmaErr.isNone && decide (h.desc.op = 0)) :
    ∃ t, exec (.nop seat sq) s = .next t ∧ Ends s t seat.val g.seq ⟨.done, 0, g.fetched, false⟩ := by
  refine ⟨_, ?_, decide_ends ..⟩
  change execNop seat sq s = _
  rw [execNop, show flightBySq s seat.val sq _ = some g from h]

theorem execRandom_ends {r : Round} {u : State}
    (h : Names s seat.val sq g fun h => h.decided.isNone && decide (h.desc.op = 0x60) && h.granted.isSome)
    (hg : g.granted = some r) (hr : r + 2 ≤ s.round) (hrun : running s = true)
    (hs : spanFails s (getSeat s seat.val).suit [] (dstSpans g) g.resvOut = [])
    (hu : putTricks s seat.val g 0 ((blockBytes g.blocks).take g.desc.l) = (u, false)) :
    ∃ t, exec (.random seat sq) s = .next t ∧ Ends u t seat.val g.seq ⟨.done, 0, r + 2, false⟩ := by
  refine ⟨_, ?_, decide_ends ..⟩
  change execRandom seat sq s = _
  rw [execRandom, show flightBySq s seat.val sq _ = some g from h]
  simp [hg, hr, hrun, hs, worst, hu]

end

/-! ## The hand services (R216-R221) -/

section
variable {seat : Fin 8192} {sq : Nat} {s : State} {g : Flight}

/-- HAND_ALLOC answers the handle of the hand it makes LIVE. -/
theorem execHandAlloc_answers {h : Nat} (ht : Turn s seat.val sq 0x50 g) (hready : s.keys.ready = true)
    (hp : svcParam g.desc false false true 8 = []) (hpol : fld (byteAt g.desc.inl 4) 7 2 = 0)
    (hzero : byteAt g.desc.inl 5 = 0) (hcap : 4 ≤ g.desc.cap) (hh : emptyHand s = some h) (hw : SoundGranules s [h]) :
    Answers (.handAlloc seat sq) s (allocHand s seat.val h g.desc) seat.val g
      (natLe 2 h ++ natLe 2 (nextGen s.aon.epoch (getHand s h).gen).toNat) := by
  apply ht.answers
  case he =>
    change execHandAlloc seat sq s = _
    rw [execHandAlloc, ht.1]
  case hk => rfl
  case ho => simp [need, hready, hp, hpol, hzero, hcap, hh]
  case hg => simpa [hh] using hw
  case hf => simp [hh, allocHand, getHand_writeHand]
  case hr => rfl

theorem execHandFree_commits (ht : Turn s seat.val sq 0x51 g)
    (hn : handFails s seat.val g.desc.key0 0x0C01 0x0806 = []) (hp : svcParam g.desc false false false 0 = [])
    (h0 : g.desc.slot0 = 0) (hh : heldService s seat.val g.desc = false) (hw : SoundGranules s [handleHand g.desc.key0]) :
    Commits (.handFree seat sq) s
      (zeroGranules (writeHand s (handleHand g.desc.key0) [] fun y => { Hand.reset with gen := y.gen })
        ((getHand s (handleHand g.desc.key0)).slots.flatMap fun e => match e.2 with | some k => k.gran | none => []))
      seat.val g := by
  apply ht.commits
  case he =>
    change execHandFree seat sq s = _
    rw [execHandFree, ht.1]
    exact if_neg (by simp [serviceWaits_of_unheld (.inl ht.op_eq) hh])
  case hk => exact hn
  case ho => simp [freeChecks, hp, h0, need]
  case hg => exact hw
  case hf => rfl
  case hr => exact (zeroGranules_keeps (writeHand_keeps (.refl s))).round_eq

theorem execSlotClear_commits {k : KeyObj} (ht : Turn s seat.val sq 0x52 g)
    (hn : handFails s seat.val g.desc.key0 0x0C01 0x0806 = [])
    (hk : slotObj (getHand s (handleHand g.desc.key0)) g.desc.slot0 = some k)
    (hc : chainFails s (handleHand g.desc.key0) g.desc.slot0 = []) (hp : svcParam g.desc false false false 0 = [])
    (hh : heldService s seat.val g.desc = false)
    (hw : SoundGranules s (loadGranules s (handleHand g.desc.key0) [g.desc.slot0])) :
    Commits (.slotClear seat sq) s
      (zeroGranules (writeHand s (handleHand g.desc.key0) [] fun y =>
        { y with slots := sput none y.slots g.desc.slot0 none }) k.gran) seat.val g := by
  apply ht.commits
  case he =>
    change execSlotClear seat sq s = _
    rw [execSlotClear, ht.1]
    exact if_neg (by simp [serviceWaits_of_unheld (.inr ht.op_eq) hh])
  case hk => exact List.append_eq_nil_iff.2 ⟨hn, slotNamed_nil hk hc rfl⟩
  case ho => exact hp
  case hg => exact hw
  case hf => simp only [hk]
  case hr => exact (zeroGranules_keeps (writeHand_keeps (.refl s))).round_eq

theorem execKeyGen_commits {r : Round} (ht : Turn s seat.val sq 0x53 g) (hn : newTarget s seat.val g false = [])
    (hp : svcParam g.desc true true false 2 = []) (hlo : 1 ≤ g.desc.modeHi) (hhi : g.desc.modeHi ≤ 5)
    (hlegal : keyGenLegal g.desc = true) (hroom : objGranules (inl16 g.desc 0) ≤ granFree s) (hg : g.granted = some r)
    (hr : r < s.round) (hw : SoundGranules s [handleHand g.desc.key1]) :
    Commits (.keyGen seat sq) s
      (putKey s (handleHand g.desc.key1) g.desc.slot1
        { type := BitVec.ofNat 4 g.desc.modeHi, param := 0, usage := (getHand s (handleHand g.desc.key1)).defUse
          mat := genMaterial g.desc.modeHi (inl16 g.desc 0) (blockBytes g.blocks), gran := [] }) seat.val g := by
  apply ht.commits
  case he =>
    change execKeyGen seat sq s = _
    rw [execKeyGen, ht.1]
    exact if_neg (by simp [serviceWaits_of_drawn ht.op_eq hg hr])
  case hk => exact hn
  case ho => simp [genChecks, hp, hlo, hhi, hlegal, hroom, need]
  case hg => exact hw
  case hf => rfl
  case hr => rfl

theorem execSlotInfo_answers {k : KeyObj} (ht : Turn s seat.val sq 0x56 g)
    (hn : handFails s seat.val g.desc.key0 0x0C01 0x0806 = [])
    (hk : slotObj (getHand s (handleHand g.desc.key0)) g.desc.slot0 = some k)
    (hc : chainFails s (handleHand g.desc.key0) g.desc.slot0 = []) (hp : svcParam g.desc false false true 0 = [])
    (hcap : 8 ≤ g.desc.cap) (hw : SoundGranules s (loadGranules s (handleHand g.desc.key0) [g.desc.slot0])) :
    Answers (.slotInfo seat sq) s s seat.val g (objHeader k) := by
  apply ht.answers
  case he =>
    change execSlotInfo seat sq s = _
    rw [execSlotInfo, ht.1]
  case hk => exact List.append_eq_nil_iff.2 ⟨hn, slotNamed_nil hk hc rfl⟩
  case ho => simp [hp, hcap, need]
  case hg => exact hw
  case hf => simp only [hk]
  case hr => rfl

theorem execUsageTighten_commits {k : KeyObj} (ht : Turn s seat.val sq 0x57 g)
    (hn : handFails s seat.val g.desc.key0 0x0C01 0x0806 = [])
    (hk : slotObj (getHand s (handleHand g.desc.key0)) g.desc.slot0 = some k)
    (hc : chainFails s (handleHand g.desc.key0) g.desc.slot0 = []) (hp : svcParam g.desc false false false 3 = [])
    (hpol : fld (byteAt g.desc.inl 2) 7 2 = 0)
    (hw : SoundGranules s (loadGranules s (handleHand g.desc.key0) [g.desc.slot0])) :
    Commits (.usageTighten seat sq) s
      (writeHand s (handleHand g.desc.key0) (k.gran.take 1) fun y =>
        { y with
          policy := y.policy &&& byteAt g.desc.inl 2
          slots := sput none y.slots g.desc.slot0
            (some { k with usage := k.usage &&& BitVec.ofNat 16 (inl16 g.desc 0) }) }) seat.val g := by
  apply ht.commits
  case he =>
    change execUsageTighten seat sq s = _
    rw [execUsageTighten, ht.1]
  case hk => exact List.append_eq_nil_iff.2 ⟨hn, slotNamed_nil hk hc rfl⟩
  case ho => simp [hp, hpol, need]
  case hg => exact hw
  case hf => simp [writeHand, modHand, hk, firstGran]
  case hr => rfl

theorem execPubkeyRead_answers {k : KeyObj} (ht : Turn s seat.val sq 0x5A g)
    (hn : handFails s seat.val g.desc.key0 0x0C01 0x0806 = [])
    (hk : slotObj (getHand s (handleHand g.desc.key0)) g.desc.slot0 = some k)
    (hc : chainFails s (handleHand g.desc.key0) g.desc.slot0 = []) (htype : 6 ≤ k.type.toNat)
    (hp : svcParam g.desc false false true 0 = []) (hcap : (publicPart k).length ≤ g.desc.cap)
    (hw : SoundGranules s (loadGranules s (handleHand g.desc.key0) [g.desc.slot0])) :
    Answers (.pubkeyRead seat sq) s s seat.val g (publicPart k) := by
  apply ht.answers
  case he =>
    change execPubkeyRead seat sq s = _
    rw [execPubkeyRead, ht.1]
  case hk => exact List.append_eq_nil_iff.2 ⟨hn, slotNamed_nil hk hc (decide_eq_true htype)⟩
  case ho => simp [hp, hk, hcap, need]
  case hg => exact hw
  case hf => simp only [hk]
  case hr => rfl

theorem execSlotRetype_commits {k : KeyObj} (ht : Turn s seat.val sq 0x5B g)
    (hn : handFails s seat.val g.desc.key0 0x0C01 0x0806 = [])
    (hk : slotObj (getHand s (handleHand g.desc.key0)) g.desc.slot0 = some k)
    (hc : chainFails s (handleHand g.desc.key0) g.desc.slot0 = []) (htype : k.type = 5) (huse : bit k.usage 10 = true)
    (hnew : newTarget s seat.val g true = []) (hp : svcParam g.desc true true false 2 = []) (hlo : 1 ≤ g.desc.modeHi)
    (hhi : g.desc.modeHi ≤ 4) (hmode : g.desc.modeLo = 0) (hlen : lenLegal g.desc.modeHi k.mat.length = true)
    (hroom : objGranules k.mat.length ≤ granFree s)
    (hw : SoundGranules s (loadGranules s (handleHand g.desc.key0) [g.desc.slot0] ++ [handleHand g.desc.key1])) :
    Commits (.slotRetype seat sq) s
      (putKey s (handleHand g.desc.key1) g.desc.slot1
        { type := BitVec.ofNat 4 g.desc.modeHi, param := 0
          usage := usageOf (inl16 g.desc 0) &&& (getHand s (handleHand g.desc.key1)).defUse, mat := k.mat, gran := [] })
      seat.val g := by
  apply ht.commits
  case he =>
    change execSlotRetype seat sq s = _
    rw [execSlotRetype, ht.1]
  case hk =>
    refine List.append_eq_nil_iff.2 ⟨List.append_eq_nil_iff.2 ⟨hn, slotNamed_nil hk hc ?_⟩, hnew⟩
    simp [htype, uRetype, huse, hlen]
  case ho => simp [hp, hk, hlo, hhi, hmode, hroom, need]
  case hg => exact hw
  case hf => simp only [hk]
  case hr => rfl

end

/-- Settles O52: each service at its turn passes its checks and commits; a change of a hand writes its granules. -/
theorem services : Obligations.Services := by
  intro seat sq s g
  refine ⟨execNop_ends, fun r u hn hg hr hrun hs hu => execRandom_ends hn hg hr hrun hs hu,
    fun h ht hready hp hpol hzero hcap hh hw =>
      ⟨execHandAlloc_answers ht hready hp hpol hzero hcap hh hw, getHand_writeHand ..⟩,
    execHandFree_commits, fun k => execSlotClear_commits, fun r => execKeyGen_commits, fun k => execSlotInfo_answers,
    fun k => execUsageTighten_commits, fun k => execPubkeyRead_answers, fun k => execSlotRetype_commits, fun h gs f => ?_⟩
  refine ⟨getHand_writeHand .., fun j hj => getHand_writeHand_ne s h gs f hj, fun n hn => ?_, fun n hn => ?_,
    fun k hk => tagStore_words (modHand s h f) (h :: gs) _ hk, rfl⟩
  · simpa only [if_pos hn] using writeHand_tags s h gs f n
  · simpa only [if_neg hn] using writeHand_tags s h gs f n

end Sys2Proof.Machine
end

section
/-!
PROOFS. Ceremonies: a STORE_INIT without a grant that nevertheless holds every block it needs.
-/
namespace Sys2Proof.Machine

/-- A device that has booted, in an open quorum session, after its random-bit generator failed. Its key store is wiped, and
lacks a ROOT_KEY and a rearm: five blocks. -/
def failedRng : State := { State.reset with
  round := 100
  power := { Power.reset with phase := 8, clock := true, perst0 := false, perst1 := false }
  house := { House.reset with running := true }
  keys := { State.reset.keys with wipeLeft := 0 }
  rng := { Rng.reset with st := .failed }
  quorum := { Quorum.reset with st := .open_, m := 2 } }

/-- A STORE_INIT that waits without a grant and holds five blocks: nothing is left to reserve. -/
def fullInit : Flight :=
  { newFlight failedRng 0 (parseDesc (0x70 :: zeros 63)) with
    begun := some 90, waitFrom := some 90, blocks := [1, 2, 3, 4, 5] }

/-- That STORE_INIT alone on seat 0, which runs. -/
def failedAtInit : State := setSeat failedRng 0 { Seat.reset with st := .run, suit := 1, flights := [fullInit] }

/-- Some descriptor of seat 0 has its status. -/
def decidesSeat0 : Out → Bool
  | .next t => (getSeat t 0).flights.any fun g => g.decided.isSome
  | _ => false

theorem turn_fullInit : Turn failedAtInit 0 0 0x70 fullInit := by
  constructor <;> decide +kernel

/-- No draw of blocks is possible, not even one of none. -/
theorem houseHas_failedAtInit : houseHas failedAtInit (initBlocks failedAtInit - fullInit.blocks.length) = false := by
  decide +kernel

/-- With every block held the ceremony commits in this round (R227). -/
theorem execStoreInit_full : decidesSeat0 (exec (.storeInit 0 0) failedAtInit) = true := by decide +kernel

/-- Refutes O54: the clause on a STORE_INIT that waits takes every state in which the house draw of the missing blocks
fails. With a failed generator that includes a draw of no blocks: there the ceremony lacks nothing, and it commits. -/
theorem not_ceremonies : ¬ Obligations.Ceremonies := by
  unfold Obligations.Ceremonies
  intro h
  obtain ⟨hinit, -⟩ := h 0 0 failedAtInit fullInit
  obtain ⟨-, hwaits, -⟩ := hinit turn_fullInit (by decide +kernel) (by decide) (by decide +kernel) (by decide) (by decide)
    (by decide) (by decide)
  have hcommits := execStoreInit_full
  rw [show exec (.storeInit 0 0) failedAtInit = _ from hwaits rfl houseHas_failedAtInit] at hcommits
  exact absurd hcommits (by decide +kernel)

end Sys2Proof.Machine
end

section
/-!
PROOFS. The lock of a descriptor's kitty slots.
-/
namespace Sys2Proof.Machine

/-! ## A slot at the lock (R122) -/

/-- A list without its repetitions holds each entry once. -/
theorem nodup_eraseDups {α : Type} [BEq α] [LawfulBEq α] (l : List α) : l.eraseDups.Nodup := by
  match l with
  | [] => exact List.nodup_nil
  | a :: l =>
    rw [List.eraseDups_cons, List.nodup_cons]
    exact ⟨by simp [List.mem_eraseDups], nodup_eraseDups _⟩
termination_by l.length
decreasing_by exact Nat.lt_succ_of_le (List.length_filter_le _ _)

section
variable (s : State) (i : Nat) (g : Flight) (k : Nat)

/-- A slot that passes: DEVICE for the seat. -/
abbrev LockPasses : Prop := (getFlag s k).owner = 2 ∧ (getFlag s k).seat.toNat = i

/-- A slot to wait for: an earlier descriptor of the seat holds it LOCKED. -/
abbrev LockWaits : Prop :=
  (getFlag s k).owner = 3 ∧ (getFlag s k).seat.toNat = i ∧ sget 0 s.kitty.holder k ≤ g.seq

theorem lockCheck_eq : lockCheck s i g k =
    if LockPasses s i k then .pass else if LockWaits s i g k then .wait else .fail := rfl

variable {s i g k}

theorem lockCheck_pass (h : LockPasses s i k) : lockCheck s i g k = .pass := if_pos h

theorem lockCheck_fail_iff : lockCheck s i g k = .fail ↔ ¬LockPasses s i k ∧ ¬LockWaits s i g k := by
  rw [lockCheck_eq]
  by_cases hp : LockPasses s i k
  · rw [if_pos hp]
    exact iff_of_false LockCheck.noConfusion fun h => h.1 hp
  · rw [if_neg hp]
    by_cases hw : LockWaits s i g k
    · rw [if_pos hw]
      exact iff_of_false LockCheck.noConfusion fun h => h.2 hw
    · rw [if_neg hw]
      exact iff_of_true rfl ⟨hp, hw⟩

end

/-! ## The lock of a descriptor (R118, R122) -/

section
variable {seat : Fin 8192} {sq : Nat} {s : State} {g : Flight}

/-- A descriptor whose fragment lists are there and whose slots are to be locked in this round. -/
def awaitsLock (s : State) (h : Flight) : Bool :=
  h.decided.isNone && h.checked && !h.locked && listsIn h && decide (h.lockFrom ≤ s.round) && (kittyNamed h).length != 0

/-- The state in which a descriptor has locked its slots. -/
def lockedWhole (s : State) (i : Nat) (g : Flight) : State :=
  modFlight ((kittyNamed g).foldl (fun t k => lockSlot t g k) s) i g.seq fun x => { x with locked := true }

/-- What KITTY_LOCK does for the descriptor it names. -/
def lockTurn (s : State) (i : Nat) (g : Flight) : Out :=
  if (kittyNamed g).any fun k => s.kitty.touched.contains k then
    .next (modFlight s i g.seq fun x => { x with lockFrom := s.round + 1 })
  else
    match ((kittyNamed g).filter fun k => lockCheck s i g k == .fail).min? with
    | some k => .next (decide_ s i g.seq .bounds (BitVec.ofNat 16 (0x1000 + k)) s.round false)
    | none => if (kittyNamed g).all fun k => lockCheck s i g k == .pass then .next (lockedWhole s i g) else .next s

variable (hr : running s = true) (hh : seatState s (getSeat s seat.val) ≠ .halted)
  (hn : Names s seat.val sq g (awaitsLock s))
include hr hh hn

theorem execKittyLock_named : execKittyLock seat sq s = lockTurn s seat.val g := by
  have hfound : flightBySq s seat.val sq (awaitsLock s) = some g := hn
  have hpast : haltPast s seat.val = false := by simp [haltPast, hh]
  unfold awaitsLock at hfound
  simp only [execKittyLock, hfound, hr, hpast]
  rfl

/-- A slot whose cycle the host took puts the lock off by a round (R118). -/
theorem execKittyLock_putOff (ht : ∃ k ∈ kittyNamed g, k ∈ s.kitty.touched) :
    execKittyLock seat sq s = .next (modFlight s seat.val g.seq fun x => { x with lockFrom := s.round + 1 }) := by
  rw [execKittyLock_named hr hh hn, lockTurn, if_pos (by simpa using ht)]

/-- Slots that all pass are locked whole. -/
theorem execKittyLock_locks (ht : ∀ k ∈ kittyNamed g, k ∉ s.kitty.touched)
    (hp : ∀ k ∈ kittyNamed g, LockPasses s seat.val k) :
    execKittyLock seat sq s = .next (lockedWhole s seat.val g) := by
  have hpass : ∀ k ∈ kittyNamed g, lockCheck s seat.val g k = .pass := fun k hk => lockCheck_pass (hp k hk)
  have hfails : (kittyNamed g).filter (fun k => lockCheck s seat.val g k == .fail) = [] :=
    List.filter_eq_nil_iff.2 fun k hk => by simp [hpass k hk]
  rw [execKittyLock_named hr hh hn, lockTurn, if_neg (by simpa using ht), hfails]
  exact if_pos (by simpa using hpass)

/-- The lowest slot that fails outright ends the descriptor with BOUNDS. -/
theorem execKittyLock_fails {k : Nat} (ht : ∀ k ∈ kittyNamed g, k ∉ s.kitty.touched) (hk : k ∈ kittyNamed g)
    (hp : ¬LockPasses s seat.val k) (hw : ¬LockWaits s seat.val g k)
    (hlow : ∀ j ∈ kittyNamed g, j < k → LockPasses s seat.val j ∨ LockWaits s seat.val g j) :
    execKittyLock seat sq s =
      .next (decide_ s seat.val g.seq .bounds (BitVec.ofNat 16 (0x1000 + k)) s.round false) := by
  have hmin : ((kittyNamed g).filter fun k => lockCheck s seat.val g k == .fail).min? = some k := by
    simp only [List.min?_eq_some_iff, List.mem_filter, beq_iff_eq, lockCheck_fail_iff]
    refine ⟨⟨hk, hp, hw⟩, fun j ⟨hj, hjp, hjw⟩ => Nat.not_lt.1 fun hjk => ?_⟩
    exact (hlow j hj hjk).elim hjp hjw
  rw [execKittyLock_named hr hh hn, lockTurn, if_neg (by simpa using ht), hmin]

end

/-- Settles O31: the descriptor's slots checked one by one, those that all pass locked by lockSlots_flags. -/
theorem kittyLocks : Obligations.KittyLocks := by
  unfold Obligations.KittyLocks
  intro seat sq s g k i ks mine waits hr hh hn
  refine ⟨fun ht => execKittyLock_putOff hr hh hn ht, fun ht hp => ?_, fun ht hk hp hw hlow => ?_⟩
  · obtain ⟨hflags, hrest⟩ := lockSlots_flags g ks s (nodup_eraseDups _)
    have hseat : getSeat (ks.foldl (fun t k => lockSlot t g k) s) i = getSeat s i := by
      simpa only [getSeat] using congrArg (fun t : State => getSeat t i) hrest
    refine ⟨_, execKittyLock_locks hr hh hn ht hp, hflags, ?_,
      congrArg (fun t : State => { t with seats := s.seats }) hrest⟩
    rw [lockedWhole, getSeat_modFlight, hseat]
  · exact ⟨_, execKittyLock_fails hr hh hn ht hk hp hw hlow, decide_ends ..⟩

end Sys2Proof.Machine
end

section
/-!
PROOFS. Host writes of the flag page.
-/
namespace Sys2Proof.Machine

/-! ## A device transition undone (R118) -/

section
variable (s : State) (k : Nat)

/-- From s to t device transitions are undone: of the kitty the counters and the releases put off stand,
and of the rest of the state everything but the flights. -/
structure Undone (s t : State) : Prop where
  refused : t.kitty.refused = s.kitty.refused
  putOff : t.kitty.putOff = s.kitty.putOff
  rest : { t with kitty := s.kitty, seats := s.seats } = s

theorem undoLock_undone (m : FlagMove) : Undone s (undoLock s m) := by
  unfold undoLock
  split <;> exact ⟨rfl, rfl, rfl⟩

theorem Undone.prot {s t : State} (h : Undone s t) : t.prot = s.prot := by
  simpa only using congrArg State.prot h.rest

theorem Undone.trans {s t u : State} (h : Undone s t) (h' : Undone t u) : Undone s u :=
  ⟨h'.refused.trans h.refused, h'.putOff.trans h.putOff,
    (congrArg (fun v : State => { v with kitty := s.kitty, seats := s.seats }) h'.rest).trans h.rest⟩

theorem undoLocks_undone (ms : List FlagMove) (s : State) : Undone s (ms.foldl undoLock s) := by
  induction ms generalizing s with
  | nil => exact ⟨rfl, rfl, rfl⟩
  | cons m ms ih => exact (undoLock_undone s m).trans (ih _)

/-- The last device transition of this round on slot k. -/
def lastMove : Option FlagMove := s.kitty.moves.reverse.find? fun m => m.slot == k

variable {s k}

theorem undoMove_none (h : lastMove s k = none) : undoMove s k = s := by
  unfold lastMove at h
  simp only [undoMove, h]

/-- A release goes back and is put off. -/
theorem undoMove_release {m : FlagMove} (h : lastMove s k = some m) (hm : m.lock = none) :
    undoMove s k = { s with kitty := { s.kitty with
      flags := sput .reset s.kitty.flags k m.before, moves := s.kitty.moves.filter fun x => x != m
      putOff := s.kitty.putOff ++ [m] } } := by
  unfold lastMove at h
  simp only [undoMove, h, hm]
  rfl

/-- The moves by which the descriptor with this fetch order locked its slots. -/
def locksOf (s : State) (q : Nat) : List FlagMove := s.kitty.moves.filter fun x => x.lock.any fun y => y.1 == q

/-- A lock goes back whole, and its descriptor tries again in the next round. -/
theorem undoMove_lock {m : FlagMove} {p : Nat × Nat × Bool} (h : lastMove s k = some m) (hm : m.lock = some p) :
    undoMove s k = modFlight ((locksOf s p.1).foldl undoLock s) m.before.seat.toNat p.1
      fun g => { g with locked := false, lockFrom := s.round + 1 } := by
  unfold lastMove at h
  simp only [undoMove, h, hm]
  rfl

/-- What an undone transition leaves. -/
theorem undoMove_frame (s : State) (k : Nat) : (undoMove s k).kitty.refused = s.kitty.refused
    ∧ (undoMove s k).prot = s.prot := by
  cases h : lastMove s k with
  | none => rw [undoMove_none h]; exact ⟨rfl, rfl⟩
  | some m =>
    cases hm : m.lock with
    | none => rw [undoMove_release h hm]; exact ⟨rfl, rfl⟩
    | some p =>
      have hback := undoLocks_undone (locksOf s p.1) s
      rw [undoMove_lock h hm]
      exact ⟨hback.refused, hback.prot⟩

/-- The flight found under a fetch order after every flight with it was changed. -/
theorem flightBySeq_modFlight {s : State} {i q : Nat} {f : Flight → Flight} {h : Flight}
    (hfound : flightBySeq (modFlight s i q f) i q = some h) : ∃ g, h = f g := by
  have hseq := List.find?_some hfound
  have hmem := List.mem_of_find?_eq_some hfound
  rw [getSeat_modFlight] at hmem
  obtain ⟨g, -, rfl⟩ := List.mem_map.1 hmem
  by_cases hg : g.seq = q
  · exact ⟨g, if_pos hg⟩
  · rw [if_neg hg] at hseq
    exact absurd (beq_iff_eq.1 hseq) hg

end

/-! ## The word written (R114, R115) -/

theorem leNat_lt (b : Bytes) : leNat b < 256 ^ b.length := by
  induction b with
  | nil => exact Nat.one_pos
  | cons x b ih =>
    have hx := x.isLt
    rw [leNat, List.length_cons, pow_succ]
    omega

/-- The fields of the word that four bytes make. -/
theorem fld_leNat {b : Bytes} (h : b.length = 4) (hi lo : Nat) :
    fld (BitVec.ofNat 32 (leNat b)) hi lo = bits (leNat b) hi lo := by
  have hlt : leNat b < 2 ^ 32 := by simpa [h] using leNat_lt b
  rw [fld, BitVec.toNat_ofNat, Nat.mod_eq_of_lt hlt]

/-! ## A transition by the host (R117) -/

section
variable (s : State) (f : Func) (k v : Nat)

/-- The transitions that R117 gives the host, from a flag word to an owner and a seat. -/
def MoveLegal (cur : Flag) (owner seat : Nat) : Prop :=
  cur.owner = ownFree ∧ owner = 1 ∧ boundTo s seat f = true ∧ seatState s (getSeat s seat) ≠ .off
      ∧ slotsHeld s f < getLimit s (fkey f)
    ∨ boundTo s cur.seat.toNat f = true ∧ seat = cur.seat.toNat ∧
      (cur.owner = ownHost ∧ owner = 2 ∨ cur.owner = ownHost ∧ owner = 0 ∨ cur.owner = ownDevice ∧ owner = 1)

theorem hostMove_iff (cur : Flag) {owner seat : Nat} (ho : owner < 4) (hs : seat < 8192) :
    hostMove s f cur (BitVec.ofNat 2 owner) (BitVec.ofNat 13 seat) = true ↔ MoveLegal s f cur owner seat := by
  have howner (n : Nat) (hn : n < 4) : BitVec.ofNat 2 owner = BitVec.ofNat 2 n ↔ owner = n := by
    rw [← BitVec.toNat_inj, BitVec.toNat_ofNat, BitVec.toNat_ofNat, Nat.mod_eq_of_lt ho, Nat.mod_eq_of_lt hn]
  have hto0 : BitVec.ofNat 2 owner = ownFree ↔ owner = 0 := howner 0 (by decide)
  have hto1 : BitVec.ofNat 2 owner = ownHost ↔ owner = 1 := howner 1 (by decide)
  have hto2 : BitVec.ofNat 2 owner = ownDevice ↔ owner = 2 := howner 2 (by decide)
  have hseat : (BitVec.ofNat 13 seat).toNat = seat := Nat.mod_eq_of_lt hs
  have hsame : BitVec.ofNat 13 seat = cur.seat ↔ seat = cur.seat.toNat := by rw [← BitVec.toNat_inj, hseat]
  unfold hostMove MoveLegal
  by_cases hfree : cur.owner = ownFree
  · have hhost : ¬ownFree = ownHost := by decide
    have hdevice : ¬ownFree = ownDevice := by decide
    rw [if_pos hfree]
    simp only [Bool.and_eq_true, decide_eq_true_eq, hto1, hseat, and_assoc, hfree, hhost, hdevice, true_and, false_and,
      and_false, or_false]
  · rw [if_neg hfree, or_iff_right fun h => hfree h.1]
    simp only [Bool.and_eq_true, Bool.or_eq_true, decide_eq_true_eq, hto0, hto1, hto2, hsame, and_assoc, and_or_left,
      or_assoc]

/-- The word v is accepted over a flag word (R115). -/
def FlagLegal (cur : Flag) (v : Nat) : Prop :=
  bits v 29 16 = cur.seq.toNat ∧ bits v 15 13 = 0 ∧ MoveLegal s f cur (bits v 31 30) (bits v 12 0)

end

section
variable {s : State} {f : Func} {k : Nat} {b : Bytes}

/-- A host write of four bytes is accepted where the word is legal. -/
theorem accepts_iff (cur : Flag) (v : Nat) :
    (bits v 29 16 = cur.seq.toNat ∧ bits v 15 13 = 0
        ∧ hostMove s f cur (BitVec.ofNat 2 (bits v 31 30)) (BitVec.ofNat 13 (bits v 12 0)) = true)
      ↔ FlagLegal s f cur v := by
  have howner : bits v 31 30 < 4 := Nat.mod_lt _ (by decide)
  have hseat : bits v 12 0 < 8192 := Nat.mod_lt _ (by decide)
  rw [hostMove_iff s f cur howner hseat, FlagLegal]

/-- The flag word that an accepted write leaves. -/
def flagAfter (cur : Flag) (v : Nat) : Flag :=
  ⟨BitVec.ofNat 2 (bits v 31 30), cur.seq + 1, BitVec.ofNat 13 (bits v 12 0)⟩

/-- An accepted write: the flag word moves, and a claim tags the slot (R115, R120). -/
theorem hostFlag_legal (hb : b.length = 4) (h : FlagLegal s f (getFlag s k) (leNat b)) :
    hostFlag s f k (BitVec.ofNat 32 (leNat b)) =
      let t := setFlag s k (flagAfter (getFlag s k) (leNat b))
      if (getFlag s k).owner = ownFree then
        tagGranules t (granule (kittyAddr (4096 * k))) 64 (getSeat s (BitVec.ofNat 13 (bits (leNat b) 12 0)).toNat).suit
      else t := by
  simp only [hostFlag, fld_leNat hb]
  exact if_pos ((accepts_iff _ _).2 h)

/-- Any other write is counted (R115). -/
theorem hostFlag_illegal (hb : b.length = 4) (h : ¬FlagLegal s f (getFlag s k) (leNat b)) :
    hostFlag s f k (BitVec.ofNat 32 (leNat b)) = refuseFlag s := by
  simp only [hostFlag, fld_leNat hb]
  exact if_neg (mt (accepts_iff _ _).1 h)

/-- What a host write of a flag word does to state s, leaving t. -/
structure FlagWritten (s t : State) (f : Func) (k v : Nat) : Prop where
  others : ∀ j, j ≠ k → getFlag t j = getFlag s j
  accepted : FlagLegal s f (getFlag s k) v →
    getFlag t k = flagAfter (getFlag s k) v ∧ t.kitty.refused = s.kitty.refused
  refused : ¬FlagLegal s f (getFlag s k) v →
    getFlag t k = getFlag s k ∧ t.kitty.refused = satAdd s.kitty.refused 1 ∧ t.prot = s.prot
  rest : { t with kitty := s.kitty, prot := s.prot } = s
  unclaimed : (getFlag s k).owner ≠ 0 → t.prot = s.prot

theorem hostFlag_written (hb : b.length = 4) :
    FlagWritten s (hostFlag s f k (BitVec.ofNat 32 (leNat b))) f k (leNat b) := by
  by_cases h : FlagLegal s f (getFlag s k) (leNat b)
  · rw [hostFlag_legal hb h]
    dsimp only
    split
    · next hfree =>
      exact ⟨fun j hj => getFlag_setFlag_ne s _ hj, fun _ => ⟨getFlag_setFlag .., rfl⟩, fun hn => absurd h hn, rfl,
        fun hn => absurd hfree hn⟩
    · exact ⟨fun j hj => getFlag_setFlag_ne s _ hj, fun _ => ⟨getFlag_setFlag .., rfl⟩, fun hn => absurd h hn, rfl,
        fun _ => rfl⟩
  · rw [hostFlag_illegal hb h]
    exact ⟨fun _ _ => rfl, fun hl => absurd hl h, fun _ => ⟨rfl, rfl, rfl⟩, rfl, fun _ => rfl⟩

/-- State t in which a host write took the cycle of slot k, where it came with a device transition (R118). -/
def cycleTaken (same : Bool) (k : Nat) (t : State) : State :=
  if same then { t with kitty := { t.kitty with touched := k :: t.kitty.touched } } else t

/-- Taking a cycle changes no flag word and no counter. -/
theorem FlagWritten.takesCycle {t : State} {v : Nat} (h : FlagWritten s t f k v) (same : Bool) :
    FlagWritten s (cycleTaken same k t) f k v := by
  cases same with
  | false => exact h
  | true => exact ⟨h.others, h.accepted, h.refused, h.rest, h.unclaimed⟩

/-- A write of a word of the flag page. -/
theorem execFlagWrite_word (same : Bool) (hr : Reaches s f) (hk : k < 4096) (hb : b.length = 4) :
    execFlagWrite f (0x1000000 + 4 * k) b same s = .next (cycleTaken same k
      (hostFlag (if same then undoMove s k else s) f k (BitVec.ofNat 32 (leNat b)))) := by
  obtain ⟨hhost, hhold⟩ := hr
  have htouches : (decide (flagPage < 0x1000000 + 4 * k + b.length)
      && decide (0x1000000 + 4 * k < flagPage + 4 * Config.kittySlots)) = true := by
    unfold flagPage Config.kittySlots
    exact Bool.and_eq_true_iff.2 ⟨decide_eq_true (by omega), decide_eq_true (by omega)⟩
  have hword : ¬(b.length ≠ 4 ∨ (0x1000000 + 4 * k) % 4 ≠ 0 ∨ 0x1000000 + 4 * k < flagPage) := by
    unfold flagPage
    omega
  have hslot : (0x1000000 + 4 * k - flagPage) / 4 = k := by
    unfold flagPage
    omega
  simp only [execFlagWrite, htouches, hhost, hhold, if_neg hword, hslot]
  rfl

end

/-- Settles O35: the write by hostFlag_written after the undo; the undo by the kind of the last move. -/
theorem flagWrites : Obligations.FlagWrites := by
  unfold Obligations.FlagWrites
  intro f k data same s hr hk hlen s1 last cur v owner seat legal
  have hframe : s1.kitty.refused = s.kitty.refused ∧ s1.prot = s.prot := by
    cases same with
    | false => exact ⟨rfl, rfl⟩
    | true => exact undoMove_frame s k
  obtain ⟨hrefused, hprot⟩ := hframe
  refine ⟨?_, undoMove_none, fun m => undoMove_release, fun m p hm hp => ⟨fun h hh => ?_, ?_⟩⟩
  · have hwritten : FlagWritten s1 _ f k v := (hostFlag_written hlen).takesCycle same
    rw [← hrefused, ← hprot]
    exact ⟨_, execFlagWrite_word same hr hk hlen, hwritten.others, hwritten.accepted, hwritten.refused, hwritten.rest,
      hwritten.unclaimed⟩
  · rw [undoMove_lock hm hp] at hh
    obtain ⟨g, rfl⟩ := flightBySeq_modFlight hh
    exact ⟨rfl, rfl⟩
  · rw [undoMove_lock hm hp]
    exact (undoLocks_undone _ s).putOff

end Sys2Proof.Machine
end

section
/-!
PROOFS. Reads and writes of slot data.
-/
namespace Sys2Proof.Machine

/-! ## The bytes of the kitty (R27, R84) -/

theorem kittyAddr_inj {o p : Nat} (h : kittyAddr o = kittyAddr p) : o = p := by
  unfold kittyAddr sliceBytes at h
  omega

/-- The bytes of a word of the kitty lie one after the other. -/
theorem kittyAddr_add {o j : Nat} (h : (o + j) / 8 = o / 8) : kittyAddr (o + j) = kittyAddr o + j := by
  unfold kittyAddr sliceBytes
  omega

/-- The words of the kitty are words of memory. -/
theorem kittyAddr_word (o : Nat) : kittyAddr o / 8 = kittyAddr (8 * (o / 8)) / 8 ∧ kittyAddr (8 * (o / 8)) % 8 = 0 := by
  unfold kittyAddr sliceBytes sessBase
  omega

/-- Bytes inside one word touch that word alone. -/
theorem wkeys_inWord {a n : Nat} (hn : 0 < n) (h : (a + n - 1) / 8 = a / 8) :
    wkeys a n = ((memWord (8 * (a / 8))).map fun p => wkey p.1 p.2).toList := by
  have hone : (a + n - 1) / 8 + 1 - a / 8 = 1 := by omega
  simp only [wkeys, if_neg (Nat.ne_of_gt hn), hone, List.range_one, List.filterMap_cons, List.filterMap_nil, Nat.add_zero]
  cases memWord (8 * (a / 8)) <;> rfl

/-- A byte touches the word that an aligned access of eight bytes touches. -/
theorem wkeys_byte {a b : Nat} (h : a / 8 = b / 8) (hb : b % 8 = 0) : wkeys a 1 = wkeys b 8 := by
  rw [wkeys_inWord (a := a) (n := 1) (by omega) (by omega), wkeys_inWord (a := b) (n := 8) (by omega) (by omega), h]

theorem wkeys_kittyByte (o : Nat) : wkeys (kittyAddr o) 1 = wkeys (kittyAddr (8 * (o / 8))) 8 :=
  wkeys_byte (kittyAddr_word o).1 (kittyAddr_word o).2

/-- The key of a word of the kitty is among those of the bytes that touch it. -/
theorem mem_kittyKeys {off n i k : Nat} (hi : i < n) (hk : k ∈ wkeys (kittyAddr (8 * ((off + i) / 8))) 8) :
    k ∈ kittyKeys off n := by
  rw [kittyKeys, List.mem_eraseDups, List.mem_flatMap]
  refine ⟨i, List.mem_range.2 hi, ?_⟩
  rw [wkeys_kittyByte]
  exact hk

theorem slotSpan_mem {off n k : Nat} : k ∈ slotSpan off n ↔ ∃ i, i < n ∧ (off + i) / 4096 = k := by
  unfold slotSpan
  split
  · next hn => simp [hn]
  · next hn =>
    simp only [List.mem_map, List.mem_range]
    constructor
    · rintro ⟨j, hj, rfl⟩
      exact ⟨max off (4096 * (j + off / 4096)) - off, by omega, by omega⟩
    · rintro ⟨i, hi, rfl⟩
      exact ⟨(off + i) / 4096 - off / 4096, by omega, by omega⟩

/-- An access is allowed where the slot of every byte is HOST under a seat of the function (R119). -/
theorem slotAllowed_iff (s : State) (f : Func) (off n : Nat) : slotAllowed s f off n = true ↔ ∀ i, i < n →
    (off + i) / 4096 < 4096 ∧ (getFlag s ((off + i) / 4096)).owner = 1
      ∧ boundTo s (getFlag s ((off + i) / 4096)).seat.toNat f = true := by
  simp only [slotAllowed, List.all_eq_true, slotSpan_mem, Bool.and_eq_true, decide_eq_true_eq, and_assoc]
  constructor
  · intro h i hi
    exact h _ ⟨i, hi, rfl⟩
  · rintro h k ⟨i, hi, rfl⟩
    exact h i hi

/-! ## A write of the host (R119, R318) -/

section
variable {s t u : State} {off : Nat} {data : Bytes}

/-- From s to t the bytes of a write that lie in the words ws of the kitty were written, and no other byte. -/
structure KittyWritten (s t : State) (off : Nat) (data : Bytes) (ws : List Nat) : Prop where
  bytes : ∀ i (h : i < data.length), (off + i) / 8 ∈ ws → rd t (kittyAddr (off + i)) = data[i]
  others : ∀ a, (∀ i, i < data.length → (off + i) / 8 ∈ ws → a ≠ kittyAddr (off + i)) → rd t a = rd s a
  sound : ∀ k, sget none s.prot.bad k = none → sget none t.prot.bad k = none
  rest : { t with mem := s.mem, prot := s.prot } = s

theorem KittyWritten.refl (s : State) (off : Nat) (data : Bytes) : KittyWritten s s off data [] :=
  ⟨fun _ _ h => absurd h List.not_mem_nil, fun _ _ => rfl, fun _ h => h, rfl⟩

theorem KittyWritten.append {vs ws : List Nat} (h : KittyWritten s t off data vs) (h' : KittyWritten t u off data ws) :
    KittyWritten s u off data (vs ++ ws) := by
  refine ⟨fun i hi hw => ?_, fun a ha => ?_, fun k hk => h'.sound k (h.sound k hk),
    (congrArg (fun v : State => { v with mem := s.mem, prot := s.prot }) h'.rest).trans h.rest⟩
  · by_cases hlast : (off + i) / 8 ∈ ws
    · exact h'.bytes i hi hlast
    · have hkept : rd u (kittyAddr (off + i)) = rd t (kittyAddr (off + i)) := h'.others _ fun j _ hj heq =>
        hlast (kittyAddr_inj heq ▸ hj)
      exact hkept.trans (h.bytes i hi ((List.mem_append.1 hw).resolve_right hlast))
  · exact (h'.others a fun i hi hw => ha i hi (List.mem_append_right _ hw)).trans
      (h.others a fun i hi hw => ha i hi (List.mem_append_left _ hw))

/-- The first byte of a write at off in word w of the kitty. -/
def partLo (off w : Nat) : Nat := max off (8 * w)

/-- The byte after the last one of a write of n bytes at off in word w of the kitty. -/
def partHi (off n w : Nat) : Nat := min (off + n) (8 * w + 8)

/-- The bytes of a write that lie in word w. -/
def partBytes (off : Nat) (data : Bytes) (w : Nat) : Bytes :=
  slice data (partLo off w - off) (partHi off data.length w - partLo off w)

theorem partBytes_length (w : Nat) :
    (partBytes off data w).length = partHi off data.length w - partLo off w := by
  simp only [partBytes, slice, List.length_take, List.length_drop, partHi, partLo]
  omega

theorem partBytes_in {i w : Nat} (hi : i < data.length) (hw : (off + i) / 8 = w) :
    off + i - partLo off w < (partBytes off data w).length := by
  rw [partBytes_length]
  unfold partLo partHi
  omega

/-- A byte of a write in word w stands in that word's part. -/
theorem partBytes_at {i w : Nat} (hi : i < data.length) (hw : (off + i) / 8 = w) :
    (partBytes off data w).getD (off + i - partLo off w) 0 = data[i] := by
  have hplace : partLo off w - off + (off + i - partLo off w) = i := by
    unfold partLo
    omega
  rw [List.getD_eq_getElem _ _ (partBytes_in hi hw)]
  simp only [partBytes, slice, List.getElem_take, List.getElem_drop, hplace]

theorem kittyAddr_part {i w : Nat} (hw : (off + i) / 8 = w) :
    kittyAddr (off + i) = kittyAddr (partLo off w) + (off + i - partLo off w) := by
  have hplace : partLo off w + (off + i - partLo off w) = off + i := by
    unfold partLo
    omega
  have hsame : (off + i) / 8 = partLo off w / 8 := by
    unfold partLo
    omega
  rw [← kittyAddr_add (hplace.symm ▸ hsame), hplace]

/-- An address in the part of word w is that of a byte of the write in this word. -/
theorem part_byte {a w : Nat} (hlo : kittyAddr (partLo off w) ≤ a)
    (hhi : a < kittyAddr (partLo off w) + (partBytes off data w).length) :
    ∃ i, i < data.length ∧ (off + i) / 8 = w ∧ a = kittyAddr (off + i) := by
  rw [partBytes_length] at hhi
  obtain ⟨j, rfl⟩ := Nat.exists_eq_add_of_le hlo
  have hj : j < partHi off data.length w - partLo off w := by omega
  have hplace : off + (partLo off w + j - off) = partLo off w + j := by
    unfold partLo
    omega
  have hword : (partLo off w + j) / 8 = w := by
    unfold partLo partHi at *
    omega
  refine ⟨partLo off w + j - off, by unfold partHi at hj; omega, hplace.symm ▸ hword, ?_⟩
  rw [kittyAddr_part (hplace.symm ▸ hword), hplace, Nat.add_sub_cancel_left]

/-- Storing the part in word w writes the bytes of that word. -/
theorem store_part (s : State) (w : Nat) :
    KittyWritten s (store s (kittyAddr (partLo off w)) (partBytes off data w)) off data [w] := by
  refine ⟨fun i hi hw => ?_, fun a ha => ?_, fun k hk => ?_, rfl⟩
  · have hword := List.mem_singleton.1 hw
    have hin := partBytes_in hi hword
    rw [rd_store, kittyAddr_part hword, if_pos (by omega), Nat.add_sub_cancel_left, partBytes_at hi hword]
  · rw [rd_store, if_neg]
    rintro ⟨hlo, hhi⟩
    obtain ⟨i, hi, hw, heq⟩ := part_byte hlo hhi
    exact ha i hi (List.mem_singleton.2 hw) heq
  · simp only [store, freshWords, sget_foldl_sput]
    split
    · rfl
    · exact hk

/-- What the host's write does in word w of the kitty. -/
def writePart (off : Nat) (data : Bytes) (t : State) (w : Nat) : State :=
  if partHi off data.length w - partLo off w < 8 then
    let t1 := touchWords t (wkeys (kittyAddr (8 * w)) 8)
    if anyBad t (wkeys (kittyAddr (8 * w)) 8) then t1
    else store t1 (kittyAddr (partLo off w)) (partBytes off data w)
  else store t (kittyAddr (partLo off w)) (partBytes off data w)

/-- The words of the kitty that a write touches. -/
def partWords (off n : Nat) : List Nat := (List.range ((off + n + 7) / 8 - off / 8)).map fun i => off / 8 + i

theorem kittyHostWrite_eq : kittyHostWrite s off data = (partWords off data.length).foldl (writePart off data) s := rfl

theorem mem_partWords {off n w : Nat} (hn : 0 < n) : w ∈ partWords off n ↔ ∃ i, i < n ∧ (off + i) / 8 = w := by
  simp only [partWords, List.mem_map, List.mem_range]
  constructor
  · rintro ⟨j, hj, rfl⟩
    exact ⟨max off (8 * (off / 8 + j)) - off, by omega, by omega⟩
  · rintro ⟨i, hi, rfl⟩
    exact ⟨(off + i) / 8 - off / 8, by omega, by omega⟩

/-- A sound word takes the bytes that lie in it. -/
theorem writePart_sound {w : Nat} (h : ∀ k ∈ wkeys (kittyAddr (8 * w)) 8, sget none s.prot.bad k = none) :
    writePart off data s w = store s (kittyAddr (partLo off w)) (partBytes off data w) := by
  simp only [writePart, anyBad_sound s _ h, touchWords_sound s _ h]
  exact ite_self _

theorem writeParts_sound (ws : List Nat) (s : State)
    (h : ∀ w ∈ ws, ∀ k ∈ wkeys (kittyAddr (8 * w)) 8, sget none s.prot.bad k = none) :
    KittyWritten s (ws.foldl (writePart off data) s) off data ws := by
  induction ws generalizing s with
  | nil => exact .refl s off data
  | cons w ws ih =>
    have hfirst := store_part (off := off) (data := data) s w
    rw [List.foldl_cons, writePart_sound (h w (List.mem_cons_self ..))]
    exact hfirst.append (ih _ fun v hv k hk => hfirst.sound k (h v (List.mem_cons_of_mem _ hv) k hk))

/-- A write into sound words writes its bytes. -/
theorem kittyHostWrite_sound (hn : 0 < data.length)
    (h : ∀ k ∈ kittyKeys off data.length, sget none s.prot.bad k = none) :
    KittyWritten s (kittyHostWrite s off data) off data (partWords off data.length) := by
  rw [kittyHostWrite_eq]
  refine writeParts_sound _ s fun w hw k hk => h k ?_
  obtain ⟨i, hi, rfl⟩ := (mem_partWords hn).1 hw
  exact mem_kittyKeys hi hk

end

/-! ## An access refused (R119, R301, R303) -/

section
variable (s : State)

@[simp] theorem bucketUp_suitCnt (mem v : Nat) : (bucketUp s mem v).prot.suitCnt = s.prot.suitCnt := by
  unfold bucketUp
  dsimp only
  (repeat' split) <;> simp

@[simp] theorem recordUe_suitCnt (mem word : Nat) (tag : Bool) :
    (recordUe s mem word tag).prot.suitCnt = s.prot.suitCnt := by simp [recordUe]

theorem touchTags_suitCnt (gs : List Nat) : (touchTags s gs).prot.suitCnt = s.prot.suitCnt :=
  foldl_same (fun t => t.prot.suitCnt) _ (fun _ _ => by split <;> simp) _ _

/-- An access refused by suit counts as one, and as a denied access. -/
theorem denySlot_suitRefused (f : Func) (off : Nat) (gs : List Nat) :
    let t := denySlot (suitRefused s gs) f off
    t.mem = s.mem ∧ t.kitty.deniedC = satAdd s.kitty.deniedC 1 ∧ t.prot.suitCnt = satAdd s.prot.suitCnt 1
      ∧ bit (getIrq t (plKey f)).status 31 = true := by
  refine ⟨by simp [denySlot], by simp [denySlot], ?_, raiseIrq_on _ _ _ _ (by decide)⟩
  simp only [denySlot, bar4Err_prot]
  exact touchTags_suitCnt _ gs

end

/-! ## The two commands -/

section
variable {s : State} {f : Func} {off len : Nat} {data : Bytes} (hr : Reaches s f) (ho : off < 0x1000000)
include hr ho

/-- A read of slot data. -/
theorem execSlotDataRead_data : execSlotDataRead f off len s =
    if slotAllowed s f off len then
      if slotSuitOk s off len false then
        .next { touchWords s (kittyKeys off len) with
          answer := if anyBad s (kittyKeys off len) then .poison else .bytes (kittyRead s off len) }
      else .next { denySlot (suitRefused s (slotGrans off len)) f off with answer := .bytes (zeros len) }
    else .next { denySlot s f off with answer := .bytes (zeros len) } := by
  obtain ⟨hhost, hhold⟩ := hr
  have hdata : ¬flagPage ≤ off := Nat.not_le.2 ho
  simp only [execSlotDataRead, hhost, hhold, if_neg hdata]
  rfl

/-- A write of slot data. -/
theorem execSlotDataWrite_data (hn : 0 < data.length) : execSlotDataWrite f off data s =
    if slotAllowed s f off data.length then
      if slotSuitOk s off data.length true then .next (kittyHostWrite s off data)
      else .next (denySlot (suitRefused s (slotGrans off data.length)) f off)
    else .next (denySlot s f off) := by
  obtain ⟨hhost, hhold⟩ := hr
  have hdata : (decide (flagPage ≤ off) || data.isEmpty) = false := by
    rw [Bool.or_eq_false_iff, decide_eq_false_iff_not, List.isEmpty_eq_false_iff]
    exact ⟨Nat.not_le.2 ho, List.ne_nil_of_length_pos hn⟩
  simp only [execSlotDataWrite, hhost, hhold, hdata]
  rfl

end

/-- Settles O36: a read and a write by their rows; the bytes written by kittyHostWrite_sound, word by word. -/
theorem slotData : Obligations.SlotData := by
  unfold Obligations.SlotData
  intro f off len data s hr ho
  refine ⟨fun ha hs hsound => ?_, fun ha => ?_, fun ha hs hn hsound => ?_, fun ha hn => ?_, fun ha hs => ?_,
    fun ha hs hn => ?_, fun ha hs hbad => ?_, slotAllowed_iff s f off, fun u => raiseIrq_on _ _ _ _ (by decide)⟩
  · refine (execSlotDataRead_data hr ho).trans ?_
    rw [if_pos ha, if_pos hs, touchWords_sound s _ hsound, anyBad_sound s _ hsound]
    rfl
  · exact (execSlotDataRead_data hr ho).trans (if_neg (Bool.eq_false_iff.1 ha))
  · have hwritten := kittyHostWrite_sound hn hsound
    refine ⟨_, (execSlotDataWrite_data hr ho hn).trans ((if_pos ha).trans (if_pos hs)), fun i hi => ?_, fun a hout => ?_,
      hwritten.rest⟩
    · exact hwritten.bytes i hi ((mem_partWords hn).2 ⟨i, hi, rfl⟩)
    · exact hwritten.others a fun i hi _ => hout i hi
  · exact (execSlotDataWrite_data hr ho hn).trans (if_neg (Bool.eq_false_iff.1 ha))
  · obtain ⟨hmem, hdenied, hsuit, hirq⟩ := denySlot_suitRefused s f off (slotGrans off len)
    exact ⟨_, (execSlotDataRead_data hr ho).trans ((if_pos ha).trans (if_neg (Bool.eq_false_iff.1 hs))), rfl,
      hmem, hdenied, hsuit, hirq⟩
  · exact ⟨_, (execSlotDataWrite_data hr ho hn).trans ((if_pos ha).trans (if_neg (Bool.eq_false_iff.1 hs))),
      denySlot_suitRefused s f off (slotGrans off data.length)⟩
  · have hany : anyBad s (kittyKeys off len) = true := by simpa [anyBad] using hbad
    refine ⟨_, (execSlotDataRead_data hr ho).trans ((if_pos ha).trans (if_pos hs)), if_pos hany, ?_⟩
    exact touchWords_mem s _

end Sys2Proof.Machine
end

section
/-!
PROOFS. What a lane opcode makes of the segment that runs.
-/
namespace Sys2Proof.Machine

/-! ## The segment worked out (R144, R149, R171) -/

section
variable {s : State} {l op : Nat} {b : Binding}

/-- A segment that an update moves, with its lane's datapath. -/
theorem laneMoved_modBind (f : Binding → Binding) (g : Datapath → Datapath) :
    LaneMoved s (modLane (modBind s l b f) l fun ln => { ln with dp := g ln.dp }) l b f (g (getLane s l).dp) := by
  refine ⟨?_, fun k hk => ?_, rfl⟩
  · simp [modBind]
  · simp only [modBind, getLane_modLane_ne _ _ hk]

/-- A segment that an update moves, its lane's datapath left as it is. -/
theorem laneMoved_modBind_alone (f : Binding → Binding) : LaneMoved s (modBind s l b f) l b f (getLane s l).dp := by
  refine ⟨?_, fun k hk => ?_, rfl⟩
  · simp [modBind]
  · simp only [modBind, getLane_modLane_ne _ _ hk]

/-- The value for a hand: from the last segment of a descriptor that closes its message, unless a compare differed. -/
theorem handValue_closes (s : State) (b : Binding) (o : SegOut) :
    (if b.role.closes && b.lastOf && !o.differ then handValue s b.desc o.value else none) =
      if b.role.closes = true ∧ b.seg + 1 = segCount b.desc ∧ o.differ = false ∧ b.desc.result = 1 then
        some { type := 5, param := 0, usage := (getHand s (handleHand b.desc.key1)).defUse, mat := o.value, gran := [] }
      else none := by
  by_cases hr : b.desc.result = 1 <;> simp [handValue, Binding.lastOf, hr, and_assoc]

end

/-! ## The commands by their rows -/

section
variable {lane : Fin 128} (s : State)

/-- The command of a row plays its segment by the row's function. -/
theorem exec_laneRows : ∀ r ∈ laneRows lane, exec r.1 s = .next (playSeg s lane.val r.2.1 r.2.2) := by
  simp only [laneRows, List.forall_mem_cons]
  exact ⟨rfl, rfl, rfl, rfl, rfl, rfl, rfl, rfl, rfl, rfl, rfl, rfl, rfl, rfl, List.forall_mem_nil _⟩

/-- The command of a row that recovers a key. -/
theorem exec_unwrapRows : ∀ r ∈ unwrapRows lane, exec r.1 s = .next (playUnwrap s lane.val r.2.1 r.2.2) := by
  simp only [unwrapRows, List.forall_mem_cons]
  exact ⟨rfl, rfl, List.forall_mem_nil _⟩

end

/-- Settles O51: each command by its row, the segment it finds by playable, and what of the lane that moves. -/
theorem laneOpcodes : Obligations.LaneOpcodes := by
  unfold Obligations.LaneOpcodes
  intro lane s
  refine ⟨fun c op f hrow b hb => ⟨_, exec_laneRows s _ hrow, ?_⟩, fun c op a hrow b hb => ⟨_, exec_unwrapRows s _ hrow, ?_⟩,
    fun c op hrow hb => ?_⟩
  · simp only [playSeg, hb, handValue_closes]
    exact laneMoved_modBind _ fun dp => dpAfter dp (f (segCtx s b))
  · simp only [playUnwrap, hb]
    exact laneMoved_modBind_alone _
  · simp only [List.mem_append, List.mem_map, Prod.mk.injEq] at hrow
    obtain ⟨r, hmem, rfl, rfl⟩ | ⟨r, hmem, rfl, rfl⟩ := hrow
    · rw [exec_laneRows s r hmem, playSeg, hb]
    · rw [exec_unwrapRows s r hmem, playUnwrap, hb]

end Sys2Proof.Machine
end

section
/-!
PROOFS. PLAY, the gates, and the monitor's calls and returns.
-/
namespace Sys2Proof.Machine

section
variable {s s1 s2 : State} {c : CoreId} {i : G8Word} {b : Bytes} {n sp : Nat}

/-- F.L cleared (R269). -/
theorem setBit_loop_clear (f : BitVec 8) : setBit f 5 false = f &&& 0xDF := rfl

/-- Words of which one is beyond correction (R318). -/
theorem anyBad_iff (s : State) (ks : List Nat) : anyBad s ks = true ↔ ∃ k ∈ ks, sget none s.prot.bad k = some true := by
  simp [anyBad]

/-- An instruction that is due and whose effect is a function of the state after its fetch. -/
theorem due_insn_eq {m : Nat} {f : CoreId → G8Word → State → State} {t : State} (h : Due s s1 c i) (hm : i.opc.toNat = m)
    (hf : f c i s1 = t) : insn m f c s = .next (mirrored c t) :=
  hf ▸ due_insn h hm

/-! ## PLAY (R134, R136, R273) -/

/-- A play that is not refused starts in the next round, whatever load is in its slot. -/
theorem opPlay_starts (k : Core)
    (h : playRefused s (laneOf c) (level k) (if i.am = 0 then i.opnd.toNat else k.a.toNat) = false) :
    opPlay c i (slotFree k) s = (modLane s (laneOf c) fun ln => { ln with seqr :=
        { upc := if i.am = 0 then i.opnd.toNat else k.a.toNat, run := true, form := false, loops := [], rep := none
          from_ := s.round + 1 } },
      .ok { upd := id, cycles := 1, jump := none }) :=
  if_neg (Bool.eq_false_iff.1 h)

/-! ## GATE (R284, R285) -/

/-- The address of the gate's descriptor in the core's own memory. -/
def gateAddr (i : G8Word) : Nat := 0xF800 + 8 * i.opnd.toNat

/-- The descriptor of the gate. -/
def gateDesc (s : State) (c : CoreId) (i : G8Word) : Bytes := rdN s (ownAddr c (gateAddr i)) 8

/-- The words it lies in. -/
def gateWords (c : CoreId) (i : G8Word) : List Nat := wkeys (ownAddr c (gateAddr i)) 8

/-- The core whose frame a gate pushes: at the next instruction, out of its loop, without the load in its slot. -/
def gateFramed (k : Core) : Core := { k with pc := k.pc + 4, f := k.f &&& 0xDF, load := none }

/-- A gate whose descriptor is beyond correction raises cause 0x0B (R318). -/
theorem runGate_uncorrectable (h : anyBad s (gateWords c i) = true) :
    runGate c i s = stopped (touchWords s (gateWords c i)) c (.exc 0x0B (gateAddr i)) :=
  if_pos h

/-- A gate that is open and passes its checks enters KERNEL over its frame. -/
theorem runGate_enters (hs : anyBad s (gateWords c i) = false) (hopen : bits (leField (gateDesc s c i) 4 4) 31 31 = 1)
    (hzero : bits (leField (gateDesc s c i) 4 4) 27 16 = 0)
    (hcheck : gateCheck s c (getCore s c) (leField (gateDesc s c i) 4 4) = true)
    (hpush : pushFrame s c (gateFramed (getCore s c)) 1 (leField (gateDesc s c i) 2 2)
      (frameBytes (gateFramed (getCore s c)) 0x0D i.opnd.toNat) = some (s2, sp, n)) :
    runGate c i s = touchWords (setCore s2 c (commitLoad (getCore s c).load
      (enteredCore { getCore s2 c with load := none } 1 sp (leField (gateDesc s c i) 0 2 / 4 * 4) 0x0D (6 + n))))
      (gateWords c i) := by
  simp only [gateFramed, gateDesc, gateWords, gateAddr] at hs hopen hzero hcheck hpush ⊢
  simp only [runGate, hs, hopen, hzero, hcheck, setBit_loop_clear, hpush]
  rfl

/-! ## RETX (R290-R293) -/

/-- A return at MONITOR in a monitor call reverses its exchanges. -/
theorem runRetx_exchanges (h : level (getCore s c) = 2 ∧ (getCore s c).mc = true ∧ (getCore s c).mdepth = 0) :
    runRetx c i s = setCore s c (commitLoad (getCore s c).load
      { exchanged (getCore s c) false with oneFirst := true, cyc := (getCore s c).cyc + 6 }) :=
  if_pos h

/-- Any other return restores the frame it reads, unless it is forged. -/
theorem runRetx_restores (h : ¬(level (getCore s c) = 2 ∧ (getCore s c).mc = true ∧ (getCore s c).mdepth = 0))
    (hread : readFrame s c (level (getCore s c)) (getCore s c).sp = (s2, .ok (b, n)))
    (hf : forged b (level (getCore s c)) = false) :
    runRetx c i s = setCore s2 c (commitLoad (getCore s c).load
      (restored (getCore s2 c) b (level (getCore s c)) (6 + n))) := by
  simp only [runRetx, if_neg h, hread, hf]
  rfl

end

/-- Settles O16: each instruction, due, by the rule of the branch that its premises name. -/
theorem g8Gates : Obligations.G8Gates := by
  unfold Obligations.G8Gates
  intro c s s1 s2 i b n sp hdue
  refine ⟨fun hop hplay => ?_, fun hop hsound hopen hzero hcheck hpush => ?_, fun hop hbad => ?_, fun hop => ?_,
    fun hop hlevel hmc hdepth => ?_, fun hop hother hread hf => ?_⟩
  · have hstarts := due_plain hdue (congrArg BitVec.toNat hop) (opPlay_starts (getCore s1 c) hplay)
    exact hstarts
  · have hs : anyBad s1 (gateWords c i) = false := Bool.eq_false_iff.2 fun h => by
      obtain ⟨w, hw, hbad⟩ := (anyBad_iff ..).1 h
      exact hsound w hw hbad
    exact due_insn_eq hdue (congrArg BitVec.toNat hop) (runGate_enters hs hopen hzero hcheck hpush)
  · exact due_insn_eq hdue (congrArg BitVec.toNat hop) (runGate_uncorrectable ((anyBad_iff ..).2 hbad))
  · exact due_insn_eq (f := runMcall) hdue (congrArg BitVec.toNat hop) rfl
  · exact due_insn_eq hdue (congrArg BitVec.toNat hop) (runRetx_exchanges ⟨hlevel, hmc, hdepth⟩)
  · exact due_insn_eq hdue (congrArg BitVec.toNat hop)
      (runRetx_restores (fun ⟨h2, hm, hd⟩ => by simp [h2, hm, hd] at hother) hread hf)

end Sys2Proof.Machine
end

section
/-!
PROOFS. Messages in parts: bytes cut into pieces, a digest over two parts, and counter mode over a cut and over its own
output.
-/
namespace Sys2Proof.Machine

/-! ## Pieces of a byte string -/

section
variable {n : Nat} {b : Bytes}

/-- Any fuel that covers the bytes gives the same pieces. -/
theorem chunksAux_fuel (hn : 0 < n) {j k : Nat} (hj : b.length ≤ j) (hk : b.length ≤ k) :
    chunksAux n j b = chunksAux n k b := by
  induction j generalizing b k with
  | zero =>
    obtain rfl : b = [] := List.length_eq_zero_iff.1 (Nat.le_zero.1 hj)
    cases k <;> rfl
  | succ j ih =>
    match b, k with
    | [], 0 => rfl
    | [], _ + 1 => rfl
    | x :: t, k + 1 =>
      have hdrop : ((x :: t).drop n).length ≤ t.length := by
        rw [List.length_drop, List.length_cons]
        omega
      rw [List.length_cons] at hj hk
      exact congrArg _ (ih (by omega) (by omega))

@[simp] theorem chunks_nil (n : Nat) : chunks n [] = [] := by
  simp [chunks, chunksAux]

/-- The first piece, and the pieces of what follows it. -/
theorem chunks_first (hn : 0 < n) (hb : b ≠ []) : chunks n b = b.take n :: chunks n (b.drop n) := by
  obtain ⟨x, t, rfl⟩ := List.exists_cons_of_ne_nil hb
  rw [chunks, chunks, if_neg (by omega), if_neg (by omega)]
  simp only [List.length_cons, chunksAux]
  rw [chunksAux_fuel hn _ le_rfl]
  rw [List.length_drop, List.length_cons]
  omega

/-- A cut between two pieces leaves them. -/
theorem chunks_append (hn : 0 < n) {a : Bytes} (ha : n ∣ a.length) (b : Bytes) :
    chunks n (a ++ b) = chunks n a ++ chunks n b := by
  obtain ⟨q, hq⟩ := ha
  induction q generalizing a with
  | zero =>
    obtain rfl : a = [] := List.length_eq_zero_iff.1 hq
    simp
  | succ q ih =>
    rw [Nat.mul_succ] at hq
    have hne : a ≠ [] := List.ne_nil_of_length_pos (by omega)
    rw [chunks_first hn (by simp [hne]), chunks_first hn hne, List.take_append_of_le_length (by omega),
      List.drop_append_of_le_length (by omega), ih (by rw [List.length_drop]; omega), List.cons_append]

/-- Bytes of q pieces are cut into q pieces. -/
theorem chunks_length (hn : 0 < n) {q : Nat} (hq : b.length = n * q) : (chunks n b).length = q := by
  induction q generalizing b with
  | zero =>
    obtain rfl : b = [] := List.length_eq_zero_iff.1 hq
    simp
  | succ q ih =>
    rw [Nat.mul_succ] at hq
    rw [chunks_first hn (List.ne_nil_of_length_pos (by omega)), List.length_cons,
      ih (by rw [List.length_drop]; omega)]

/-- Each of them is whole. -/
theorem length_of_mem_chunks (hn : 0 < n) (hb : n ∣ b.length) {c : Bytes} (hc : c ∈ chunks n b) : c.length = n := by
  obtain ⟨q, hq⟩ := hb
  induction q generalizing b with
  | zero =>
    obtain rfl : b = [] := List.length_eq_zero_iff.1 hq
    simp at hc
  | succ q ih =>
    rw [Nat.mul_succ] at hq
    rw [chunks_first hn (List.ne_nil_of_length_pos (by omega)), List.mem_cons] at hc
    obtain rfl | hc := hc
    · rw [List.length_take]
      omega
    · exact ih hc (by rw [List.length_drop]; omega)

end

/-! ## A digest over two parts (R150, R173, R174) -/

section
variable {h n : Nat}

/-- Any fuel that covers the bytes absorbs the same blocks. -/
theorem digBlocks_fuel (hn : 0 < n) {j k : Nat} {v : List (BitVec 64)} {b : Bytes} (hj : b.length ≤ j)
    (hk : b.length ≤ k) : digBlocks h n j v b = digBlocks h n k v b := by
  induction j generalizing k v b with
  | zero =>
    have hb : b.length < n := by omega
    cases k <;> simp [digBlocks, hb]
  | succ j ih =>
    by_cases hb : b.length < n
    · cases k <;> simp [digBlocks, hb]
    · obtain ⟨k, rfl⟩ : ∃ m, k = m + 1 := ⟨k - 1, by omega⟩
      simp only [digBlocks, if_neg hb]
      exact ih (by rw [List.length_drop]; omega) (by rw [List.length_drop]; omega)

/-- Bytes that fill no block stay pending. -/
theorem digBlocks_short {v : List (BitVec 64)} {b : Bytes} (hb : b.length < n) :
    digBlocks h n b.length v b = (v, b) := by
  cases hl : b.length with
  | zero => rfl
  | succ k => rw [digBlocks, if_pos hb]

/-- A block in front is absorbed first. -/
theorem digBlocks_block (hn : 0 < n) {v : List (BitVec 64)} {b : Bytes} (hb : n ≤ b.length) :
    digBlocks h n b.length v b = digBlocks h n (b.drop n).length (digBlock h v (b.take n)) (b.drop n) := by
  cases hl : b.length with
  | zero => omega
  | succ k =>
    rw [digBlocks, if_neg (by omega)]
    exact digBlocks_fuel hn (by rw [List.length_drop]; omega) le_rfl

/-- The blocks of a first part are absorbed before those that its rest fills with a second. -/
theorem digBlocks_append (hn : 0 < n) (v : List (BitVec 64)) (a b : Bytes) :
    digBlocks h n (a ++ b).length v (a ++ b) =
      digBlocks h n ((digBlocks h n a.length v a).2 ++ b).length (digBlocks h n a.length v a).1
        ((digBlocks h n a.length v a).2 ++ b) := by
  by_cases ha : a.length < n
  · rw [digBlocks_short ha]
  · have hab : n ≤ (a ++ b).length := by
      rw [List.length_append]
      omega
    rw [digBlocks_block hn hab, List.take_append_of_le_length (by omega), List.drop_append_of_le_length (by omega),
      digBlocks_block hn (Nat.le_of_not_lt ha)]
    exact digBlocks_append hn _ (a.drop n) b
termination_by a.length
decreasing_by
  rw [List.length_drop]
  omega

end

theorem halgB_pos (h : Nat) : 0 < halgB h := by
  unfold halgB
  split_ifs <;> decide

/-- Two parts are absorbed as they are joined. -/
theorem digAbsorb_append (h : Nat) (g : DigestSt) (a b : Bytes) :
    digAbsorb h (digAbsorb h g a) b = digAbsorb h g (a ++ b) := by
  simp only [digAbsorb, ← List.length_append, ← List.append_assoc]
  rw [← digBlocks_append (halgB_pos h) g.words (g.pend ++ a) b, List.length_append (as := a), Nat.add_assoc]

/-! ## Counter mode over a cut (R150, R152) -/

section
variable {w : Nat} {key : Bytes}

/-- The counter goes on from the blocks of a first part to those of a second. -/
theorem ctrBlocks_append (xs ys : List Bytes) (c : Bytes) :
    ctrBlocks w key (xs ++ ys) c = ((ctrBlocks w key xs c).1 ++ (ctrBlocks w key ys (ctrBlocks w key xs c).2).1,
      (ctrBlocks w key ys (ctrBlocks w key xs c).2).2) := by
  induction xs generalizing c with
  | nil => rfl
  | cons x xs ih =>
    rw [List.cons_append, ctrBlocks, ctrBlocks, ih, List.append_assoc]

/-- Counter mode of nothing. -/
theorem ctrCrypt_nil (c : Bytes) : ctrCrypt w key c [] = ([], c) := by
  rw [ctrCrypt, chunks_nil, ctrBlocks]

/-- Counter mode by its first block. -/
theorem ctrCrypt_first {x : Bytes} (hx : x ≠ []) (c : Bytes) :
    ctrCrypt w key c x = (xorBytes (x.take 16) (aesEnc key c) ++ (ctrCrypt w key (ctrNext w c) (x.drop 16)).1,
      (ctrCrypt w key (ctrNext w c) (x.drop 16)).2) := by
  rw [ctrCrypt, chunks_first (by decide) hx, ctrBlocks, ctrCrypt]

end

/-! ## Lengths of AES (FIPS 197) -/

section
variable {a b key : Bytes}

theorem xorBytes_length (h : a.length = b.length) : (xorBytes a b).length = a.length := by
  rw [xorBytes, List.length_zipWith, h, Nat.min_self]

theorem natLe_length (n v : Nat) : (natLe n v).length = n := by
  induction n generalizing v with
  | zero => rfl
  | succ n ih => rw [natLe, List.length_cons, ih]

theorem ctrNext_length (w : Nat) (c : Bytes) : (ctrNext w c).length = 16 := by
  rw [ctrNext, natBe, List.length_reverse, natLe_length]

/-- Every word of a key schedule has four bytes when those it starts from have. -/
theorem aesExpand_words {nk : Nat} (hk : 0 < nk) (n i : Nat) (rc : Byte) {ws : List Bytes} (hlen : nk ≤ ws.length)
    (hws : ∀ w ∈ ws, w.length = 4) :
    (aesExpand nk n i rc ws).length = ws.length + n ∧ ∀ w ∈ aesExpand nk n i rc ws, w.length = 4 := by
  induction n generalizing i rc ws with
  | zero => exact ⟨rfl, hws⟩
  | succ n ih =>
    obtain ⟨p, t, rfl⟩ := List.exists_cons_of_ne_nil (List.ne_nil_of_length_pos (by omega : 0 < ws.length))
    have hp : p.length = 4 := hws p List.mem_cons_self
    have hback : ((p :: t).getD (nk - 1) []).length = 4 := by
      rw [List.getD_eq_getElem _ _ (by omega)]
      exact hws _ (List.getElem_mem _)
    rw [aesExpand]
    simp only [List.headD_cons]
    generalize hu : (if i % nk = 0 then _ else _ : Bytes) = u
    have hulen : u.length = 4 := by
      subst hu
      split_ifs
      · rw [xorBytes_length] <;> simp [hp]
      · simp [hp]
      · exact hp
    have hnew : ∀ w ∈ xorBytes ((p :: t).getD (nk - 1) []) u :: p :: t, w.length = 4 := by
      intro w hw
      obtain rfl | hw := List.mem_cons.1 hw
      · rw [xorBytes_length (hback.trans hulen.symm), hback]
      · exact hws w hw
    obtain ⟨hl, hall⟩ := ih (i + 1) (if i % nk = 0 then xtime rc else rc) (ws := _ :: p :: t)
      (Nat.le_succ_of_le hlen) hnew
    exact ⟨hl.trans (by rw [List.length_cons]; omega), hall⟩

/-- Every round key has 16 bytes, for a key of whole words. -/
theorem length_of_mem_aesKeys (hpos : 0 < key.length) (hkey : 4 ∣ key.length) {k : Bytes} (hk : k ∈ aesKeys key) :
    k.length = 16 := by
  obtain ⟨nk, hnk⟩ := hkey
  have hdiv : key.length / 4 = nk := by omega
  have hstart : (chunks 4 key).reverse.length = nk := by
    rw [List.length_reverse, chunks_length (by decide) hnk]
  obtain ⟨hl, hall⟩ := aesExpand_words (by omega : 0 < nk) (4 * (nk + 7) - nk) nk 1 hstart.ge fun w hw =>
    length_of_mem_chunks (by decide) ⟨nk, hnk⟩ (List.mem_reverse.1 hw)
  rw [hstart] at hl
  refine length_of_mem_chunks (by decide) ?_ (by simpa only [aesKeys, hdiv] using hk)
  have hflat : (aesExpand nk (4 * (nk + 7) - nk) nk 1 (chunks 4 key).reverse).reverse.flatten.length =
      4 * (nk + (4 * (nk + 7) - nk)) := by
    rw [List.length_flatten, List.map_congr_left (g := fun _ => 4) fun w hw => hall w (List.mem_reverse.1 hw),
      List.map_const', List.sum_replicate, List.length_reverse, hl, smul_eq_mul, Nat.mul_comm]
  rw [hflat]
  exact ⟨nk + 7, by omega⟩

theorem shiftRows_length (b : Bytes) : (shiftRows b).length = 16 := by
  simp [shiftRows]

theorem mixCols_length (k : Bytes) (hb : b.length = 16) : (mixCols k b).length = 16 := by
  rw [mixCols, List.length_flatten, List.map_map, List.map_congr_left (g := fun _ => 4) fun c _ => by simp [mixCol]]
  simp [chunks_length (q := 4) (by decide : 0 < 4) hb]

/-- The rounds keep the length of a block. -/
theorem aesRounds_length {ks : List Bytes} (hks : ∀ k ∈ ks, k.length = 16) (hb : b.length = 16) :
    (aesRounds ks b).length = 16 := by
  fun_induction aesRounds ks b with
  | case1 b => exact hb
  | case2 k b =>
    rw [xorBytes_length (by rw [shiftRows_length, hks k (by simp)]), shiftRows_length]
  | case3 k ks b hne ih =>
    have hmix := mixCols_length [2, 3, 1, 1] (shiftRows_length (b.map aesSub))
    refine ih (fun k hk => hks k (by simp [hk])) ?_
    rw [xorBytes_length (by rw [hmix, hks k (by simp)]), hmix]

theorem aesEnc_length (hpos : 0 < key.length) (hkey : 4 ∣ key.length) (hb : b.length = 16) :
    (aesEnc key b).length = 16 := by
  have hks : ∀ k ∈ aesKeys key, k.length = 16 := fun k => length_of_mem_aesKeys hpos hkey
  rw [aesEnc]
  cases hk : aesKeys key with
  | nil => exact hb
  | cons k ks =>
    rw [hk] at hks
    refine aesRounds_length (fun k hk => hks k (by simp [hk])) ?_
    rw [xorBytes_length (by rw [hb, hks k (by simp)]), hb]

end

/-! ## Counter mode undone (R150) -/

/-- Bytes masked twice with at least as many bytes. -/
theorem xorBytes_xorBytes {a e : Bytes} (h : a.length ≤ e.length) : xorBytes (xorBytes a e) e = a := by
  induction a generalizing e with
  | nil => rfl
  | cons x a ih =>
    obtain ⟨y, e, rfl⟩ := List.exists_cons_of_ne_nil (List.ne_nil_of_length_pos (Nat.lt_of_lt_of_le (by simp) h))
    rw [List.length_cons, List.length_cons] at h
    simp only [xorBytes, List.zipWith_cons_cons, BitVec.xor_assoc, BitVec.xor_self, BitVec.xor_zero, List.cons.injEq,
      true_and]
    exact ih (by omega)

/-- A first block, whole or with nothing after it, and the rest. -/
theorem take_drop_first {m r : Bytes} (hm : m.length ≤ 16) (hr : m.length = 16 ∨ r = []) :
    (m ++ r).take 16 = m ∧ (m ++ r).drop 16 = r := by
  obtain h | rfl := hr
  · exact ⟨List.take_left' h, List.drop_left' h⟩
  · rw [List.append_nil]
    exact ⟨List.take_of_length_le hm, List.drop_eq_nil_of_le hm⟩

/-- Counter mode undoes itself, from the same counter, and leaves the same counter. -/
theorem ctrCrypt_ctrCrypt {w : Nat} {key : Bytes} (hpos : 0 < key.length) (hkey : 4 ∣ key.length) (c x : Bytes)
    (hc : c.length = 16) : ctrCrypt w key c (ctrCrypt w key c x).1 = (x, (ctrCrypt w key c x).2) := by
  by_cases hx : x = []
  · subst hx
    rw [ctrCrypt_nil, ctrCrypt_nil]
  · have he : (aesEnc key c).length = 16 := aesEnc_length hpos hkey hc
    have hmask : xorBytes (xorBytes (x.take 16) (aesEnc key c)) (aesEnc key c) = x.take 16 :=
      xorBytes_xorBytes (by rw [List.length_take, he]; omega)
    have hlen : (xorBytes (x.take 16) (aesEnc key c)).length = min 16 x.length := by
      rw [xorBytes, List.length_zipWith, List.length_take, he]
      omega
    have hxpos : 0 < x.length := List.length_pos_iff.2 hx
    have hrest : (xorBytes (x.take 16) (aesEnc key c)).length = 16
        ∨ (ctrCrypt w key (ctrNext w c) (x.drop 16)).1 = [] := by
      by_cases hshort : x.length ≤ 16
      · exact .inr (by rw [List.drop_eq_nil_of_le hshort, ctrCrypt_nil])
      · exact .inl (by omega)
    have ih := ctrCrypt_ctrCrypt hpos hkey (ctrNext w c) (x.drop 16) (ctrNext_length w c) (w := w)
    obtain ⟨htake, hdrop⟩ := take_drop_first (by omega) hrest
    rw [ctrCrypt_first hx, ctrCrypt_first (List.ne_nil_of_length_pos (by rw [List.length_append]; omega)), htake, hdrop,
      hmask, ih, List.take_append_drop]
termination_by x.length
decreasing_by
  rw [List.length_drop]
  omega

/-- Settles O60: a digest by the blocks it absorbs, counter mode by its blocks, which it masks twice with one key stream. -/
theorem messagesInParts : Obligations.MessagesInParts := by
  unfold Obligations.MessagesInParts
  refine ⟨digAbsorb_append, fun h a b => ?_, fun w key c a b ha => ?_, fun w key c x hkey hc => ?_⟩
  · rw [digAbsorb_append, hashOf]
  · simp only [ctrCrypt, chunks_append (by decide : 0 < 16) (Nat.dvd_of_mod_eq_zero ha), ctrBlocks_append]
  · exact ctrCrypt_ctrCrypt (by omega) (by omega) c x hc

end Sys2Proof.Machine
end

section
/-!
PROOFS. What an engine opcode makes of the operation its engine runs.
-/
namespace Sys2Proof.Machine

/-! ## The duration of an operation (R189) -/

/-- Attempts count for an ML-DSA signature alone. -/
theorem engineE_attempts {d : Desc} (h : d.op ≠ 0x44) (blind : Bool) (a : Nat) : engineE d blind a = engineE d blind 0 := by
  simp only [engineE, dsaE, if_neg h]

/-! ## The operation worked out (R177, R193-R196) -/

section
variable {s : State} {k op : Nat} {x : Running} (f : Running → PkOut)

/-- An operation of another opcode. -/
theorem playOp_other (hr : (getEngine s k).run = some x) (hop : x.ticket.desc.op ≠ op) : playOp s k op f = s := by
  simp [playOp, hr, hop]

/-- An engine that runs nothing. -/
theorem playOp_idle (hr : (getEngine s k).run = none) : playOp s k op f = s := by
  simp [playOp, hr]

/-- An operation of the opcode, not yet worked out. -/
theorem playOp_plays (hr : (getEngine s k).run = some x) (hp : x.played = false) (hraw : x.ticket.raw = none)
    (hop : x.ticket.desc.op = op) :
    playOp s k op f = modEngine s k fun e => { e with run := some (playedRun e x (f x)) } := by
  simp [playOp, hr, hp, hraw, hop]

/-- The duration of a descriptor's operation, once it is worked out. -/
theorem playedRun_duration (e : Engine) (o : PkOut) (hraw : x.ticket.raw = none) (hop : x.ticket.desc.op ≠ 0x44) :
    (playedRun e x o).e = engineE x.ticket.desc x.blind 0 := by
  simp only [playedRun, ticketE, hraw]
  exact engineE_attempts hop ..

end

/-- The command of a row works the operation out by the row's function. -/
theorem exec_engineOps {deck : Fin 16} (s : State) :
    ∀ p ∈ engineOps deck, exec p.1 s = .next (playOp s deck.val p.2.1 p.2.2) := by
  simp only [engineOps, List.forall_mem_cons]
  exact ⟨rfl, rfl, rfl, rfl, rfl, rfl, rfl, rfl, rfl, rfl, rfl, rfl, rfl, rfl, rfl, rfl, rfl, rfl, rfl, rfl, rfl, rfl,
    List.forall_mem_nil _⟩

/-- Settles O38: each command by its row, which works out the operation of its own opcode and leaves every other. -/
theorem engineOperations : Obligations.EngineOperations := by
  unfold Obligations.EngineOperations
  intro deck s x k p hrow
  rw [exec_engineOps s p hrow]
  refine ⟨fun hr hp hraw hop => ?_, fun hr hop => ?_, fun hr => ?_⟩
  · rw [playOp_plays p.2.2 hr hp hraw hop]
    refine ⟨_, playedRun (getEngine s k) x (p.2.2 x), rfl, getEngine_modEngine .., rfl, fun h44 => ?_, fun j hj => ?_, rfl⟩
    · exact playedRun_duration _ _ hraw (hop ▸ h44)
    · exact getEngine_modEngine_ne _ _ hj
  · rw [playOp_other p.2.2 hr hop]
  · rw [playOp_idle p.2.2 hr]

end Sys2Proof.Machine
end

section
/-!
PROOFS. The arithmetic of RSA_PUBLIC, DH_DERIVE and the raw operations.
-/
namespace Sys2Proof.Machine

/-! ## Powers and differences modulo m (R179) -/

/-- Square and multiply, from an accumulator that is already reduced. -/
theorem powAux_eq {m : Nat} (n b e acc : Nat) (hacc : acc % m = acc) (he : e < 2 ^ n) :
    powAux m n b e acc = acc * b ^ e % m := by
  induction n generalizing b e acc with
  | zero =>
    obtain rfl : e = 0 := by omega
    rw [powAux, Nat.pow_zero, Nat.mul_one, hacc]
  | succ n ih =>
    have hhalf : e / 2 < 2 ^ n := by omega
    have hsplit : b ^ e = b ^ (e % 2) * (b * b) ^ (e / 2) := by
      rw [← Nat.pow_two, ← Nat.pow_mul, ← Nat.pow_add, Nat.mod_add_div]
    rw [powAux]
    split
    next hodd =>
      rw [ih _ _ _ (Nat.mod_mod _ _) hhalf, hsplit, hodd, Nat.pow_one, Nat.mul_mod, Nat.mod_mod, ← Nat.pow_mod,
        ← Nat.mul_mod, Nat.mul_assoc]
    next heven =>
      have hzero : e % 2 = 0 := by omega
      rw [ih _ _ _ hacc hhalf, hsplit, hzero, Nat.pow_zero, Nat.one_mul, Nat.mul_mod, ← Nat.pow_mod, ← Nat.mul_mod]

theorem modPow_eq (b e m : Nat) : modPow b e m = b ^ e % m := by
  rw [modPow, powAux_eq _ _ _ _ (Nat.mod_mod _ _) Nat.lt_log2_self, Nat.mul_mod, Nat.mod_mod, ← Nat.pow_mod, ← Nat.mul_mod,
    Nat.one_mul]

/-- A difference of reduced numbers, put back. -/
theorem modSub_add {a b m : Nat} (ha : a < m) (hb : b < m) : (modSub a b m + b) % m = a := by
  rw [modSub, Nat.mod_eq_of_lt ha, Nat.mod_eq_of_lt hb, Nat.mod_add_mod, Nat.sub_add_cancel (by omega),
    Nat.add_mod_right, Nat.mod_eq_of_lt ha]

/-! ## Checks of one status (R193) -/

section
variable {st : Status} {fs : List Fail} {o : PkOut}

theorem pkCheck_nil (h : fs = []) : pkCheck fs o = o := by
  rw [h, pkCheck, worst]

theorem worst_mem {f : Fail} (h : worst fs = some f) : f ∈ fs := by
  induction fs with
  | nil => simp [worst] at h
  | cons g t ih =>
    rw [worst] at h
    cases ht : worst t with
    | none => simp_all
    | some x =>
      simp only [ht] at h
      split at h
      · simp_all
      · exact List.mem_cons_of_mem _ (ih (ht.trans h))

/-- With every check of one status, a failed one ends the operation with it. -/
theorem pkCheck_fails (hne : fs ≠ []) (hst : ∀ f ∈ fs, f.1 = st) : pkCheck fs o = pkEnd st := by
  cases h : worst fs with
  | none => exact absurd (worst_nil.1 h) hne
  | some f => simp only [pkCheck, h, hst f (worst_mem h)]

/-- A failed check carries its own status. -/
theorem need_status {ok : Bool} {d : BitVec 16} : ∀ f ∈ need ok st d, f.1 = st := by
  unfold need
  split <;> simp

end

/-! ## RSA_PUBLIC (R187, R193) -/

/-- The inputs of RSA_PUBLIC are in range. -/
theorem rsaPublic_passes {d : Desc} {b : Bytes} {v : Nat} :
    rsaPubFails d b ++ need (decide (0 < v) && decide (v < rsaN d b)) .rangeInvalid = [] ↔
      rsaN d b % 2 = 1 ∧ 2 ^ (8 * rsaBytes d - 1) ≤ rsaN d b ∧ rsaN d b < 2 ^ (8 * rsaBytes d) ∧ rsaE d b % 2 = 1
        ∧ 65537 ≤ rsaE d b ∧ rsaE d b < 2 ^ 32 ∧ 0 < v ∧ v < rsaN d b := by
  simp only [List.append_eq_nil_iff, rsaPubFails, need_nil, bitLen, Bool.and_eq_true, decide_eq_true_eq, and_assoc]

theorem rsaPublic_checks {d : Desc} {b : Bytes} {v : Nat} :
    ∀ f ∈ rsaPubFails d b ++ need (decide (0 < v) && decide (v < rsaN d b)) .rangeInvalid, f.1 = .rangeInvalid :=
  List.forall_mem_append.2 ⟨need_status, need_status⟩

/-! ## The raw operations (R202) -/

/-- What a raw operation on reduced numbers answers: the inverse alone has a check of its own. -/
theorem opRaw_inRange {x : Running} {p : Pkr} {m a b : Nat} (hm : beNat (p.m.take (8 * p.words.toNat)) = m)
    (ha : beNat (p.a.take (8 * p.words.toNat)) = a) (hb : beNat (p.b.take (8 * p.words.toNat)) = b) (hodd : m % 2 = 1)
    (hfull : 2 ^ (8 * (8 * p.words.toNat) - 64) ≤ m) (ham : a < m) (hbm : b < m) {c : Byte} (hop : p.op = c) (h5 : c ≠ 5)
    (h6 : c ≠ 6) :
    opRaw x p = pkDone (natBe (8 * p.words.toNat)
      (if c = 1 then (a + b) % m else if c = 2 then modSub a b m else if c = 3 then a * b % m
        else if c = 4 then modPow a b m else modInv a m)) := by
  have hinv : (c != 5) = true := bne_iff_ne.2 h5
  simp only [opRaw, hop, if_neg h6, hm, ha, hb]
  exact pkCheck_nil (need_nil.2 (by simp only [hodd, hfull, ham, hbm, hinv, decide_true, Bool.and_self, Bool.true_or]))

/-- Settles O39: powers by square and multiply, and each operation by its checks. -/
theorem engineArithmetic : Obligations.EngineArithmetic := by
  unfold Obligations.EngineArithmetic
  refine ⟨modPow_eq, fun x => ⟨fun hlegal => ?_, fun hlegal => ?_⟩, fun x => ⟨fun hy => ?_, fun hy => ?_⟩, ?_⟩
  · rw [opRsaPublic, pkCheck_nil (rsaPublic_passes.2 hlegal), modPow_eq]
    rfl
  · exact pkCheck_fails (mt rsaPublic_passes.1 hlegal) rsaPublic_checks
  · rw [opDhDerive, pkCheck_nil (need_nil.2 (by simpa using hy)), modPow_eq]
    rfl
  · exact pkCheck_fails (mt need_nil.1 (by simpa using hy)) need_status
  · intro x p n m a b hodd hfull ham hbm
    have hraw {c : Byte} := opRaw_inRange (x := x) (c := c) rfl rfl rfl hodd hfull ham hbm
    refine ⟨fun hop => hraw hop (by decide) (by decide), fun hop => ?_, fun hop => hraw hop (by decide) (by decide),
      fun hop => ?_⟩
    · exact ⟨_, hraw hop (by decide) (by decide), Nat.mod_lt _ (Nat.zero_lt_of_lt ham), modSub_add ham hbm⟩
    · rw [← modPow_eq]
      exact hraw hop (by decide) (by decide)

end Sys2Proof.Machine
end

section
/-!
PROOFS. The start of an engine's operation, its end and its collect.
-/
namespace Sys2Proof.Machine

/-! ## Words of the memories: read, and written (R313-R315) -/

section
variable (s : State)

/-- A word is listed in the error logic. -/
def Listed (k : Nat) : Prop := k ∈ s.prot.bad.map (·.1)

/-- A word as it is after it was written: without an error, and not in need of a write-back. -/
structure Written (k : Nat) : Prop where
  sound : ¬Listed s k
  fixed : sget false s.prot.fix k = false
  written : sget false s.prot.written k = true

/-- From s to t words of the memories were only read and written; engines and counters stand. -/
structure WordsTurn (t : State) : Prop where
  engines : t.engines = s.engines
  cnt : t.cnt = s.cnt
  listed : ∀ {k}, Listed t k → Listed s k
  freed : ∀ {k}, Listed s k → ¬Listed t k → Written t k
  kept : ∀ {k}, Written s k → Written t k

theorem sget_unlisted {α : Type} (d : α) {m : SMap α} {k : Nat} (h : k ∉ m.map (·.1)) : sget d m k = d := by
  induction m with
  | nil => rfl
  | cons e t ih =>
    simp only [List.map_cons, List.mem_cons, not_or] at h
    rw [sget, if_neg (Ne.symm h.1)]
    exact ih h.2

/-- A bucket's new value changes the bucket alone of the error logic. -/
theorem bucketUp_prot (mem v : Nat) :
    (bucketUp s mem v).prot = { s.prot with bucket := sput 0 s.prot.bucket mem v } := by
  rw [bucketUp, apply_ite State.prot, raiseAll_prot, ite_self]

end

section
variable {s t u : State}

theorem WordsTurn.trans (h : WordsTurn s t) (h' : WordsTurn t u) : WordsTurn s u where
  engines := h'.engines.trans h.engines
  cnt := h'.cnt.trans h.cnt
  listed hk := h.listed (h'.listed hk)
  freed {k} hs hu := by
    by_cases ht : Listed t k
    · exact h'.freed ht hu
    · exact h'.kept (h.freed hs ht)
  kept hk := h'.kept (h.kept hk)

/-- The errors listed stand, and a write-back is wanted for listed words alone. -/
theorem WordsTurn.of_read (he : t.engines = s.engines) (hc : t.cnt = s.cnt) (hb : t.prot.bad = s.prot.bad)
    (hf : ∀ k, ¬Listed s k → sget false t.prot.fix k = sget false s.prot.fix k) (hw : t.prot.written = s.prot.written) :
    WordsTurn s t where
  engines := he
  cnt := hc
  listed hk := by rwa [Listed, hb] at hk
  freed hk hk' := absurd hk (by rwa [Listed, hb] at hk')
  kept hk := ⟨by rw [Listed, hb]; exact hk.sound, (hf _ hk.sound).trans hk.fixed, by rw [hw]; exact hk.written⟩

theorem WordsTurn.refl (s : State) : WordsTurn s s := .of_read rfl rfl rfl (fun _ _ => rfl) rfl

theorem wordsTurn_bucketUp (s : State) (mem v : Nat) : WordsTurn s (bucketUp s mem v) := by
  have h := bucketUp_prot s mem v
  exact .of_read (bucketUp_engines ..) (bucketUp_cnt ..) (by rw [h]) (fun _ _ => by rw [h]) (by rw [h])

/-- An uncorrectable error met is counted. -/
theorem wordsTurn_recordUe (s : State) (mem word : Nat) (tag : Bool) : WordsTurn s (recordUe s mem word tag) := by
  refine .trans ?_ (wordsTurn_bucketUp ..)
  exact .of_read rfl rfl rfl (fun _ _ => rfl) rfl

/-- A correctable error met is counted, and its word wants a write-back. -/
theorem wordsTurn_recordCe {k : Nat} (h : Listed s k) : WordsTurn s (recordCe s k) := by
  unfold recordCe
  split
  · exact .refl s
  · refine .trans ?_ (wordsTurn_bucketUp ..)
    have hfix (j : Nat) (hj : ¬Listed s j) : sget false (sput false s.prot.fix k true) j = sget false s.prot.fix j :=
      sget_sput_ne _ _ _ fun e => hj (e ▸ h)
    exact .of_read rfl rfl rfl hfix rfl

theorem wordsTurn_touchWords (s : State) (ks : List Nat) : WordsTurn s (touchWords s ks) := by
  refine List.foldlRecOn ks _ (.refl s) fun t ht k _ => ht.trans ?_
  split
  · exact wordsTurn_recordUe ..
  next hbad =>
    have hlisted : Listed t k := by
      by_contra h
      simp [sget_unlisted none h] at hbad
    exact wordsTurn_recordCe hlisted
  · exact .refl t

/-- Of the words listed, those written are listed no more. -/
theorem listed_freshWords (s : State) (ks : List Nat) (j : Nat) : Listed (freshWords s ks) j ↔ Listed s j ∧ j ∉ ks := by
  have h (m : SMap (Option Bool)) :
      j ∈ (ks.foldl (fun m k => sput none m k none) m).map (·.1) ↔ j ∈ m.map (·.1) ∧ j ∉ ks := by
    induction ks generalizing m with
    | nil => simp
    | cons k ks ih =>
      rw [List.foldl_cons, ih]
      simp only [sput, if_true, serase, List.mem_map, List.mem_filter, List.mem_cons, decide_eq_true_eq]
      grind
  exact h s.prot.bad

theorem wordsTurn_freshWords (s : State) (ks : List Nat) : WordsTurn s (freshWords s ks) := by
  have hnew {k : Nat} (hk : k ∈ ks) : Written (freshWords s ks) k :=
    ⟨by simp [listed_freshWords, hk], by simp [freshWords, sget_foldl_sput, hk], by simp [freshWords, sget_foldl_sput, hk]⟩
  refine ⟨rfl, rfl, fun h => ((listed_freshWords ..).1 h).1, fun hs ht => hnew ?_, fun {k} hs => ?_⟩
  · simpa [listed_freshWords, hs] using ht
  · by_cases hk : k ∈ ks
    · exact hnew hk
    · exact ⟨by simp [listed_freshWords, hs.sound], by simp [freshWords, sget_foldl_sput, hk, hs.fixed],
        by simp [freshWords, sget_foldl_sput, hk, hs.written]⟩

theorem wordsTurn_store (s : State) (a : Nat) (b : Bytes) : WordsTurn s (store s a b) :=
  .trans (wordsTurn_freshWords s (wkeys a b.length)) (.of_read rfl rfl rfl (fun _ _ => rfl) rfl)

theorem wordsTurn_pushWrite (s : State) (w : LinkWrite) : WordsTurn s (pushWrite s w) :=
  .of_read rfl rfl rfl (fun _ _ => rfl) rfl

/-- The engines are as they were. -/
theorem WordsTurn.getEngine_eq (h : WordsTurn s t) (k : Nat) : getEngine t k = getEngine s k :=
  congrArg (fun m => sget Engine.reset m k) h.engines

/-! ## Output (R175, R177, R318) -/

theorem wordsTurn_putOut (s : State) (i : Nat) (g : Flight) (off : Nat) (b : Bytes) :
    WordsTurn s (putOut s i g off b).1 := by
  unfold putOut
  refine List.foldlRecOn (motive := fun a : State × Nat × Bool => WordsTurn s a.1) _ _ (.refl s) fun a ha p _ => ?_
  dsimp only
  split
  · refine List.foldlRecOn (motive := fun a : State × Nat × Bool => WordsTurn s a.1) _ _ ha fun a ha w _ => ?_
    split
    · exact ha.trans (wordsTurn_touchWords ..)
    · exact ha.trans (wordsTurn_store ..)
  · exact ha.trans (wordsTurn_pushWrite ..)

theorem wordsTurn_unload (s : State) (tk : Ticket) (f : Fail) (off : Nat) (out : Bytes) :
    WordsTurn s (unload s tk f off out).1 := by
  unfold unload
  split
  · refine .trans ?_ (wordsTurn_freshWords ..)
    exact List.foldlRecOn (motive := fun a : State × Bool => WordsTurn s a.1) _ _ (.refl s)
      fun a ha p _ => ha.trans (wordsTurn_putOut ..)
  · exact .refl s

/-- A status other than DONE leaves the output where it is. -/
theorem unload_refused (tk : Ticket) {f : Fail} (hf : f.1 ≠ .done) (off : Nat) (out : Bytes) :
    unload s tk f off out = (s, false) := by
  unfold unload
  split
  next hdone _ => exact absurd hdone hf
  · rfl

/-! ## Operand memory written to zero (R177, R200, R201) -/

theorem mem_operandErrs (s : State) (k j : Nat) : j ∈ operandErrs s k ↔ Listed s j ∧ j / 0x200000 = 0x110 + k := by
  simp only [operandErrs, Listed, List.mem_map, List.mem_filter, decide_eq_true_eq]
  grind

/-- The words with errors that an operation had when it began to unload are written, by its output or by the clear. -/
theorem WordsTurn.operand_written {k : Nat} (h : WordsTurn s t) (hu : u.prot = (freshWords t (operandErrs t k)).prot) :
    WordsWritten t u (operandErrs s k) := by
  obtain ⟨hwritten, hothers, hrest⟩ := wordsWritten_of_prot hu
  refine ⟨fun j hj => ?_, fun j hj => ?_, hrest⟩
  · by_cases hjt : j ∈ operandErrs t k
    · exact hwritten j hjt
    · obtain ⟨hs, hmem⟩ := (mem_operandErrs ..).1 hj
      have hfree : Written t j := h.freed hs fun ht => hjt ((mem_operandErrs ..).2 ⟨ht, hmem⟩)
      rw [(hothers j hjt).1, (hothers j hjt).2.1, (hothers j hjt).2.2]
      exact ⟨sget_unlisted none hfree.sound, hfree.fixed, hfree.written⟩
  · refine hothers j fun hjt => hj ?_
    obtain ⟨ht, hmem⟩ := (mem_operandErrs ..).1 hjt
    exact (mem_operandErrs ..).2 ⟨h.listed ht, hmem⟩

end

/-! ## An operation that has run its E rounds (R177, R193, R198, R204) -/

/-- What an operation leaves for its collect. -/
def finishedOp (x : Running) (o : Fail) : Finished where
  ticket := { x.ticket with resvIn := [], resvOut := [] }
  ended := x.s + x.e
  status := o.1
  detail := o.2
  toHand := if o.1 = .done then x.toHand else none

/-- The state once an operation has left engine k: u is the state after its unload. -/
def leftEngine (u : State) (k : Nat) (x : Running) (o : Fail) : State :=
  modEngine (countEnd (zeroOperand u k) x.ticket o) k fun e =>
    { e with run := none, mask := none, ended := e.ended ++ [finishedOp x o], freeAt := x.s + x.e }

section
variable {s u : State} {deck : Fin 16} {x : Running} {o : Fail}

/-- The books of an operation that ended are counters. -/
theorem countEnd_frame (s : State) (tk : Ticket) (f : Fail) : ∃ c, countEnd s tk f = { s with cnt := c } := by
  unfold countEnd
  dsimp only
  split <;> split <;> exact ⟨_, rfl⟩

/-- A refusal counts its range or its point. -/
theorem countEnd_pkeInvalid (s : State) (tk : Ticket) {f : Fail} (hf : f.1 ≠ .done) :
    (countEnd s tk f).cnt.pkeInvalid =
      if f.1 = .rangeInvalid ∨ f.1 = .pointInvalid then satAdd s.cnt.pkeInvalid 1 else s.cnt.pkeInvalid := by
  rw [countEnd, if_neg fun h => hf h.2.2.1]
  split <;> rfl

theorem getEngine_countEnd (s : State) (tk : Ticket) (f : Fail) (k : Nat) : getEngine (countEnd s tk f) k = getEngine s k := by
  obtain ⟨c, hc⟩ := countEnd_frame s tk f
  rw [hc]
  rfl

theorem getEngine_zeroOperand (u : State) (k : Nat) :
    getEngine (zeroOperand u k) k = { getEngine u k with zeroed := true, cleared := true } :=
  getEngine_modEngine (freshWords u (operandErrs u k)) k _

theorem getEngine_leftEngine (u : State) (k : Nat) (x : Running) (o : Fail) : getEngine (leftEngine u k x o) k =
    { getEngine u k with
      run := none, mask := none, zeroed := true, cleared := true, freeAt := x.s + x.e
      ended := (getEngine u k).ended ++ [finishedOp x o] } := by
  rw [leftEngine, getEngine_modEngine, getEngine_countEnd, getEngine_zeroOperand]

theorem leftEngine_prot (u : State) (k : Nat) (x : Running) (o : Fail) :
    (leftEngine u k x o).prot = (freshWords u (operandErrs u k)).prot := by
  obtain ⟨c, hc⟩ := countEnd_frame (zeroOperand u k) x.ticket o
  rw [leftEngine, hc]
  rfl

theorem leftEngine_frame (h : WordsTurn s u) (k : Nat) (x : Running) (o : Fail) :
    { leftEngine u k x o with engines := s.engines, cnt := s.cnt, prot := u.prot } = u := by
  obtain ⟨c, hc⟩ := countEnd_frame (zeroOperand u k) x.ticket o
  rw [leftEngine, hc, ← h.engines, ← h.cnt]
  rfl

/-- ENGINE_OPERATION_END of an operation that no error met: its output unloaded, it leaves the engine. -/
theorem execEngineOperationEnd_leaves (hrun : running s = true) (hx : (getEngine s deck.val).run = some x)
    (hraw : x.ticket.raw = none) (hp : x.played = true) (ho : x.outcome = some o) (hecc : o.1 ≠ .eccUncorrectable)
    (hdue : x.s + x.e ≤ s.round) (hbad : operandBad s deck.val = [])
    (hu : unload (touchWords s (operandErrs s deck.val)) x.ticket o (64 * x.sent) (x.out.drop (64 * x.sent)) = (u, false)) :
    execEngineOperationEnd deck s = .next
      (if s.dealer.frozen then postEnded (leftEngine u deck.val x o) deck.val s.dealer.frozeAt
       else leftEngine u deck.val x o) := by
  simp only [execEngineOperationEnd, hx, hraw, hrun, hp, hdue, hbad, ho, hu, List.isEmpty_nil, Option.getD_some, decide_true,
    Bool.and_self, if_true, Bool.false_eq_true, if_false, hecc, leftEngine, finishedOp]

/-- Two changes of one engine are one. -/
theorem modEngine_modEngine (s : State) (k : Nat) (f g : Engine → Engine) :
    modEngine (modEngine s k f) k g = modEngine s k fun e => g (f e) := by
  rw [modEngine, getEngine_modEngine, modEngine, setEngine_setEngine]
  rfl

/-- Without a value for a slot, the status stands as the operation left it. -/
theorem placeFinished_valueless (s : State) {f : Finished} (h : f.toHand = none) :
    placeFinished s f = (s, (f.status, f.detail)) := by
  simp only [placeFinished, h]

/-- A refused operation that leaves its engine under a freeze is posted without a collect (R199). -/
theorem postEnded_leftEngine {k : Nat} (hended : (getEngine u k).ended = []) (ho : o.1 ≠ .done) (r : Round) :
    postEnded (leftEngine u k x o) k r = decide_
      (modEngine (countEnd (zeroOperand u k) x.ticket o) k fun e =>
        { e with run := none, mask := none, ended := [], colls := [], freeAt := x.s + x.e, tickets := e.tickets - 1 })
      x.ticket.seat x.ticket.seq o.1 o.2 r false := by
  have hfs : (getEngine (leftEngine u k x o) k).ended = [finishedOp x o] := by
    rw [getEngine_leftEngine, hended]
    rfl
  have hvalue : (finishedOp x o).toHand = none := if_neg ho
  rw [postEnded, hfs, List.foldl_cons, List.foldl_nil, placeFinished_valueless _ hvalue, endTicket, leftEngine,
    modEngine_modEngine, modEngine_modEngine]
  rfl

end

/-! ## Start and collect (R177, R197, R198) -/

section
variable {s : State} {deck : Fin 16}

/-- ENGINE_START of a start whose key load passed. -/
theorem execEngineStart_begins {st : Start} (hrun : running s = true) (hst : (getEngine s deck.val).start = some st)
    (hidle : (getEngine s deck.val).run = none) (hl : st.loaded = true) (hf : st.refused = none) (hs : st.s ≤ s.round) :
    execEngineStart deck s = .next (setEngine s deck.val { getEngine s deck.val with
      start := none, mask := some (Config.opMask (st.blocks.take 2)), zeroed := false
      run := some { ticket := st.ticket, s := st.s, e := ticketE st.ticket ((getEngine s deck.val).blind.at_ st.s) 0
                    key := st.key, blocks := st.blocks, blind := (getEngine s deck.val).blind.at_ st.s, played := false
                    outcome := none, out := [], sent := 0, toHand := none } }) := by
  simp [execEngineStart, hrun, hst, hidle, hl, hf, hs]

/-- ENGINE_COLLECT that is due, for an operation without a value for a slot. -/
theorem execEngineCollect_posts {l : Nat} {c : Round} {cs : List (Nat × Round)} {fin : Finished} {fs : List Finished}
    (hrun : running s = true) (hcs : (getEngine s deck.val).colls = (l, c) :: cs)
    (hfs : (getEngine s deck.val).ended = fin :: fs) (hv : fin.toHand = none) (hc : c ≤ s.round) :
    execEngineCollect deck s = .next (decide_
      (setEngine s deck.val { getEngine s deck.val with
        colls := cs, ended := fs, made := (getEngine s deck.val).made ++ [(l, c)]
        tickets := (getEngine s deck.val).tickets - 1 })
      fin.ticket.seat fin.ticket.seq fin.status fin.detail c false) := by
  simp [execEngineCollect, hrun, hcs, hfs, hc, placeFinished_valueless _ hv, endTicket, modEngine, setEngine_setEngine]

end

/-- Settles O37: each command by the rule of the case its premises name; the words an operation met, by WordsTurn. -/
theorem engineTurns : Obligations.EngineTurns := by
  unfold Obligations.EngineTurns
  intro deck s st x o l c cs fin fs k e bl errs met hrun
  have hmet : WordsTurn s met := wordsTurn_touchWords ..
  refine ⟨execEngineStart_begins hrun, fun hx hraw hp ho hne hdue hbad hecc hthaw => ?_,
    fun hx hraw hp ho hdone hdue hbad hthaw => ?_, fun hx hraw hp ho hne hdue hbad hecc hfrozen hended => ?_,
    fun hcs hfs hv hc => ⟨_, execEngineCollect_posts hrun hcs hfs hv hc, decide_ends ..⟩⟩
  · refine ⟨leftEngine met k x o, ?_, ?_, ?_, leftEngine_frame hmet .., hmet.operand_written (leftEngine_prot ..)⟩
    · refine (execEngineOperationEnd_leaves hrun hx hraw hp ho hecc hdue hbad (unload_refused _ hne ..)).trans ?_
      rw [hthaw]
      rfl
    · rw [getEngine_leftEngine, hmet.getEngine_eq, finishedOp, if_neg hne]
    · rw [← hmet.cnt]
      exact countEnd_pkeInvalid _ _ hne
  · intro r hr
    have hecc : o.1 ≠ .eccUncorrectable := by simp [hdone]
    have hturn : WordsTurn s r.1 := hmet.trans (wordsTurn_unload ..)
    refine ⟨leftEngine r.1 k x o, ?_, ?_, ?_, hturn.operand_written (leftEngine_prot ..)⟩
    · refine (execEngineOperationEnd_leaves hrun hx hraw hp ho hecc hdue hbad (Prod.ext rfl hr)).trans ?_
      rw [hthaw]
      rfl
    · rw [getEngine_leftEngine, hturn.getEngine_eq, finishedOp, if_pos hdone]
    · exact congrArg (fun t : State => { t with prot := s.prot }) (leftEngine_frame hturn k x o)
  · refine ⟨_, (execEngineOperationEnd_leaves hrun hx hraw hp ho hecc hdue hbad (unload_refused _ hne ..)).trans ?_,
      decide_ends ..⟩
    rw [if_pos hfrozen, postEnded_leftEngine (by rw [hmet.getEngine_eq]; exact hended) hne]

end Sys2Proof.Machine
end

section
/-!
PROOFS. What an erase of the key store leaves: work in flight is aborted, the commits of its round are undone, and the store
is emptied.
-/
namespace Sys2Proof.Machine

/-! ## Entries of a table -/

/-- A key that a table lists once reads as its entry. -/
theorem sget_of_mem {α : Type} [DecidableEq α] {d : α} {m : SMap α} (h : swf d m = true) {e : Nat × α} (he : e ∈ m) :
    sget d m e.1 = e.2 := by
  obtain ⟨-, hp⟩ := (swf_iff d m).1 h
  clear h
  induction m with
  | nil => cases he
  | cons x t ih =>
    obtain ⟨hx, ht⟩ := List.pairwise_cons.1 hp
    rcases List.mem_cons.1 he with rfl | he
    · exact if_pos rfl
    · exact (if_neg (Nat.ne_of_lt (hx e he))).trans (ih he ht)

/-- What a table reads as, the default apart, it lists. -/
theorem mem_of_sget_ne {α : Type} {d : α} {m : SMap α} {k : Nat} (h : sget d m k ≠ d) : (k, sget d m k) ∈ m := by
  induction m with
  | nil => exact absurd rfl h
  | cons x t ih =>
    rw [sget] at h ⊢
    split at h
    next hk => exact List.mem_cons.2 (.inl (by rw [if_pos hk, ← hk]))
    next hk =>
      rw [if_neg hk]
      exact List.mem_cons_of_mem _ (ih h)

/-- A seat with a descriptor in flight is listed. -/
theorem getSeat_mem {s : State} {i : Nat} {g : Flight} (hg : g ∈ (getSeat s i).flights) : (i, getSeat s i) ∈ s.seats :=
  mem_of_sget_ne fun e => by
    rw [getSeat, e] at hg
    cases hg

/-- What one member's step establishes and every step keeps holds after a fold. -/
theorem foldl_establishes {α : Type} {Q : State → Prop} {f : State → α → State} {l : List α} {x : α} (hx : x ∈ l)
    (hf : ∀ t, Q (f t x)) (hkeep : ∀ t y, Q t → Q (f t y)) : ∀ s, Q (l.foldl f s) := by
  induction l with
  | nil => cases hx
  | cons y l ih =>
    intro s
    rcases List.mem_cons.1 hx with rfl | hx
    · exact foldl_carries hkeep l (hf s)
    · exact ih hx _

/-! ## Work aborted (R61, R200, R225) -/

/-- Every bank of lane l is without a key. -/
def NoKeys (s : State) (l : Nat) : Prop :=
  (getLane s l).banks.k0a = none ∧ (getLane s l).banks.k0i = none ∧ (getLane s l).banks.k1a = none
    ∧ (getLane s l).banks.k1i = none ∧ (getLane s l).banks.dummy = none ∧ (getLane s l).banks.keyin = none

/-- From s to t work was aborted: descriptors whose status is decided stand, none ends with DONE, and no lane takes a key;
the clock and the always-on domain stand. -/
structure Aborted (s t : State) : Prop where
  stands : ∀ {i g}, g ∈ (getSeat s i).flights → g.decided.isSome → g ∈ (getSeat t i).flights
  done : ∀ {i g d}, g ∈ (getSeat t i).flights → g.decided = some d → d.status = .done → g ∈ (getSeat s i).flights
  banks : ∀ l, NoKeys t l ∨ (getLane t l).banks = (getLane s l).banks
  round : t.round = s.round
  aon : t.aon = s.aon

section
variable {s t u : State}

/-- Work is not touched where seats and lanes stand. -/
theorem Aborted.of_parts (hs : t.seats = s.seats) (hl : t.lanes = s.lanes) (hr : t.round = s.round) (ha : t.aon = s.aon) :
    Aborted s t where
  stands hg _ := by rwa [getSeat, hs]
  done hg _ _ := by rwa [getSeat, hs] at hg
  banks l := .inr (by rw [getLane, hl]; rfl)
  round := hr
  aon := ha

theorem Aborted.refl (s : State) : Aborted s s := .of_parts rfl rfl rfl rfl

theorem Aborted.noKeys (h : Aborted s t) {l : Nat} (hl : NoKeys s l) : NoKeys t l := by
  rcases h.banks l with hb | hb
  · exact hb
  · unfold NoKeys
    rwa [hb]

theorem Aborted.trans (h : Aborted s t) (h' : Aborted t u) : Aborted s u where
  stands hg hd := h'.stands (h.stands hg hd) hd
  done hg hd hs := h.done (h'.done hg hd hs) hd hs
  banks l := by
    rcases h'.banks l with hb | hb
    · exact .inl hb
    · rcases h.banks l with hk | hk
      · exact .inl (h'.noKeys hk)
      · exact .inr (hb.trans hk)
  round := h'.round.trans h.round
  aon := h'.aon.trans h.aon

/-- A change of other parts than seats and lanes. -/
theorem Aborted.parts (h : Aborted s t) (hs : u.seats = t.seats) (hl : u.lanes = t.lanes) (hr : u.round = t.round)
    (ha : u.aon = t.aon) : Aborted s u :=
  h.trans (.of_parts hs hl hr ha)

/-- A change of a lane that takes no key into its banks. -/
theorem Aborted.modLane (h : Aborted s t) (l : Nat) (f : Lane → Lane)
    (hf : NoKeys (modLane t l f) l ∨ (f (getLane t l)).banks = (getLane t l).banks) : Aborted s (modLane t l f) := by
  refine h.trans ⟨fun hg _ => hg, fun hg _ _ => hg, fun k => ?_, rfl, rfl⟩
  by_cases hk : k = l
  · subst hk
    simpa using hf
  · exact .inr (by rw [getLane_modLane_ne t f hk])

theorem Aborted.modBind (h : Aborted s t) (l : Nat) (b : Binding) (f : Binding → Binding) : Aborted s (modBind t l b f) :=
  h.modLane l _ (.inr rfl)

theorem Aborted.setEngine (h : Aborted s t) (k : Nat) (x : Engine) : Aborted s (setEngine t k x) := h.parts rfl rfl rfl rfl

theorem Aborted.modEngine (h : Aborted s t) (k : Nat) (f : Engine → Engine) : Aborted s (modEngine t k f) :=
  h.setEngine k _

theorem Aborted.closeRec (h : Aborted s t) (o : Option Nat) : Aborted s (closeRec t o) := by
  obtain ⟨r, e⟩ := closeRec_frame t o
  rw [e]
  exact h.parts rfl rfl rfl rfl

theorem Aborted.raiseAll (h : Aborted s t) (b : Nat) : Aborted s (raiseAll t b) :=
  h.parts (raiseAll_seats ..) (raiseAll_lanes ..) (raiseAll_round ..) (raiseAll_aon ..)

/-- A descriptor of a seat after one of its descriptors was decided: as before, or decided by this. -/
theorem mem_endedSeat {x : Seat} {seq : Nat} {d : Decided} {g : Flight} (h : g ∈ (endedSeat x seq d).flights) :
    g ∈ x.flights ∨ g.decided = some d := by
  obtain ⟨g', hg', rfl⟩ := List.mem_map.1 h
  split
  · exact .inr rfl
  · exact .inl hg'

/-- A decided descriptor is not decided again. -/
theorem decided_mem_endedSeat {x : Seat} {g : Flight} (seq : Nat) (d : Decided) (hg : g ∈ x.flights)
    (hd : g.decided.isSome) : g ∈ (endedSeat x seq d).flights := by
  refine List.mem_map.2 ⟨g, hg, if_neg ?_⟩
  rintro ⟨-, hn⟩
  simp [hn] at hd

section
variable {st : Status} (hst : st ≠ .done)
include hst

theorem Aborted.decide (h : Aborted s t) (i seq : Nat) (d : BitVec 16) (r : Round) (house : Bool) :
    Aborted s (decide_ t i seq st d r house) := by
  have he := decide_ends t i seq st d r house
  refine h.trans ⟨fun {j g} hg hd => ?_, fun {j g d'} hg hd hs => ?_, fun l => .inr (by simp [getLane]),
    by simp, by simp⟩
  · by_cases hj : j = i
    · subst hj
      rw [he.seat]
      exact decided_mem_endedSeat _ _ hg hd
    · rwa [he.seats j hj]
  · by_cases hj : j = i
    · subst hj
      rw [he.seat] at hg
      refine (mem_endedSeat hg).resolve_right fun hn => hst ?_
      rw [← hs, ← Option.some.inj (hn.symm.trans hd)]
    · rwa [he.seats j hj] at hg

theorem Aborted.abortSeg (h : Aborted s t) (l : Nat) (b : Binding) (d : BitVec 16) (r : Round) :
    Aborted s (abortSeg t l b st d r) :=
  ((h.modBind l b _).decide hst ..).closeRec _

theorem Aborted.abortEngine (h : Aborted s t) (k : Nat) (p : Ticket → Bool) (d : BitVec 16) (r : Round) :
    Aborted s (abortEngine t k p st d r) :=
  foldl_carries (P := Aborted s) (fun _ _ hu => (hu.modEngine k _).decide hst ..) _ (h.setEngine k _)

theorem Aborted.abortHouse (h : Aborted s t) (p : Flight → Bool) (d : BitVec 16) (r : Round) :
    Aborted s (abortHouse t p st d r) := by
  refine foldl_carries (P := Aborted s) (fun _ _ hu => foldl_carries (P := Aborted s) (fun _ _ hv => ?_) _ hu) _ h
  split
  · exact hv.decide hst ..
  · exact hv

end

theorem Aborted.endSession (h : Aborted s t) (e : QuorumEnd) : Aborted s (endSession t e) := by
  unfold Machine.endSession
  dsimp only
  split
  · exact h
  · have hslots : Aborted s (modSlot (modSlot t 0 leaveSession) 1 leaveSession) := h.parts rfl rfl rfl rfl
    refine Aborted.raiseAll (Aborted.abortHouse (by decide) ?_ ..) _
    exact hslots.parts rfl rfl rfl rfl

/-! ## What the end of a session leaves (R370) -/

/-- The migration records stand. -/
theorem endSession_records (s : State) (e : QuorumEnd) : (endSession s e).records = s.records := by
  have hh (t : State) (p : Flight → Bool) (st : Status) (d : BitVec 16) (r : Round) :
      (abortHouse t p st d r).records = t.records :=
    foldl_same State.records _ (fun _ _ => foldl_same State.records _ (fun _ _ => by split <;> simp) _ _) _ _
  unfold endSession
  dsimp only
  split
  · rfl
  · exact (raiseAll_records ..).trans (hh ..)

/-- No session is left. -/
theorem endSession_idle (s : State) (e : QuorumEnd) : (endSession s e).quorum.st = .idle := by
  have hh (t : State) (p : Flight → Bool) (st : Status) (d : BitVec 16) (r : Round) :
      (abortHouse t p st d r).quorum = t.quorum :=
    foldl_same State.quorum _ (fun _ _ => foldl_same State.quorum _ (fun _ _ => by split <;> simp) _ _) _ _
  unfold endSession
  dsimp only
  split
  next hidle => exact hidle
  · rw [raiseAll_quorum, hh]

/-- A key store without hands has no reservation to give up. -/
theorem endSession_keys (hh : s.keys.hands = []) (e : QuorumEnd) : (endSession s e).keys = s.keys := by
  have hP : AbortSafe fun t => t.keys = s.keys :=
    ⟨fun h => fun _ _ _ _ _ _ _ _ _ => h, fun {t} h seq => by simp only [dropResv, h, hh, List.foldl_nil]; rw [← hh]⟩
  exact carries_endSession hP rfl e

/-! ## The erase of lanes, engines and flights (R224, R225) -/

/-- A lane without keys. -/
def withoutKeys (x : Lane) : Lane :=
  { x with banks := { x.banks with k0a := none, k0i := none, k1a := none, k1i := none, dummy := none, keyin := none } }

theorem noKeys_modLane (s : State) (l : Nat) : NoKeys (modLane s l withoutKeys) l := by
  simp [NoKeys, withoutKeys]

/-- From its banks cleared on, the erase of a lane only aborts work. -/
theorem eraseLane_aborts (s : State) (l : Nat) : Aborted (modLane s l withoutKeys) (eraseLane s l) := by
  refine foldl_carries (P := Aborted _) (fun t b ht => ?_) _ (.refl _)
  split
  · exact ht
  · split
    · exact ht.abortSeg (by decide) ..
    · exact ht.modBind ..

theorem Aborted.eraseLane (h : Aborted s t) (l : Nat) : Aborted s (eraseLane t l) :=
  (h.modLane l withoutKeys (.inl (noKeys_modLane t l))).trans (eraseLane_aborts t l)

theorem noKeys_eraseLane (s : State) (l : Nat) : NoKeys (eraseLane s l) l :=
  (eraseLane_aborts s l).noKeys (noKeys_modLane s l)

theorem Aborted.eraseEngine (h : Aborted s t) (k : Nat) : Aborted s (eraseEngine t k) := by
  unfold Machine.eraseEngine
  exact (h.abortEngine (by decide) ..).parts rfl rfl rfl rfl

theorem Aborted.eraseFlights (h : Aborted s t) (i : Nat) : Aborted s (eraseFlights t i) := by
  refine foldl_carries (P := Aborted s) (fun u g hu => ?_) _ h
  dsimp only
  split
  · exact hu.decide (by decide) ..
  · exact hu

end

/-- Lanes and engines erased. -/
def abortedWork (s : State) : State := eachEngine (eachLane s eraseLane) eraseEngine

theorem eachLane_aborted (s : State) : Aborted s (eachLane s eraseLane) :=
  foldl_carries (P := Aborted s) (fun _ _ h => h.eraseLane _) _ (.refl s)

theorem eachEngine_aborted (s : State) : Aborted s (eachEngine s eraseEngine) :=
  foldl_carries (P := Aborted s) (fun _ _ h => h.eraseEngine _) _ (.refl s)

theorem eachSeat_aborted (s : State) : Aborted s (eachSeat s eraseFlights) :=
  foldl_carries (P := Aborted s) (fun _ _ h => h.eraseFlights _) _ (.refl s)

/-- A lane that the table lists is cleared in its turn; any other is as at reset. -/
theorem noKeys_eachLane (s : State) (l : Nat) : NoKeys (eachLane s eraseLane) l := by
  by_cases hl : l ∈ s.lanes.map (·.1)
  · obtain ⟨e, he, rfl⟩ := List.mem_map.1 hl
    exact foldl_establishes (Q := fun t => NoKeys t e.1) he (fun t => noKeys_eraseLane t _)
      (fun t y h => ((Aborted.refl t).eraseLane _).noKeys h) s
  · refine (eachLane_aborted s).noKeys ?_
    have hreset : getLane s l = Lane.reset := sget_unlisted _ hl
    unfold NoKeys
    rw [hreset]
    decide

/-! ## The commits of the round undone (R228) -/

/-- A hand service or ceremony, LIFECYCLE_SET apart, that committed in this round as d says. -/
def Committed (s : State) (g : Flight) (d : Decided) : Prop :=
  g.decided = some d ∧ d.house = true ∧ d.status = .done ∧ d.round = s.round
    ∧ (isService g.desc.op = true ∨ (isCeremony g.desc.op = true ∧ g.desc.op ≠ 0x77))

theorem committedNow_iff {s : State} {g : Flight} : committedNow s g = true ↔ ∃ d, Committed s g d := by
  unfold committedNow Committed
  cases g.decided with
  | none => simp
  | some d => simp [and_assoc]

/-- Some STORE_INIT made the ROOT_KEY in this round. -/
def RootMade (s : State) : Prop := ∃ i g d, g ∈ (getSeat s i).flights ∧ Committed s g d ∧ g.undo = some .root

/-- The commits of this round, and no other, are there after work was aborted. -/
theorem Aborted.committed {s t : State} (h : Aborted s t) {i : Nat} {g : Flight} {d : Decided} :
    (g ∈ (getSeat t i).flights ∧ Committed t g d) ↔ (g ∈ (getSeat s i).flights ∧ Committed s g d) := by
  unfold Committed
  rw [h.round]
  constructor
  · rintro ⟨hg, hd, hhouse, hdone, hr⟩
    exact ⟨h.done hg hd hdone, hd, hhouse, hdone, hr⟩
  · rintro ⟨hg, hd, hr⟩
    exact ⟨h.stands hg (by simp [hd]), hd, hr⟩

theorem Aborted.rootMade {s t : State} (h : Aborted s t) : RootMade t ↔ RootMade s := by
  simp only [RootMade, ← and_assoc, h.committed]

/-- What the commits of this round changed. -/
def undoList (s : State) : List Undo :=
  s.seats.flatMap fun e => (e.2.flights.filter (committedNow s)).filterMap (·.undo)

/-- The seats' tables tell of each commit once. -/
theorem root_mem_undoList {s : State} (hs : swf Seat.reset s.seats = true) : .root ∈ undoList s ↔ RootMade s := by
  simp only [undoList, List.mem_flatMap, List.mem_filterMap, List.mem_filter, committedNow_iff]
  constructor
  · rintro ⟨e, he, g, ⟨hg, d, hd⟩, hu⟩
    refine ⟨e.1, g, d, ?_, hd, hu⟩
    rwa [getSeat, sget_of_mem hs he]
  · rintro ⟨i, g, d, hg, hd, hu⟩
    exact ⟨_, getSeat_mem hg, g, ⟨hg, d, hd⟩, hu⟩

/-- The commits are only put in order. -/
theorem mem_insUndo {s : State} {u v : Undo} {us : List Undo} : u ∈ insUndo s v us ↔ u = v ∨ u ∈ us := by
  induction us with
  | nil => simp [insUndo]
  | cons w us ih =>
    rw [insUndo]
    split
    · simp
    · simp only [List.mem_cons, ih]
      tauto

theorem mem_foldr_insUndo {s : State} {u : Undo} {us : List Undo} : u ∈ us.foldr (insUndo s) [] ↔ u ∈ us := by
  induction us with
  | nil => rfl
  | cons v us ih => rw [List.foldr_cons, mem_insUndo, ih, List.mem_cons]

/-- Commits undone, the last one first. -/
def undoAll (s : State) : State := ((undoList s).foldr (insUndo s) []).foldl undoCommit s

/-- Entries taken from the event log leave what does not hang on the log. -/
theorem unlog_same {α : Type} (p : State → α)
    (hp : ∀ (t : State) a b c, p { t with aon := { t.aon with log := a, logNext := b, logWraps := c } } = p t) (s : State)
    (m : LogMark) : p (unlog s m) = p s :=
  (foldl_same p pushLog (fun t _ => hp t ..) _ _).trans (hp s ..)

/-- What the undoing of commits leaves. -/
structure CommitsUndone (s t : State) : Prop where
  flights : ∀ i, (getSeat t i).flights = (getSeat s i).flights
  lanes : t.lanes = s.lanes
  round : t.round = s.round
  epoch : t.aon.epoch = s.aon.epoch

theorem CommitsUndone.undo {s t : State} (h : CommitsUndone s t) (u : Undo) : CommitsUndone s (undoCommit t u) := by
  cases u with
  | root => exact ⟨h.flights, h.lanes, h.round, h.epoch⟩
  | suit k v =>
    refine ⟨fun i => ?_, h.lanes, h.round, h.epoch⟩
    rw [← h.flights i]
    by_cases hi : i = k
    · subst hi
      simp [undoCommit]
    · simp [undoCommit, getSeat_modSeat_ne t _ hi]
  | tcr d fresh m | latch bs fresh again m =>
    exact ⟨fun i => (unlog_same (fun t => (getSeat t i).flights) (fun _ _ _ _ => rfl) t m).trans (h.flights i),
      (unlog_same State.lanes (fun _ _ _ _ => rfl) t m).trans h.lanes,
      (unlog_same State.round (fun _ _ _ _ => rfl) t m).trans h.round,
      (unlog_same (·.aon.epoch) (fun _ _ _ _ => rfl) t m).trans h.epoch⟩

theorem undoAll_commitsUndone (s : State) : CommitsUndone s (undoAll s) :=
  foldl_carries (P := CommitsUndone s) (fun _ u h => h.undo u) _ ⟨fun _ => rfl, rfl, rfl, rfl⟩

/-- ROOT_KEY is gone. -/
def NoRoot (s : State) : Prop := s.aon.rootKey = zeros 32 ∧ s.aon.rootValid = false

/-- Commits but that of a new ROOT_KEY are undone without it. -/
theorem undoCommit_root {s : State} {u : Undo} (h : u ≠ .root) :
    (undoCommit s u).aon.rootKey = s.aon.rootKey ∧ (undoCommit s u).aon.rootValid = s.aon.rootValid := by
  cases u with
  | root => exact absurd rfl h
  | suit k v => exact ⟨rfl, rfl⟩
  | tcr d fresh m | latch bs fresh again m =>
    exact ⟨unlog_same (·.aon.rootKey) (fun _ _ _ _ => rfl) s m, unlog_same (·.aon.rootValid) (fun _ _ _ _ => rfl) s m⟩

theorem undoAll_noRoot {s : State} (h : .root ∈ undoList s) : NoRoot (undoAll s) := by
  refine foldl_establishes (mem_foldr_insUndo.2 h) (fun t => ⟨rfl, rfl⟩) (fun t u ht => ?_) s
  by_cases hu : u = .root
  · subst hu
    exact ⟨rfl, rfl⟩
  · obtain ⟨hkey, hvalid⟩ := undoCommit_root (s := t) hu
    exact ⟨hkey.trans ht.1, hvalid.trans ht.2⟩

theorem undoAll_keepsRoot {s : State} (h : .root ∉ undoList s) :
    (undoAll s).aon.rootKey = s.aon.rootKey ∧ (undoAll s).aon.rootValid = s.aon.rootValid := by
  have hne (u : Undo) (hu : u ∈ (undoList s).foldr (insUndo s) []) : u ≠ .root := by
    rintro rfl
    exact h (mem_foldr_insUndo.1 hu)
  exact ⟨foldl_same_of_mem (·.aon.rootKey) undoCommit _ (fun u hu t => (undoCommit_root (hne u hu)).1) s,
    foldl_same_of_mem (·.aon.rootValid) undoCommit _ (fun u hu t => (undoCommit_root (hne u hu)).2) s⟩

/-- A descriptor whose commit is not made after all. -/
def zeroisedFlight (g : Flight) : Flight :=
  { g with undo := none, decided := g.decided.map fun d => { d with status := .zeroised, detail := 0 } }

/-- Of a seat's descriptors those that committed in the round become ZEROISED. -/
def zeroiseNow (s : State) (g : Flight) : Flight := if committedNow s g then zeroisedFlight g else g

theorem zeroiseNow_twice (s : State) (g : Flight) : zeroiseNow s (zeroiseNow s g) = zeroiseNow s g := by
  have hz (x : Flight) : committedNow s (zeroisedFlight x) = false := by
    unfold committedNow zeroisedFlight
    cases x.decided <;> simp
  by_cases h : committedNow s g = true
  · simp [zeroiseNow, h, hz]
  · simp [zeroiseNow, h]

/-- Every seat of a list has its descriptors changed, once however often it is listed. -/
theorem flights_foldl_zeroise (s : State) (l : List (Nat × Seat)) (i : Nat) : ∀ t : State,
    (getSeat (l.foldl (fun t e => modFlights t e.1 (committedNow s) zeroisedFlight) t) i).flights =
      if i ∈ l.map (·.1) then (getSeat t i).flights.map (zeroiseNow s) else (getSeat t i).flights := by
  induction l with
  | nil => exact fun t => rfl
  | cons e l ih =>
    intro t
    rw [List.foldl_cons, ih]
    by_cases hi : i = e.1
    · subst hi
      rw [getSeat_modFlights]
      change (if _ then ((getSeat t e.1).flights.map (zeroiseNow s)).map (zeroiseNow s)
        else (getSeat t e.1).flights.map (zeroiseNow s)) = _
      simp [Function.comp_def, zeroiseNow_twice]
    · simp only [getSeat_modFlights_ne t _ _ hi, List.map_cons, List.mem_cons, hi, false_or]

theorem eraseCommitted_eq (s : State) : eraseCommitted s =
    (undoAll s).seats.foldl (fun t e => modFlights t e.1 (committedNow s) zeroisedFlight) (undoAll s) := rfl

/-- Beside seats, the erase of the commits changes what undoing them changes. -/
theorem eraseCommitted_same {α : Type} (p : State → α) (hp : ∀ (t : State) m, p { t with seats := m } = p t)
    (s : State) : p (eraseCommitted s) = p (undoAll s) := by
  rw [eraseCommitted_eq]
  exact foldl_same p _ (fun t _ => hp t _) _ _

theorem eraseCommitted_flights (s : State) (i : Nat) :
    (getSeat (eraseCommitted s) i).flights = (getSeat s i).flights.map (zeroiseNow s) := by
  rw [eraseCommitted_eq, flights_foldl_zeroise, (undoAll_commitsUndone s).flights]
  split
  · rfl
  next hi =>
    have hreset : getSeat (undoAll s) i = Seat.reset := sget_unlisted _ hi
    have hnone : (getSeat s i).flights = [] := by
      rw [← (undoAll_commitsUndone s).flights, hreset]
      rfl
    simp [hnone]

/-- What committed in the round of the erase is ZEROISED. -/
theorem eraseCommitted_zeroises {s : State} {i : Nat} {g : Flight} {d : Decided} (hg : g ∈ (getSeat s i).flights)
    (hd : Committed s g d) : zeroisedFlight g ∈ (getSeat (eraseCommitted s) i).flights := by
  rw [eraseCommitted_flights]
  exact List.mem_map.2 ⟨g, hg, if_pos (committedNow_iff.2 ⟨d, hd⟩)⟩

/-! ## The whole erase -/

/-- Work aborted, commits undone. -/
def workErased (s : State) : State := eachSeat (eraseCommitted (abortedWork s)) eraseFlights

/-- The store emptied in the erase of s: t is what the erase made of the rest. -/
def storeEmptied (s t : State) : State := { t with
  keys := { t.keys with
    ready := false, rearm := none, rearmRes := none, rearmBlk := [], storeKey := none, migKey := none
    eraseAt := s.round, zeroAt := none
    wiping := s.keys.wiping || (s.keys.ready || false)
    wipeAt := if s.keys.ready || false then s.round else s.keys.wipeAt
    wipeLeft := if s.keys.ready || false then Config.storeGranules else s.keys.wipeLeft
    hands := [], zeroing := [] }
  aon := { t.aon with epoch := if s.keys.ready || false then t.aon.epoch + 1 else t.aon.epoch }
  records := [] }

theorem eraseStore_eq (s : State) : eraseStore s false = endSession (storeEmptied s (workErased s)) .erase := rfl

section
variable (s : State)

theorem abortedWork_aborted : Aborted s (abortedWork s) := (eachLane_aborted s).trans (eachEngine_aborted _)

theorem abortedWork_tables (h : Tables s) : Tables (abortedWork s) := by
  have hk : Keeps true s (abortedWork s) :=
    eachEngine_keeps (fun t k => eraseEngine_keeps (.refl t))
      (eachLane_keeps (fun t l => eraseLane_keeps (.refl t)) (.refl s))
  exact hk.tables h

theorem eraseStore_keys : (eraseStore s false).keys = (storeEmptied s (workErased s)).keys := by
  rw [eraseStore_eq]
  exact endSession_keys rfl _

theorem eraseStore_aon : (eraseStore s false).aon = (storeEmptied s (workErased s)).aon := by
  rw [eraseStore_eq]
  exact ((Aborted.refl _).endSession _).aon

/-- Of the always-on domain, the erase changes what undone commits change, and EPOCH. -/
theorem workErased_aon : (workErased s).aon = (undoAll (abortedWork s)).aon :=
  (eachSeat_aborted _).aon.trans (eraseCommitted_same State.aon (fun _ _ => rfl) _)

theorem workErased_epoch : (workErased s).aon.epoch = s.aon.epoch := by
  rw [workErased_aon, (undoAll_commitsUndone _).epoch, (abortedWork_aborted s).aon]

theorem eraseStore_epoch : (eraseStore s false).aon.epoch = if s.keys.ready then s.aon.epoch + 1 else s.aon.epoch := by
  rw [eraseStore_aon, ← workErased_epoch s]
  simp [storeEmptied]

theorem eraseStore_round : (eraseStore s false).round = s.round := by
  rw [eraseStore_eq, ((Aborted.refl _).endSession _).round]
  change (workErased s).round = _
  rw [workErased, (eachSeat_aborted _).round, eraseCommitted_same State.round (fun _ _ => rfl),
    (undoAll_commitsUndone _).round, (abortedWork_aborted s).round]

theorem eraseStore_records : (eraseStore s false).records = [] := by
  rw [eraseStore_eq, endSession_records]
  rfl

theorem eraseStore_idle : (eraseStore s false).quorum.st = .idle := by
  rw [eraseStore_eq, endSession_idle]

theorem eraseStore_noKeys (l : Nat) : NoKeys (eraseStore s false) l := by
  have hlanes : NoKeys (abortedWork s) l := (eachEngine_aborted _).noKeys (noKeys_eachLane s l)
  have hcommits : NoKeys (eraseCommitted (abortedWork s)) l := by
    have he : (eraseCommitted (abortedWork s)).lanes = (abortedWork s).lanes :=
      (eraseCommitted_same State.lanes (fun _ _ => rfl) _).trans (undoAll_commitsUndone _).lanes
    unfold NoKeys getLane
    rwa [he]
  have hwork : NoKeys (workErased s) l := (eachSeat_aborted _).noKeys hcommits
  rw [eraseStore_eq]
  exact ((Aborted.refl (storeEmptied s (workErased s))).endSession _).noKeys hwork

theorem eraseStore_zeroises {i : Nat} {g : Flight} {d : Decided} (hg : g ∈ (getSeat s i).flights) (hd : Committed s g d) :
    zeroisedFlight g ∈ (getSeat (eraseStore s false) i).flights := by
  obtain ⟨hg', hd'⟩ := (abortedWork_aborted s).committed.2 ⟨hg, hd⟩
  have hsome : (zeroisedFlight g).decided.isSome := by simp [zeroisedFlight, hd.1]
  have hwork : zeroisedFlight g ∈ (getSeat (workErased s) i).flights :=
    (eachSeat_aborted _).stands (eraseCommitted_zeroises hg' hd') hsome
  rw [eraseStore_eq]
  exact ((Aborted.refl (storeEmptied s (workErased s))).endSession _).stands hwork hsome

theorem eraseStore_root (ht : Tables s) :
    (RootMade s → NoRoot (eraseStore s false)) ∧ (¬RootMade s →
      (eraseStore s false).aon.rootKey = s.aon.rootKey ∧ (eraseStore s false).aon.rootValid = s.aon.rootValid) := by
  have hmem : .root ∈ undoList (abortedWork s) ↔ RootMade s :=
    (root_mem_undoList (abortedWork_tables s ht).seats).trans (abortedWork_aborted s).rootMade
  have hkey : (eraseStore s false).aon.rootKey = (undoAll (abortedWork s)).aon.rootKey := by
    rw [eraseStore_aon, ← workErased_aon]
    rfl
  have hvalid : (eraseStore s false).aon.rootValid = (undoAll (abortedWork s)).aon.rootValid := by
    rw [eraseStore_aon, ← workErased_aon]
    rfl
  rw [NoRoot, hkey, hvalid]
  refine ⟨fun h => undoAll_noRoot (hmem.2 h), fun h => ?_⟩
  rw [← (abortedWork_aborted s).aon]
  exact undoAll_keepsRoot (mt hmem.1 h)

end

/-- Settles O42: work in flight is only aborted, so that the commits undone are those of the state before the erase; the
state after it is then the emptied store at the end of its quorum session. -/
theorem eraseLeavesNoKey : Obligations.EraseLeavesNoKey := by
  unfold Obligations.EraseLeavesNoKey
  intro s
  have hkeys := eraseStore_keys s
  have hrecords := eraseStore_records s
  have hidle := eraseStore_idle s
  have hbanks := eraseStore_noKeys s
  have hepoch := eraseStore_epoch s
  have hroot := eraseStore_root s
  have hzeroises := @eraseStore_zeroises s
  have hround := eraseStore_round s
  obtain ⟨hfuses, hmem⟩ := eraseStore_frame s false
  generalize eraseStore s false = t at *
  refine ⟨congrArg KeyStore.ready hkeys, congrArg KeyStore.storeKey hkeys, congrArg KeyStore.migKey hkeys,
    congrArg KeyStore.hands hkeys, hrecords, congrArg KeyStore.rearm hkeys, congrArg KeyStore.rearmRes hkeys,
    congrArg KeyStore.eraseAt hkeys, hidle, hbanks, fun hr => ⟨hepoch.trans (if_pos hr), ?wiping, ?wipeAt⟩,
    fun hr => hepoch.trans (if_neg (by simp [hr])), fun ht => (hroot ht).2, fun ht => (hroot ht).1,
    fun i g d hg hd => ⟨zeroisedFlight g, hzeroises hg hd, rfl, congrArg (Option.map _) hd.1⟩, hfuses, hmem, hround⟩
  case wiping => simp [hkeys, storeEmptied, hr]
  case wipeAt => simp [hkeys, storeEmptied, hr]

end Sys2Proof.Machine
end

section
/-!
PROOFS. Refused services and ceremonies: what stands where the table of hands lists no hand twice, and what does not where
it lists one twice.
-/
namespace Sys2Proof.Machine

/-! ## Reservations given up (R170) -/

/-- The table of hands lists no hand twice. -/
def HandsOnce (s : State) : Prop := (s.keys.hands.map (·.1)).Nodup

theorem handsOnce_of_swf {s : State} (h : swf Hand.reset s.keys.hands = true) : HandsOnce s := by
  obtain ⟨-, hrising⟩ := (swf_iff _ _).1 h
  exact List.pairwise_map.2 (hrising.imp Nat.ne_of_lt)

/-- Entries of different keys, each rewritten from its own value. -/
theorem sget_foldl_entries {α : Type} [DecidableEq α] (d : α) (f : α → α) {l : SMap α} (h : (l.map (·.1)).Nodup)
    (m : SMap α) (k : Nat) : sget d (l.foldl (fun m e => sput d m e.1 (f e.2)) m) k =
      if k ∈ l.map (·.1) then f (sget d l k) else sget d m k := by
  induction l generalizing m with
  | nil => rfl
  | cons e l ih =>
    obtain ⟨he, hl⟩ := List.nodup_cons.1 h
    rw [List.foldl_cons, ih hl, sget_sput, sget]
    by_cases hk : k = e.1
    · subst hk
      simp [he]
    · simp only [hk, Ne.symm hk, if_false, List.map_cons, List.mem_cons, false_or]

/-- A hand that gives up reservations is otherwise the same. -/
theorem sameHand_dropResv {s : State} (hs : HandsOnce s) (seq k : Nat) : SameHand s (dropResv s seq) k := by
  have hget : getHand (dropResv s seq) k = if k ∈ s.keys.hands.map (·.1) then
      { getHand s k with resv := (getHand s k).resv.filter fun r => decide (r.2 ≠ some seq) } else getHand s k :=
    sget_foldl_entries Hand.reset
      (fun x => { x with resv := x.resv.filter fun r => decide (r.2 ≠ some seq) }) hs s.keys.hands k
  unfold SameHand
  rw [hget]
  split <;> rfl

theorem sameHand_decide {s : State} (hs : HandsOnce s) (i seq : Nat) (st : Status) (d : BitVec 16) (r : Round) (house : Bool)
    (k : Nat) : SameHand s (decide_ s i seq st d r house) k := by
  obtain ⟨m, q, e⟩ := decide_eq s i seq st d r house
  rw [e]
  split
  · rfl
  · exact sameHand_dropResv hs seq k

/-! ## Before the refusal: reads, counts and a halt -/

/-- From s to u refusals and errors were counted and seats halted, and neither key store nor always-on domain changed. -/
structure Counted (s u : State) : Prop where
  fuses : u.fuses = s.fuses
  aon : u.aon = s.aon
  quorum : u.quorum = s.quorum
  mem : u.mem = s.mem
  rng : u.rng = s.rng
  hands : u.keys.hands = s.keys.hands
  suits : ∀ k, (getSeat u k).suit = (getSeat s k).suit

section
variable {s u : State}

theorem Counted.refl (s : State) : Counted s s := ⟨rfl, rfl, rfl, rfl, rfl, rfl, fun _ => rfl⟩

theorem Counted.touchWords (h : Counted s u) (ks : List Nat) : Counted s (touchWords u ks) :=
  ⟨by simp [h.fuses], by simp [h.aon], by simp [h.quorum], by simp [h.mem], by simp [h.rng], by simp [h.hands],
    by simpa [getSeat] using h.suits⟩

theorem Counted.touchTags (h : Counted s u) (gs : List Nat) : Counted s (touchTags u gs) :=
  ⟨by simp [h.fuses], by simp [h.aon], by simp [h.quorum], by simp [h.mem], by simp [h.rng], by simp [h.hands],
    by simpa [getSeat] using h.suits⟩

theorem Counted.countSuit (h : Counted s u) (fs : List Fail) (gs : List Nat) : Counted s (countSuit u fs gs) := by
  have hprot (p : Prot) : Counted s { u with prot := p } := { h with }
  unfold Machine.countSuit
  dsimp only
  split
  · exact { (hprot _).touchTags gs with }
  · exact (hprot _).touchTags gs

theorem Counted.modSeat (h : Counted s u) (i : Nat) (f : Seat → Seat) (hf : ∀ x, (f x).suit = x.suit) :
    Counted s (modSeat u i f) := by
  refine { h with suits := fun k => ?_ }
  by_cases hk : k = i
  · subst hk
    rw [getSeat_modSeat, hf, h.suits]
  · rw [getSeat_modSeat_ne u f hk, h.suits]

theorem Counted.dmaHalt (h : Counted s u) (i : Nat) (g : Flight) (d : BitVec 16) : Counted s (dmaHalt u i g d) := by
  have hsuits (k : Nat) : (getSeat (Machine.dmaHalt u i g d) k).suit = (getSeat u k).suit := by
    by_cases hk : k = i
    · subst hk
      have hflight := getSeat_modFlight u k g.seq fun x => { x with dmaErr := some d }
      unfold Machine.dmaHalt
      dsimp only
      split
      · obtain ⟨n, o, hh⟩ := getSeat_enterHalt (modFlight u k g.seq fun x => { x with dmaErr := some d }) k .dmaData
          (some g.sq)
        rw [hh, hflight]
      · split
        · rw [hflight]
        · rfl
    · rw [getSeat_dmaHalt_ne g d hk]
  exact ⟨by simp [h.fuses], by simp [h.aon], by simp [h.quorum], by simp [h.mem], by simp [h.rng], by simp [h.hands],
    fun k => (hsuits k).trans (h.suits k)⟩

theorem Counted.countDeny (h : Counted s u) (i seq : Nat) (fs : List Fail) : Counted s (countDeny u i seq fs) := by
  unfold Machine.countDeny
  split
  · split
    · have hflight := h.modSeat i (fun x => { x with flights := x.flights.map fun g =>
        if g.seq == seq then { g with denied := true } else g }) fun _ => rfl
      exact { hflight with }
    · exact h
  · exact h

/-! ## The refusal -/

/-- Fuses, always-on domain, session, memory, random bits, suits and hands stand from s to t. -/
structure Unaffected (s t : State) : Prop where
  fuses : t.fuses = s.fuses
  aon : t.aon = s.aon
  quorum : t.quorum = s.quorum
  mem : t.mem = s.mem
  rng : t.rng = s.rng
  suits : ∀ k, (getSeat t k).suit = (getSeat s k).suit
  hands : ∀ h, SameHand s t h

theorem Unaffected.refl (s : State) : Unaffected s s := ⟨rfl, rfl, rfl, rfl, rfl, fun _ => rfl, fun _ => rfl⟩

theorem Counted.endHouse (h : Counted s u) (hs : HandsOnce s) (i : Nat) (g : Flight) (f : Fail) :
    Unaffected s (endHouse u i g f) := by
  have he := decide_ends u i g.seq f.1 f.2 u.round true
  have hu : HandsOnce u := by rwa [HandsOnce, h.hands]
  refine ⟨(congrArg State.fuses he.rest).trans h.fuses, (congrArg State.aon he.rest).trans h.aon,
    (congrArg State.quorum he.rest).trans h.quorum, (congrArg State.mem he.rest).trans h.mem,
    (congrArg State.rng he.rest).trans h.rng, fun k => ?_, fun k => ?_⟩
  · by_cases hk : k = i
    · subst hk
      exact (congrArg Seat.suit he.seat).trans (h.suits k)
    · exact (congrArg Seat.suit (he.seats k hk)).trans (h.suits k)
  · have hsame := sameHand_decide hu i g.seq f.1 f.2 u.round true k
    unfold SameHand at hsame ⊢
    have hget : getHand u k = getHand s k := congrArg (fun m => sget Hand.reset m k) h.hands
    rwa [hget] at hsame

/-- An operation with a failed check is refused, and counted. -/
theorem serve_unaffected (hs : HandsOnce s) (i : Nat) (g : Flight) (keyed other : List Fail) (gs : List Nat)
    (f : State → State × Bytes) (h : keyed ++ other ≠ []) : Unaffected s (serve s i g keyed other gs f) := by
  obtain ⟨x, hx⟩ : ∃ x, worst (keyed ++ other ++ spanFails s (getSeat s i).suit [] (dstSpans g) g.resvOut) = some x :=
    Option.ne_none_iff_exists'.1 fun hn => h (List.append_eq_nil_iff.1 (worst_nil.1 hn)).1
  rw [serve_fails s i g keyed other gs f x hx]
  exact (((Counted.refl s).countDeny ..).countSuit ..).endHouse hs ..

/-! ## Ceremonies without a session (R222) -/

section
variable {seat : Fin 8192} {sq : Nat}

theorem plainPolicy_nil {fs : List Fail} : plainPolicy fs = [] ↔ fs = [] := List.map_eq_nil_iff

theorem ceremonyGate_closed {i : Nat} (h : quorumOk s i = false) (op : Nat) : ceremonyGate s i op ≠ [] := by
  simp [ceremonyGate, need, h]

theorem ceremony_unaffected (hs : HandsOnce s) {i : Nat} (hq : quorumOk s i = false) (g : Flight) (keyed other : List Fail)
    (gs : List Nat) (f : State → State) : Unaffected s (ceremony s i g keyed other gs f) :=
  serve_unaffected hs i g _ _ gs _ (by simp [plainPolicy_nil, ceremonyGate_closed hq])

/-- Checks among which those of a gate stand fail with it. -/
theorem worst_of_gate {gate : List Fail} (h : gate ≠ []) (fs : List Fail) : ∃ f, worst (gate ++ fs) = some f :=
  Option.ne_none_iff_exists'.1 fun hn => h (List.append_eq_nil_iff.1 (worst_nil.1 hn)).1

theorem plainGate_closed {i : Nat} (h : quorumOk s i = false) (op : Nat) : plainPolicy (ceremonyGate s i op) ≠ [] :=
  mt plainPolicy_nil.1 (ceremonyGate_closed h op)

theorem tcrBegin_unaffected (hs : HandsOnce s) {i : Nat} (hq : quorumOk s i = false) (g : Flight) :
    Unaffected s (tcrBegin s i g) := by
  unfold tcrBegin
  extract_lets gate suit ks s1 b faults
  have hgate : gate ≠ [] := plainGate_closed hq 0x75
  have hread : Counted s s1 := ((Counted.refl s).countSuit ..).touchWords _
  split
  · obtain ⟨f, hf⟩ := worst_of_gate hgate (suit ++ faults)
    rw [List.append_assoc, hf]
    split
    · exact (hread.dmaHalt ..).endHouse hs ..
    · exact hread.endHouse hs ..
  · obtain ⟨f, hf⟩ := worst_of_gate hgate (need false .paramInvalid)
    rw [hf]
    exact (Counted.refl s).endHouse hs ..

theorem tcrFlip_unaffected (hs : HandsOnce s) {i : Nat} (hq : quorumOk s i = false) (g : Flight) (bad : Bool) :
    Unaffected s (tcrFlip s i g bad) := by
  unfold tcrFlip
  dsimp only
  split
  · exact (Counted.refl s).endHouse hs ..
  next hn =>
    obtain ⟨f, hf⟩ := worst_of_gate (ceremonyGate_closed hq 0x75) _
    exact absurd (hf.symm.trans hn) (by simp)

theorem lifeSet_unaffected (hs : HandsOnce s) {i : Nat} (hq : quorumOk s i = false) (g : Flight) (bad : Bool) :
    Unaffected s (lifeSet s i g bad) := by
  unfold lifeSet
  extract_lets d gate ok suit ks s1
  have hread : Counted s s1 := ((Counted.refl s).countSuit ..).touchWords _
  obtain ⟨f, hf⟩ := worst_of_gate (plainGate_closed hq 0x77) (suit ++ need ok .paramInvalid)
  rw [List.append_assoc, hf]
  split
  · exact (hread.dmaHalt ..).endHouse hs ..
  · exact hread.endHouse hs ..

theorem execStoreInit_unaffected (hs : HandsOnce s) (hq : quorumOk s seat.val = false)
    (ht : exec (.storeInit seat sq) s = .next u) : Unaffected s u := by
  change execStoreInit seat sq s = _ at ht
  unfold execStoreInit at ht
  dsimp only at ht
  split at ht
  · rw [if_pos (Option.isSome_iff_exists.2 (worst_of_gate (ceremonyGate_closed hq 0x70) _))] at ht
    cases ht
    exact ceremony_unaffected hs hq ..
  · cases ht
    exact .refl s

theorem execTcrCommit_unaffected {bad : Bool} (hs : HandsOnce s) (hq : quorumOk s seat.val = false)
    (ht : exec (.tcrCommit seat sq bad) s = .next u) : Unaffected s u := by
  change execTcrCommit seat sq bad s = _ at ht
  unfold execTcrCommit at ht
  dsimp only at ht
  split at ht
  · split at ht <;> cases ht <;> split
    · exact tcrFlip_unaffected hs hq ..
    · exact .refl s
    · exact tcrBegin_unaffected hs hq _
    · exact .refl s
  · cases ht
    exact .refl s

theorem execLifecycleSet_unaffected {bad : Bool} (hs : HandsOnce s) (hq : quorumOk s seat.val = false)
    (ht : exec (.lifecycleSet seat sq bad) s = .next u) : Unaffected s u := by
  change execLifecycleSet seat sq bad s = _ at ht
  unfold execLifecycleSet at ht
  dsimp only at ht
  split at ht <;> cases ht
  · split
    · exact lifeSet_unaffected hs hq ..
    · exact .refl s
  · exact .refl s

/-- The ceremonies of one step. -/
theorem execCeremony_unaffected {c : Instr} (hs : HandsOnce s)
    (hc : c ∈ [Instr.suitAssign seat sq, .componentLoad seat sq, .policyWiden seat sq, .ownerSet seat sq, .latchClear seat sq])
    (hq : quorumOk s seat.val = false) (ht : exec c s = .next u) : Unaffected s u := by
  simp only [List.mem_cons, List.not_mem_nil, or_false] at hc
  rcases hc with rfl | rfl | rfl | rfl | rfl
  all_goals
    simp only [exec, execSuitAssign, execComponentLoad, execPolicyWiden, execOwnerSet, execLatchClear] at ht
    split at ht <;> cases ht
    · exact ceremony_unaffected hs hq ..
    · exact .refl s

/-- What O55 states, where the table of hands is in canonical form. -/
theorem ceremonies_unaffected {bad : Bool} {c : Instr} (hw : swf Hand.reset s.keys.hands = true)
    (hc : c ∈ [Instr.storeInit seat sq, .suitAssign seat sq, .componentLoad seat sq, .policyWiden seat sq, .ownerSet seat sq,
      .tcrCommit seat sq bad, .latchClear seat sq, .lifecycleSet seat sq bad])
    (hq : quorumOk s seat.val = false) (ht : exec c s = .next u) : Unaffected s u := by
  simp only [List.mem_cons, List.not_mem_nil, or_false] at hc
  have hs := handsOnce_of_swf hw
  rcases hc with rfl | rfl | rfl | rfl | rfl | rfl | rfl | rfl
  case inl => exact execStoreInit_unaffected hs hq ht
  case inr.inr.inr.inr.inr.inl => exact execTcrCommit_unaffected hs hq ht
  case inr.inr.inr.inr.inr.inr.inr => exact execLifecycleSet_unaffected hs hq ht
  all_goals exact execCeremony_unaffected (sq := sq) hs (by simp) hq ht

end

/-! ## A bad handle (R209, R210) -/

/-- Failed checks: none carries DONE. -/
def Refusals (fs : List Fail) : Prop := ∀ f ∈ fs, f.1 ≠ .done

@[simp] theorem refusals_append {fs gs : List Fail} : Refusals (fs ++ gs) ↔ Refusals fs ∧ Refusals gs :=
  List.forall_mem_append

@[simp] theorem refusals_need {ok : Bool} {st : Status} {d : BitVec 16} (h : st ≠ .done) : Refusals (need ok st d) :=
  fun f hf => need_status f hf ▸ h

theorem refusals_plainPolicy {fs : List Fail} (h : Refusals fs) : Refusals (plainPolicy fs) := by
  intro f hf
  obtain ⟨g, hg, rfl⟩ := List.mem_map.1 hf
  split
  · simp
  · exact h g hg

@[simp] theorem refusals_handFails (i : Nat) (hd : BitVec 32) (sd pd : BitVec 16) : Refusals (handFails s i hd sd pd) := by
  simp [handFails]

@[simp] theorem refusals_slotFails (hd : BitVec 32) (slot : Nat) (p : KeyObj → Bool) (pe pd : BitVec 16) :
    Refusals (slotFails s hd slot p pe pd) := by
  unfold slotFails
  refine refusals_append.2 ⟨refusals_need (by decide), ?_⟩
  split
  · simp [Refusals]
  · exact refusals_need (by decide)

@[simp] theorem refusals_targetFails (i : Nat) (hd : BitVec 32) (slot : Nat) (derived : Bool) (pd : BitVec 16)
    (mine : Option Nat) : Refusals (targetFails s i hd slot derived pd mine) := by
  simp [targetFails]

@[simp] theorem refusals_spanFails (suit : BitVec 16) (inp out : List Span) (places : List Nat) :
    Refusals (spanFails s suit inp out places) := by
  simp [spanFails]

/-- R210 counts every failed check of a named hand. -/
theorem isKeyRefusal_of_handFails {i : Nat} {hd : BitVec 32} {f : Fail} (h : f ∈ handFails s i hd 0x0C01 0x0806) :
    isKeyRefusal f = true := by
  simp only [handFails, need, List.mem_append] at h
  rcases h with ((h | h) | h) | h <;> split at h <;> simp_all [isKeyRefusal]

theorem isKeyRefusal_plainPolicy {fs : List Fail} (h : fs.any isKeyRefusal = true) :
    (plainPolicy fs).any isKeyRefusal = true := by
  obtain ⟨f, hf, hk⟩ := List.any_eq_true.1 h
  refine List.any_eq_true.2 ⟨_, List.mem_map_of_mem hf, ?_⟩
  split
  · rfl
  · exact hk

/-- A bad handle among the checks. -/
theorem any_isKeyRefusal {i : Nat} {hd : BitVec 32} (h : handFails s i hd 0x0C01 0x0806 ≠ []) (fs : List Fail) :
    (handFails s i hd 0x0C01 0x0806 ++ fs).any isKeyRefusal = true := by
  obtain ⟨f, hf⟩ := List.exists_mem_of_ne_nil _ h
  exact List.any_eq_true.2 ⟨f, List.mem_append_left _ hf, isKeyRefusal_of_handFails hf⟩

/-- The refused descriptor is marked, and counted. -/
theorem countDeny_eq {i : Nat} {g : Flight} {fs : List Fail} (hg : flightBySeq s i g.seq = some g) (hd : g.denied = false)
    (hk : fs.any isKeyRefusal = true) : countDeny s i g.seq fs =
      { modFlight s i g.seq fun x => { x with denied := true } with
        keys := { s.keys with deny := satAdd s.keys.deny 1 } } := by
  simp [Machine.countDeny, hg, hd, hk]

/-- Sound tags leave nothing in the error logic. -/
theorem touchTags_sound (h : ∀ k, sget false s.prot.badTags k = false) (gs : List Nat) : touchTags s gs = s := by
  induction gs with
  | nil => rfl
  | cons k gs ih =>
    rw [Machine.touchTags, List.foldl_cons, if_neg (by simp [h k])]
    exact ih

theorem countSuit_keys (fs : List Fail) (gs : List Nat) : (countSuit s fs gs).keys = s.keys := by
  unfold Machine.countSuit
  dsimp only
  split <;> simp

theorem countSuit_link (h : ∀ k, sget false s.prot.badTags k = false) (fs : List Fail) (gs : List Nat) :
    (countSuit s fs gs).link = s.link := by
  have htags (n : Word) := touchTags_sound (s := { s with prot := { s.prot with suitCnt := n } }) h gs
  unfold Machine.countSuit
  dsimp only
  rw [htags]
  split <;> rfl

/-- From s to t descriptor g of seat i is refused, and counted once. -/
structure RefusedOnce (s t : State) (i : Nat) (g : Flight) : Prop where
  hands : ∀ h, SameHand s t h
  deny : t.keys.deny = satAdd s.keys.deny 1
  mem : t.mem = s.mem
  link : (∀ k, sget false s.prot.badTags k = false) → t.link.queue = s.link.queue
  seat : ∃ dd, dd.status ≠ .done ∧ getSeat t i = endedSeat { getSeat s i with
    flights := (getSeat s i).flights.map fun x => if x.seq = g.seq then { x with denied := true } else x } g.seq dd

section
variable {seat : Fin 8192} {sq op i : Nat} {c : Instr} {g : Flight} (hs : HandsOnce s)
  (hg : flightBySeq s i g.seq = some g) (hd : g.denied = false)
include hs hg hd

theorem serve_refusedOnce {keyed other : List Fail} (gs : List Nat) (f : State → State × Bytes)
    (hk : keyed.any isKeyRefusal = true) (hr : Refusals (keyed ++ other)) :
    RefusedOnce s (serve s i g keyed other gs f) i g := by
  have hne : keyed ++ other ≠ [] := by
    rintro h
    rw [(List.append_eq_nil_iff.1 h).1] at hk
    cases hk
  obtain ⟨x, hx⟩ := worst_of_gate hne (spanFails s (getSeat s i).suit [] (dstSpans g) g.resvOut)
  have hstatus : x.1 ≠ .done := refusals_append.2 ⟨hr, refusals_spanFails _ _ _ _⟩ x (worst_mem hx)
  have hun := serve_unaffected hs i g keyed other gs f hne
  rw [serve_fails s i g keyed other gs f x hx, countDeny_eq hg hd hk] at hun ⊢
  generalize hu : Machine.countSuit _ _ _ = u at hun ⊢
  have he := decide_ends u i g.seq x.1 x.2 u.round true
  refine ⟨hun.hands, (congrArg KeyStore.deny he.hands).trans ?_, hun.mem,
    fun htags => (congrArg (·.link.queue) he.rest).trans ?_,
    ⟨x.1, x.2, u.round, true⟩, hstatus, he.seat.trans ?_⟩
  · rw [← hu, countSuit_keys]
  · rw [← hu]
    exact congrArg Link.queue (countSuit_link (by exact htags) _ _)
  · rw [← hu, getSeat, (countSuit_frame ..).1]
    exact congrArg (endedSeat · g.seq _) (getSeat_modFlight ..)

/-- A command that is a service whose checks find a bad handle. -/
theorem refusedOnce_of_serve {keyed other : List Fail} {gs : List Nat} {f : State → State × Bytes}
    (he : exec c s = .next (serve s i g keyed other gs f)) (hk : keyed.any isKeyRefusal = true)
    (hr : Refusals (keyed ++ other)) : ∃ t, exec c s = .next t ∧ RefusedOnce s t i g :=
  ⟨_, he, serve_refusedOnce hs hg hd gs f hk hr⟩

/-- A command that is a ceremony whose checks find one. -/
theorem refusedOnce_of_ceremony {keyed other : List Fail} {gs : List Nat} {f : State → State}
    (he : exec c s = .next (ceremony s i g keyed other gs f)) (hk : keyed.any isKeyRefusal = true)
    (hr : Refusals (keyed ++ other)) : ∃ t, exec c s = .next t ∧ RefusedOnce s t i g := by
  obtain ⟨hkeyed, hother⟩ := refusals_append.1 hr
  refine refusedOnce_of_serve hs hg hd he (isKeyRefusal_plainPolicy hk)
    (refusals_append.2 ⟨refusals_plainPolicy hkeyed, refusals_plainPolicy (refusals_append.2 ⟨?_, hother⟩)⟩)
  simp [ceremonyGate]

end

section
variable {seat : Fin 8192} {sq op : Nat} {c : Instr} {g : Flight}

/-- A service on a bad handle waits for nothing. -/
theorem serviceWaits_badHandle {i : Nat} (hop : g.desc.op = 0x51 ∨ g.desc.op = 0x52)
    (hf : handFails s i g.desc.key0 0x0C01 0x0806 ≠ []) : serviceWaits s i g = false := by
  have hfree : (worst ((freeChecks s i g.desc).1 ++ (freeChecks s i g.desc).2)).isNone = false := by
    obtain ⟨f, hw⟩ := worst_of_gate hf (freeChecks s i g.desc).2
    exact congrArg Option.isNone hw
  have hclear : (worst ((clearChecks s i g.desc).1 ++ (clearChecks s i g.desc).2)).isNone = false := by
    obtain ⟨f, hw⟩ := worst_of_gate hf ((slotNamed s g.desc fun _ => true) ++ (clearChecks s i g.desc).2)
    rw [← List.append_assoc] at hw
    exact congrArg Option.isNone hw
  rcases hop with hop | hop
  · simp [serviceWaits, hop, hfree]
  · simp [serviceWaits, hop, hclear]

/-- What O53 states, where the table of hands is in canonical form. -/
theorem badHandle_refusedOnce (hw : swf Hand.reset s.keys.hands = true)
    (hc : (c, op) ∈ [(Instr.handFree seat sq, 0x51), (.slotClear seat sq, 0x52), (.slotInfo seat sq, 0x56),
      (.usageTighten seat sq, 0x57), (.pubkeyRead seat sq, 0x5A), (.slotRetype seat sq, 0x5B), (.policyWiden seat sq, 0x73),
      (.ownerSet seat sq, 0x74)])
    (ht : houseTurn s seat.val sq op = some g) (hg : flightBySeq s seat.val g.seq = some g) (hd : g.denied = false)
    (hf : handFails s seat.val g.desc.key0 0x0C01 0x0806 ≠ []) :
    ∃ t, exec c s = .next t ∧ RefusedOnce s t seat.val g := by
  have hs := handsOnce_of_swf hw
  have hop := houseTurn_op ht
  have hbad (fs : List Fail) : (namedFails s seat.val g.desc ++ fs).any isKeyRefusal = true := any_isKeyRefusal hf fs
  simp only [List.mem_cons, Prod.mk.injEq, List.not_mem_nil, or_false] at hc
  rcases hc with ⟨rfl, rfl⟩ | ⟨rfl, rfl⟩ | ⟨rfl, rfl⟩ | ⟨rfl, rfl⟩ | ⟨rfl, rfl⟩ | ⟨rfl, rfl⟩ | ⟨rfl, rfl⟩ | ⟨rfl, rfl⟩
  · apply refusedOnce_of_serve hs hg hd
    case he =>
      change execHandFree seat sq s = _
      rw [execHandFree, ht]
      exact if_neg (by simp [serviceWaits_badHandle (.inl hop) hf])
    case hk => simpa [freeChecks] using hbad []
    case hr => simp [freeChecks, namedFails, svcParam]
  · apply refusedOnce_of_serve hs hg hd
    case he =>
      change execSlotClear seat sq s = _
      rw [execSlotClear, ht]
      exact if_neg (by simp [serviceWaits_badHandle (.inr hop) hf])
    case hk => exact hbad _
    case hr => simp [clearChecks, namedFails, slotNamed, svcParam]
  · apply refusedOnce_of_serve hs hg hd
    case he =>
      change execSlotInfo seat sq s = _
      rw [execSlotInfo, ht]
    case hk => exact hbad _
    case hr => simp [namedFails, slotNamed, svcParam]
  · apply refusedOnce_of_serve hs hg hd
    case he =>
      change execUsageTighten seat sq s = _
      rw [execUsageTighten, ht]
    case hk => exact hbad _
    case hr => simp [namedFails, slotNamed, svcParam]
  · apply refusedOnce_of_serve hs hg hd
    case he =>
      change execPubkeyRead seat sq s = _
      rw [execPubkeyRead, ht]
    case hk => exact hbad _
    case hr => simp [namedFails, slotNamed, svcParam]
  · apply refusedOnce_of_serve hs hg hd
    case he =>
      change execSlotRetype seat sq s = _
      rw [execSlotRetype, ht]
    case hk =>
      rw [List.append_assoc]
      exact hbad _
    case hr => simp [namedFails, slotNamed, newTarget, svcParam]
  · apply refusedOnce_of_ceremony hs hg hd
    case he =>
      change execPolicyWiden seat sq s = _
      rw [execPolicyWiden, ht]
    case hk => exact hbad _
    case hr => simp [namedFails, slotNamed]
  · apply refusedOnce_of_ceremony hs hg hd
    case he =>
      change execOwnerSet seat sq s = _
      rw [execOwnerSet, ht]
    case hk => simpa using hbad []
    case hr => simp [namedFails]

end

end

/-! ## A hand listed twice -/

/-- A device that has booted, with its key store READY and no quorum session. Its table of hands lists hand 7 twice: LIVE,
and behind that EMPTY. Reads find the first entry. -/
def listedTwice : State := { State.reset with
  round := 100
  power := { Power.reset with phase := 8, clock := true, perst0 := false, perst1 := false }
  house := { House.reset with running := true }
  keys := { State.reset.keys with ready := true, hands := [(7, { Hand.reset with live := true }), (7, Hand.reset)] } }

/-- An OWNER_SET of hand 0, which is EMPTY. -/
def ownerSetOfNone : Flight := newFlight listedTwice 0 (parseDesc (0x74 :: zeros 63))

/-- That OWNER_SET alone on seat 0, which runs. -/
def listedTwiceAtTurn : State := setSeat listedTwice 0 { Seat.reset with st := .run, suit := 1, flights := [ownerSetOfNone] }

/-- Hand 7 is LIVE. -/
def hand7Live : Out → Bool
  | .next t => (getHand t 7).live
  | _ => false

/-- The refusal drops the descriptor's reservations in every entry of the table, and writes back the last entry of hand 7. -/
theorem execOwnerSet_listedTwice : hand7Live (exec (.ownerSet 0 0) listedTwiceAtTurn) = false := by decide +kernel

theorem SameHand.live_eq {s t : State} {h : Nat} (hs : SameHand s t h) : (getHand t h).live = (getHand s h).live := by
  have hlive := congrArg Hand.live (show _ = getHand s h from hs)
  exact hlive

/-- So that step does not leave hand 7 as it was. -/
theorem not_sameHand_listedTwice {t : State} (ht : exec (.ownerSet 0 0) listedTwiceAtTurn = .next t) :
    ¬ SameHand listedTwiceAtTurn t 7 := by
  intro hs
  have hlive : hand7Live (.next t) = true := hs.live_eq
  rw [← ht, execOwnerSet_listedTwice] at hlive
  cases hlive

/-- Refutes O53: the statement takes every table of hands. Where one lists a hand twice, the refusal of a stale handle writes
back the entry that no read had found. Of a table in canonical form it holds: badHandle_refusedOnce. -/
theorem not_handlesGuardKeys : ¬ Obligations.HandlesGuardKeys := by
  unfold Obligations.HandlesGuardKeys
  intro h
  obtain ⟨t, ht, hsame, -⟩ := h 0 0 0x74 (.ownerSet 0 0) listedTwiceAtTurn ownerSetOfNone (by simp) (by decide +kernel)
    (by decide +kernel) rfl (by decide +kernel)
  exact not_sameHand_listedTwice ht (hsame 7)

/-- Refutes O55, by the same step: without a session the ceremony is refused, and hand 7 is EMPTY after it. Of a table in
canonical form it holds: ceremonies_unaffected. -/
theorem not_noCeremonyWithoutQuorum : ¬ Obligations.NoCeremonyWithoutQuorum := by
  unfold Obligations.NoCeremonyWithoutQuorum
  intro h
  obtain ⟨t, ht, -⟩ := exec_next (.ownerSet 0 0) listedTwiceAtTurn
  obtain ⟨-, -, -, -, -, -, hsame⟩ := h 0 0 false (.ownerSet 0 0) listedTwiceAtTurn t (by simp) (by decide +kernel) ht
  exact not_sameHand_listedTwice ht (hsame 7)

end Sys2Proof.Machine
end

section
/-!
PROOFS. The random bit generator's own commands, its pool and seeds, and CTR_DRBG.
-/
namespace Sys2Proof.Machine

/-! ## The end of STARTUP (R234, R235, R244) -/

section
variable (s : State)

/-- Leaving STARTUP writes RNG_STATUS.STATE alone. -/
theorem leaveStartup_eq : leaveStartup s = { s with rng := { s.rng with st := (leaveStartup s).rng.st } } := by
  unfold leaveStartup
  dsimp only
  split <;> rfl

@[simp] theorem leaveStartup_src : (leaveStartup s).rng.src = s.rng.src := congrArg (·.rng.src) (leaveStartup_eq s)
@[simp] theorem leaveStartup_pool : (leaveStartup s).rng.pool = s.rng.pool := congrArg (·.rng.pool) (leaveStartup_eq s)

/-- Out of STARTUP it does nothing. -/
theorem leaveStartup_left (h : s.rng.st ≠ .startup) : leaveStartup s = s := if_neg fun hc => h hc.1

theorem leaveStartup_run_iff : (leaveStartup s).rng.st = .run ↔ s.rng.st = .run ∨ (s.rng.st = .startup
    ∧ (∀ j, j < 4 → (getSource s j).healthy ∨ (getSource s j).lockout) ∧ 2 ≤ healthyCount s
    ∧ s.rng.expA.st = .ready ∧ s.rng.expB.st = .ready) := by
  have hall : ((List.range 4).all fun i => (getSource s i).healthy || (getSource s i).lockout) = true ↔
      ∀ j, j < 4 → (getSource s j).healthy ∨ (getSource s j).lockout := by simp
  rw [← hall]
  unfold leaveStartup
  dsimp only
  split
  case isTrue h => exact iff_of_true rfl (.inr h)
  case isFalse h => exact (or_iff_left h).symm

variable {s} {t : State}

/-- Sources are read from the RNG's table alone. -/
theorem getSource_congr (h : t.rng.src = s.rng.src) (i : Nat) : getSource t i = getSource s i :=
  congrArg (sget Source.reset · i) h

theorem healthyCount_congr (h : t.rng.src = s.rng.src) : healthyCount t = healthyCount s := by
  simp only [healthyCount, getSource_congr h]

@[simp] theorem getSource_leaveStartup (i : Nat) : getSource (leaveStartup s) i = getSource s i :=
  getSource_congr (leaveStartup_src s) i

@[simp] theorem healthyCount_leaveStartup : healthyCount (leaveStartup s) = healthyCount s :=
  healthyCount_congr (leaveStartup_src s)

variable {src : Fin 4}

/-- CONDITIONED_WORD of a full compressor. -/
theorem execConditionedWord_full (hh : (getSource s src.val).healthy = true) (ha : (getSource s src.val).absorbed = 512) :
    execConditionedWord src s =
      let u := setSource s src.val { getSource s src.val with absorbed := 0 }
      .next { u with rng := { u.rng with pool := poolPut s.rng.pool ⟨src.val, (getSource s src.val).lfsr, s.round⟩ } } := by
  simp only [execConditionedWord, hh, ha]
  rfl

variable (s src)

/-- The source counts as healthy. -/
def sourcePassed : State := setSource s src.val { getSource s src.val with healthy := true }

/-- In FAILED, the second healthy source empties the pool: seeds form from new words only (R246). -/
def poolRestart : State := { s with rng := { s.rng with
  pool := if s.rng.st = .failed ∧ healthyCount s = 2 then [] else s.rng.pool } }

theorem poolRestart_eq : poolRestart s =
    if s.rng.st = .failed ∧ healthyCount s = 2 then { s with rng := { s.rng with pool := [] } } else s := by
  unfold poolRestart
  split <;> rfl

/-- What a passed startup test does before the RNG may leave STARTUP; a readmission raises the alarm (R235). -/
def sourceAdmitted : State :=
  let u := poolRestart (sourcePassed s src)
  if (getSource s src.val).excl = 0 then u else raiseAll u 26

theorem sourceAdmitted_rng : (sourceAdmitted s src).rng = (poolRestart (sourcePassed s src)).rng := by
  unfold sourceAdmitted
  dsimp only
  split
  · rfl
  · exact raiseAll_rng ..

/-- The RNG, the IRQ blocks and the host link alone change. -/
theorem sourceAdmitted_frame : { sourceAdmitted s src with rng := s.rng, irq := s.irq, link := s.link } = s := by
  unfold sourceAdmitted
  dsimp only
  split
  · rfl
  · rw [raiseAll_eq]
    rfl

variable {s src}

/-- SOURCE_STARTUP_END of a source that has passed. -/
theorem execSourceStartupEnd_passed (ho : (getSource s src.val).on = true) (hh : (getSource s src.val).healthy = false)
    (hl : (getSource s src.val).lockout = false) (h0 : (getSource s src.val).startup = 0) :
    execSourceStartupEnd src s = .next (leaveStartup (sourceAdmitted s src)) := by
  simp [execSourceStartupEnd, ho, hh, hl, h0, sourceAdmitted, poolRestart_eq, sourcePassed]

end

/-! ## Seeds and the pool (R232) -/

/-- A seed: three words of two sources, taken out of the pool, which keeps its order. -/
theorem takeSeed_some {l ws p : List PoolWord} (h : takeSeed l = some (ws, p)) : ws.length = 3 ∧ p.length + 3 = l.length
    ∧ p.Sublist l ∧ (∀ w ∈ ws, w ∈ l) ∧ ∃ i ∈ ws, ∃ j ∈ ws, i.src ≠ j.src := by
  match l with
  | [] | [_] => simp [takeSeed] at h
  | a :: b :: t =>
    obtain ⟨c, hc, hx⟩ := Option.map_eq_some_iff.1 h
    obtain ⟨rfl, rfl⟩ := Prod.mk.inj hx
    have hmem := List.mem_of_find?_eq_some hc
    have hthird := List.find?_some hc
    refine ⟨rfl, ?_, (List.eraseP_sublist.cons b).cons a, by simp [hmem], ?_⟩
    · have hpos := List.length_pos_of_mem hmem
      rw [List.length_eraseP_of_mem hmem hthird, List.length_cons, List.length_cons]
      omega
    · rcases (Bool.or_eq_true _ _).mp hthird with hab | hca
      · exact ⟨a, by simp, b, by simp, of_decide_eq_true hab⟩
      · exact ⟨c, by simp, a, by simp, of_decide_eq_true hca⟩

section
variable (p : List PoolWord) (w : PoolWord)

/-- What stands before a word that enters: the words of other rounds, and of its round those of lower sources. -/
def entersAfter (c : PoolWord) : Bool := decide (c.at_ ≠ w.at_) || decide (c.src < w.src)

/-- The pool with a word entered, before the oldest of nine is dropped. -/
def poolEntered : List PoolWord := p.takeWhile (entersAfter w) ++ w :: p.dropWhile (entersAfter w)

theorem poolPut_eq : poolPut p w = (poolEntered p w).drop ((poolEntered p w).length - 8) := rfl

theorem poolEntered_perm : (poolEntered p w).Perm (w :: p) := by
  have h := List.perm_middle (a := w) (l₁ := p.takeWhile (entersAfter w)) (l₂ := p.dropWhile (entersAfter w))
  rwa [List.takeWhile_append_dropWhile] at h

@[simp] theorem poolEntered_length : (poolEntered p w).length = p.length + 1 := (poolEntered_perm p w).length_eq

/-- A word enters at the end when each word of its round there is of a lower source. -/
theorem poolEntered_last (h : ∀ c ∈ p, entersAfter w c = true) : poolEntered p w = p ++ [w] := by
  rw [poolEntered, List.takeWhile_eq_self_iff.2 h, List.dropWhile_eq_nil_iff.2 h]

variable {p w}

theorem poolPut_length (h : p.length ≤ 8) : (poolPut p w).length = min 8 (p.length + 1) := by
  rw [poolPut_eq, List.length_drop, poolEntered_length]
  omega

theorem poolPut_perm (h : p.length < 8) : (poolPut p w).Perm (w :: p) := by
  rw [poolPut_eq, poolEntered_length, Nat.sub_eq_zero_of_le h]
  exact poolEntered_perm p w

theorem poolPut_last (h : p.length ≤ 8) (hw : ∀ c ∈ p, c.at_ ≠ w.at_ ∨ c.src < w.src) :
    poolPut p w = (if p.length = 8 then p.drop 1 else p) ++ [w] := by
  rw [poolPut_eq, poolEntered_length, poolEntered_last p w (by simpa [entersAfter] using hw)]
  split
  case isTrue hfull => rw [hfull, List.drop_append_of_le_length (by omega)]
  case isFalse hroom => rw [Nat.sub_eq_zero_of_le (by omega), List.drop_zero]

end

/-! ## CTR_DRBG (R236) -/

theorem leNat_natLe (n v : Nat) : leNat (natLe n v) = v % 256 ^ n := by
  induction n generalizing v with
  | zero => simp [natLe, leNat, Nat.mod_one]
  | succ n ih => rw [natLe, leNat, ih, BitVec.toNat_ofNat, pow_succ' 256, Nat.mod_mul]

theorem beNat_natBe (n v : Nat) : beNat (natBe n v) = v % 256 ^ n := by
  rw [beNat, natBe, List.reverse_reverse, leNat_natLe]

/-- The value of V after j increments. -/
def countAfter (v : Bytes) (j : Nat) : Bytes := natBe 16 ((beNat v + j) % 2 ^ 128)

theorem nextV_eq (v : Bytes) : nextV v = countAfter v 1 := rfl

theorem nextV_countAfter (v : Bytes) (j : Nat) : nextV (countAfter v j) = countAfter v (j + 1) := by
  rw [nextV, countAfter, beNat_natBe, show 256 ^ 16 = 2 ^ 128 from rfl, Nat.mod_mod, Nat.mod_add_mod, Nat.add_assoc]
  rfl

/-- Key and V after an update: AES of the next three counts, with the data. -/
theorem drbgUpdate_state (e : Expander) (d : Bytes) : (drbgUpdate e d).key ++ (drbgUpdate e d).v =
    xorBytes (aesEnc e.key (countAfter e.v 1) ++ aesEnc e.key (countAfter e.v 2) ++ aesEnc e.key (countAfter e.v 3)) d := by
  simp only [drbgUpdate, nextV_eq e.v, nextV_countAfter, List.take_append_drop]

theorem drbgBlocks_eq (e : Expander) : drbgBlocks e = ({ e with v := countAfter e.v 4 },
    (List.range 4).map fun j => BitVec.ofNat 128 (beNat (aesEnc e.key (countAfter e.v (j + 1))))) := by
  simp only [drbgBlocks, nextV_eq e.v, nextV_countAfter]
  rfl

/-! ## The expanders' commands (R236-R238, R246) -/

/-- The expander that a command names: B for true. -/
def expanderOf (s : State) (b : Bool) : Expander := if b then s.rng.expB else s.rng.expA

/-- The state with another pool, the named expander e and the other one o. -/
def expandersPut (s : State) (b : Bool) (q : List PoolWord) (e o : Expander) : State :=
  { s with rng := { s.rng with pool := q, expA := if b then o else e, expB := if b then e else o } }

/-- An expander free of a seed operation. -/
def SeedFree (e : Expander) : Prop := e.st ≠ .instantiating ∧ e.st ≠ .reseeding

theorem otherIdle_iff (e : Expander) : otherIdle e = true ↔ SeedFree e := by simp [otherIdle, SeedFree]

theorem otherIdle_busy {e : Expander} (h : ¬SeedFree e) : otherIdle e = false :=
  Bool.eq_false_iff.2 (mt (otherIdle_iff e).1 h)

/-- Between two requests, in service: whether an expander goes for a seed (R237). -/
theorem goReseed_ready {e o : Expander} {n : Nat} (hp : e.part = 0) (hst : e.st = .ready) : goReseed e o n = { e with
    st := if n ≤ e.reqs ∧ o.st ≠ .reseeding ∧ o.st ≠ .waitSeed then .waitSeed else .ready } := by
  have hiff : (n ≤ e.reqs ∧ e.part = 0 ∧ e.st = .ready ∧ o.st ≠ .reseeding ∧ o.st ≠ .waitSeed) ↔
      (n ≤ e.reqs ∧ o.st ≠ .reseeding ∧ o.st ≠ .waitSeed) := by simp [hp, hst]
  simp only [goReseed, hiff]
  split
  · rfl
  · rw [← hst]

/-- While the other one is in service, an expander at its reseed point goes for a seed. -/
theorem goReseed_otherReady {e o : Expander} {n : Nat} (ho : o.st = .ready) : goReseed e o n =
    if n ≤ e.reqs ∧ e.part = 0 ∧ e.st = .ready then { e with st := .waitSeed } else e := by
  simp [goReseed, ho]

/-- An expander at the end of its seed operation. -/
def afterSeed (e : Expander) : Expander := { drbgUpdate e e.seed with st := .ready, reqs := 0, part := 0, seed := [] }

/-- An expander at the end of a request, before it may go for a seed. -/
def afterRequest (e : Expander) : Expander := { drbgUpdate e (zeros 48) with reqs := e.reqs + 1, part := 0 }

section
variable {s : State} {b : Bool} {ws p : List PoolWord}

theorem execExpanderInstantiate_begins (hp : takeSeed s.rng.pool = some (ws, p)) (he : (expanderOf s b).st = .empty)
    (hb : b = true → s.rng.expA.st = .ready ∧ s.rng.expA.until_ ≤ s.round) (ha : b = false → SeedFree s.rng.expB)
    (hst : s.rng.st ≠ .run) (hh : 2 ≤ healthyCount s) (hr : running s = true) :
    execExpanderInstantiate b s = .next (expandersPut s b p
      { Expander.reset with st := .instantiating, until_ := s.round + 16, seed := seedBytes ws } (expanderOf s !b)) := by
  unfold execExpanderInstantiate
  simp only [hp]
  cases b with
  | false =>
    have hA : s.rng.expA.st = .empty := he
    simp [hA, hst, hh, hr, (otherIdle_iff _).2 (ha rfl), expandersPut, expanderOf]
  | true =>
    have hB : s.rng.expB.st = .empty := he
    simp [hB, hst, hh, hr, hb, expandersPut, expanderOf]

/-- EXPANDER_RESEED by the expander it names, once a seed can be formed. -/
theorem execExpanderReseed_eq (hp : takeSeed s.rng.pool = some (ws, p)) : execExpanderReseed b s =
    if decide ((expanderOf s b).st = .waitSeed) && otherIdle (expanderOf s !b) && running s then
      .next (expandersPut s b p
        { expanderOf s b with st := .reseeding, until_ := s.round + 16, seed := seedBytes ws } (expanderOf s !b))
    else .next s := by
  unfold execExpanderReseed
  simp only [hp]
  cases b <;> rfl

theorem execExpanderReseed_begins (hp : takeSeed s.rng.pool = some (ws, p)) (he : (expanderOf s b).st = .waitSeed)
    (ho : SeedFree (expanderOf s !b)) (hr : running s = true) :
    execExpanderReseed b s = .next (expandersPut s b p
      { expanderOf s b with st := .reseeding, until_ := s.round + 16, seed := seedBytes ws } (expanderOf s !b)) := by
  rw [execExpanderReseed_eq hp, if_pos (by simp [he, (otherIdle_iff _).2 ho, hr])]

variable (s b) in
/-- SEED_OPERATION_END by the expander it names. -/
theorem execSeedOperationEnd_eq : execSeedOperationEnd b s =
    if !otherIdle (expanderOf s b) && decide ((expanderOf s b).until_ ≤ s.round) then
      .next (leaveStartup (expandersPut s b s.rng.pool (afterSeed (expanderOf s b))
        (goReseed (expanderOf s !b) (afterSeed (expanderOf s b)) s.rng.interval)))
    else .next s := by
  cases b <;> rfl

/-- After a seed operation the other expander goes for a seed when it is at its reseed point between two requests. -/
theorem execSeedOperationEnd_ends (hf : ¬SeedFree (expanderOf s b)) (hu : (expanderOf s b).until_ ≤ s.round)
    (hst : s.rng.st ≠ .startup) :
    let o := expanderOf s !b
    execSeedOperationEnd b s = .next (expandersPut s b s.rng.pool (afterSeed (expanderOf s b))
      (if s.rng.interval ≤ o.reqs ∧ o.part = 0 ∧ o.st = .ready then { o with st := .waitSeed } else o)) := by
  rw [execSeedOperationEnd_eq, if_pos (by simp [otherIdle_busy hf, hu]), leaveStartup_left (expandersPut ..) hst,
    goReseed_otherReady rfl]

variable (s b) in
/-- GENERATE_REQUEST by the expander it names: B keeps on when A completes in this round too and goes for a seed. -/
theorem execGenerateRequest_eq :
    let e := expanderOf s b
    let o := expanderOf s !b
    execGenerateRequest b s = if decide (e.st = .ready) && e.part == 4 then
      .next (expandersPut s b s.rng.pool
        (if b && o.part == 4 && decide (s.rng.interval ≤ o.reqs + 1) && decide (o.st = .ready) then afterRequest e
          else goReseed (afterRequest e) o s.rng.interval) o)
    else .next s := by
  cases b <;> rfl

theorem execGenerateRequest_completes (he : (expanderOf s b).st = .ready) (hp : (expanderOf s b).part = 4)
    (ho : b = false ∨ (expanderOf s !b).part ≠ 4) :
    let e := expanderOf s b
    let o := expanderOf s !b
    execGenerateRequest b s = .next (expandersPut s b s.rng.pool
      { afterRequest e with
        st := if s.rng.interval ≤ e.reqs + 1 ∧ o.st ≠ .reseeding ∧ o.st ≠ .waitSeed then .waitSeed else .ready } o) := by
  intro e o
  have hfirst : (b && o.part == 4) = false := by
    rcases ho with rfl | ho
    · rfl
    · simp [o, ho]
  have hst : (afterRequest e).st = .ready := he
  rw [execGenerateRequest_eq, if_pos (by simp [he, hp]), if_neg (by simp [o, hfirst]), goReseed_ready rfl hst]
  rfl

end

theorem execReseedHalving_due {s : State} (h : 4096 ≤ s.rng.high) : execReseedHalving s =
    .next { s with rng := { s.rng with interval := max 1024 (s.rng.interval / 2), high := 0 } } := if_pos h

/-- Settles O40: each command by its rule, the pool by poolPut_eq, the counts after V by nextV_countAfter. -/
theorem randomBitGenerator : Obligations.RandomBitGenerator := by
  unfold Obligations.RandomBitGenerator
  refine ⟨fun src b s ws p => ⟨fun hh ha => ?_, fun ho hh hl h0 => ?_, fun hp he hb ha hst hc hr => ?_,
    fun hp he ho hr => ?_, takeSeed_some, fun hf hu hst => ?_, fun he hp ho => ?_, execReseedHalving_due⟩,
    fun e _ => ⟨congrArg Prod.snd (drbgBlocks_eq e), congrArg Prod.fst (drbgBlocks_eq e), drbgUpdate_state e⟩,
    fun p w h => ⟨poolPut_length h, poolPut_perm, poolPut_last h⟩⟩
  · exact ⟨_, execConditionedWord_full hh ha, getSource_setSource .., fun j hj => getSource_setSource_ne _ _ hj, rfl, rfl⟩
  · have hrng := sourceAdmitted_rng s src
    have hsrc := (leaveStartup_src _).trans (congrArg Rng.src hrng)
    refine ⟨_, execSourceStartupEnd_passed ho hh hl h0, (getSource_congr hsrc _).trans (getSource_setSource ..),
      fun j hj => (getSource_congr hsrc j).trans (getSource_setSource_ne _ _ hj), ?_, ?_, ?_⟩
    · rw [leaveStartup_pool, hrng, healthyCount_congr hsrc]
      rfl
    · simp only [getSource_leaveStartup, healthyCount_leaveStartup, leaveStartup_run_iff, hrng]
      rfl
    · rw [leaveStartup_eq]
      exact sourceAdmitted_frame s src
  · cases b <;> exact execExpanderInstantiate_begins hp he hb ha hst hc hr
  · cases b <;> exact execExpanderReseed_begins hp he ho hr
  · cases b <;> exact execSeedOperationEnd_ends hf hu hst
  · cases b <;> exact execGenerateRequest_completes he hp ho

end Sys2Proof.Machine
end

section
/-!
PROOFS. The instruction word of the G8, what its legal words hold, and its addressing modes.
-/
namespace Sys2Proof.Machine

section
variable {house : Bool} {k : Core} {i : G8Word} {r : OpRow} {w : Nat}

/-! ## Words and their fields (R253, R254) -/

/-- The fields of a word fill it, so that their weighted sum is the word. -/
theorem g8Encode_toNat (i : G8Word) : (g8Encode i).toNat = i.opc.toNat * 0x01000000 + i.am.toNat * 0x00100000
    + i.sc.toNat * 0x00040000 + i.rs.toNat * 0x00010000 + i.opnd.toNat := by
  have hopc := i.opc.isLt
  have ham := i.am.isLt
  have hsc := i.sc.isLt
  have hrs := i.rs.isLt
  have hopnd := i.opnd.isLt
  simp only [g8Encode, BitVec.toNat_ofNat]
  omega

theorem g8Decode_g8Encode (i : G8Word) : g8Decode (g8Encode i) = i := by
  have hsum := g8Encode_toNat i
  have hopc := i.opc.isLt
  have ham := i.am.isLt
  have hsc := i.sc.isLt
  have hrs := i.rs.isLt
  have hopnd := i.opnd.isLt
  cases i
  simp only [g8Decode, G8Word.mk.injEq, ← BitVec.toNat_inj, BitVec.extractLsb'_toNat, Nat.shiftRight_eq_div_pow, hsum]
  refine ⟨?_, ?_, ?_, ?_, ?_⟩ <;> omega

theorem g8Encode_g8Decode (w : BitVec 32) : g8Encode (g8Decode w) = w := by
  have hw := w.isLt
  apply BitVec.eq_of_toNat_eq
  simp only [g8Encode_toNat, g8Decode, BitVec.extractLsb'_toNat, Nat.shiftRight_eq_div_pow]
  omega

/-! ## Legal words (R258, R262) -/

/-- A legal word has a row of the opcode table, whose field rules it meets. -/
theorem legal_row (h : legal house k i = true) :
    ∃ r, opRow i.opc.toNat i.rs.toNat = some r ∧ fieldsOk r i = true := by
  unfold legal at h
  split at h
  next r hr =>
    simp only [Bool.and_eq_true] at h
    exact ⟨r, hr, h.1.1.1.1.1⟩
  next => cases h

theorem fieldsOk_mode (h : fieldsOk r i = true) : i.am.toNat ∈ r.modes := by
  simp only [fieldsOk, Bool.and_eq_true, List.contains_iff_mem] at h
  obtain ⟨⟨⟨⟨⟨hmode, -⟩, -⟩, -⟩, -⟩, -⟩ := h
  exact hmode

theorem fieldsOk_immediate (h : fieldsOk r i = true) (hi : i.am = 0) : i.opnd.toNat ≤ r.imm := by
  simp only [fieldsOk, Bool.and_eq_true, hi] at h
  obtain ⟨⟨⟨-, himm⟩, -⟩, -⟩ := h
  simpa using himm

/-- The opcodes whose immediate is a byte (R258, R261), MOV to A apart. -/
def byteImmediates : List Nat := [0x10, 0x11, 0x12, 0x13, 0x14, 0x15, 0x16, 0x17, 0x18, 0x20, 0x21, 0x22, 0x23, 0x24,
  0x28, 0x30, 0x31, 0x53, 0x60]

/-- The row of every opcode but MOV is the same for all registers. -/
theorem opRow_rs {opc : Nat} (h : opc ≠ 0x04) (rs : Nat) : opRow opc rs = opRow opc 0 := by
  unfold opRow
  split <;> try rfl
  exact absurd rfl h

theorem opRow_byteImmediate {opc rs : Nat} (h : (opc = 0x04 ∧ rs = 0) ∨ opc ∈ byteImmediates)
    (hr : opRow opc rs = some r) : r.imm ≤ 255 := by
  obtain ⟨rfl, rfl⟩ | h := h
  · cases hr
    decide
  · have hall : ∀ o ∈ byteImmediates, o ≠ 0x04 ∧ ∀ r ∈ opRow o 0, r.imm ≤ 255 := by decide
    obtain ⟨hmov, himm⟩ := hall opc h
    exact himm r (opRow_rs hmov rs ▸ hr)

/-- The count of a shift or rotate is 0 to 7. -/
theorem legal_shift (h : legal house k i = true) (hop : i.opc.toNat ∈ [0x20, 0x21, 0x22, 0x23, 0x24]) :
    i.opnd.toNat ≤ 7 := by
  obtain ⟨r, hr, hok⟩ := legal_row h
  have hall : ∀ o ∈ [0x20, 0x21, 0x22, 0x23, 0x24], o ≠ 0x04 ∧ ∀ r ∈ opRow o 0, r.modes = [0] ∧ r.imm = 7 := by decide
  obtain ⟨hmov, hrow⟩ := hall _ hop
  obtain ⟨hmodes, himm⟩ := hrow r (opRow_rs hmov _ ▸ hr)
  have hmode : i.am = 0 := BitVec.eq_of_toNat_eq (List.mem_singleton.1 (hmodes ▸ fieldsOk_mode hok))
  exact himm ▸ fieldsOk_immediate hok hmode

end

/-- Settles O9: the sum by the widths of the fields, the rest from it; the zeros by the immediate of the opcode's row. -/
theorem g8WordsDecode : Obligations.G8WordsDecode := by
  unfold Obligations.G8WordsDecode
  refine ⟨g8Decode_g8Encode, g8Encode_toNat, g8Encode_g8Decode, fun house k i hlegal hi hop => ?_⟩
  obtain ⟨r, hr, hok⟩ := legal_row hlegal
  have hbyte : (i.opc.toNat = 0x04 ∧ i.rs.toNat = 0) ∨ i.opc.toNat ∈ byteImmediates :=
    hop.imp_left fun ⟨ho, hrs⟩ => ⟨congrArg BitVec.toNat ho, congrArg BitVec.toNat hrs⟩
  have himm := (fieldsOk_immediate hok hi).trans (opRow_byteImmediate hbyte hr)
  simp only [bits]
  omega

section
variable {k : Core} {i : G8Word} {w : Nat}

/-! ## Addresses (R255) -/

/-- The scale as a number. -/
theorem scale_toNat (i : G8Word) : ((1 : BitVec 16) <<< i.sc.toNat).toNat = 2 ^ i.sc.toNat := by
  have hsc : i.sc.toNat < 4 := i.sc.isLt
  have hpow : 2 ^ i.sc.toNat ≤ 2 ^ 3 := Nat.pow_le_pow_right (by decide) (by omega)
  simp [Nat.shiftLeft_eq]
  omega

/-- The step of an index register: the width of the access times the scale. -/
theorem indexWidth_toNat (hw : w = 1 ∨ w = 2) :
    (BitVec.ofNat 16 w * ((1 : BitVec 16) <<< i.sc.toNat)).toNat = w * 2 ^ i.sc.toNat := by
  have hsc : i.sc.toNat < 4 := i.sc.isLt
  have hpow : 2 ^ i.sc.toNat ≤ 2 ^ 3 := Nat.pow_le_pow_right (by decide) (by omega)
  rw [BitVec.toNat_mul, scale_toNat, BitVec.toNat_ofNat]
  obtain rfl | rfl := hw <;> omega

/-- A register less the step, as a number. -/
theorem sub_indexWidth_toNat (hw : w = 1 ∨ w = 2) (x : BitVec 16) :
    (x - BitVec.ofNat 16 w * ((1 : BitVec 16) <<< i.sc.toNat)).toNat = (x.toNat + 65536 - w * 2 ^ i.sc.toNat) % 65536 := by
  have hsc : i.sc.toNat < 4 := i.sc.isLt
  have hpow : 2 ^ i.sc.toNat ≤ 2 ^ 3 := Nat.pow_le_pow_right (by decide) (by omega)
  rw [BitVec.toNat_sub, indexWidth_toNat hw]
  obtain rfl | rfl := hw <;> omega

/-- A register and the step, as a number. -/
theorem add_indexWidth (hw : w = 1 ∨ w = 2) (x : BitVec 16) :
    x + BitVec.ofNat 16 w * ((1 : BitVec 16) <<< i.sc.toNat) = BitVec.ofNat 16 (x.toNat + w * 2 ^ i.sc.toNat) := by
  apply BitVec.eq_of_toNat_eq
  rw [BitVec.toNat_add, indexWidth_toNat hw, BitVec.toNat_ofNat]

/-- An index register scaled, with a displacement. -/
theorem opnd_add_scaled_toNat (x : BitVec 16) :
    (i.opnd + x * ((1 : BitVec 16) <<< i.sc.toNat)).toNat = (i.opnd.toNat + x.toNat * 2 ^ i.sc.toNat) % 65536 := by
  rw [BitVec.toNat_add, BitVec.toNat_mul, scale_toNat]
  omega

/-- The modes outside 5 to 8 move no index register. -/
theorem indexStep_still (h : i.am.toNat < 5 ∨ 8 < i.am.toNat) : indexStep i w k = k := by
  unfold indexStep
  dsimp only
  split
  case h_5 => rfl
  all_goals omega

end

/-- Settles O10: each mode by its row, with the step and the scale as numbers. -/
theorem g8Addressing : Obligations.G8Addressing := by
  unfold Obligations.G8Addressing
  intro k i w hw
  refine ⟨fun h => ?_, fun h => ?_, fun h => ?_, fun h => ?_, fun h => ?_, fun h => ?_, fun h => ?_, fun h => ?_,
    fun h => ?_, fun h => ?_, indexStep_still⟩
  · simp [effAddr, h]
  · simp [effAddr, h]
  · simp [effAddr, h]
  · simp [effAddr, h]
  · simp only [effAddr, indexStep, h]
    exact ⟨rfl, congrArg (fun x => { k with x := x }) (add_indexWidth hw k.x)⟩
  · simp only [effAddr, indexStep, h]
    exact ⟨rfl, congrArg (fun y => { k with y := y }) (add_indexWidth hw k.y)⟩
  · simp only [effAddr, indexStep, h]
    exact ⟨sub_indexWidth_toNat hw k.x, rfl⟩
  · simp only [effAddr, indexStep, h]
    exact ⟨sub_indexWidth_toNat hw k.y, rfl⟩
  · simp only [effAddr, h]
    exact opnd_add_scaled_toNat k.x
  · simp only [effAddr, h]
    exact opnd_add_scaled_toNat k.y

end Sys2Proof.Machine
end

section
/-!
PROOFS. Instructions that work on registers and on an operand: sums, logic, selects, shifts, and the wide operations.
-/
namespace Sys2Proof.Machine

section
variable {s s1 s2 : State} {c : CoreId} {i : G8Word} {v n w m : Nat}

/-! ## The two forms of such an instruction (R259, R263) -/

/-- An instruction that is due and has its operand. -/
theorem due_reading {dest : G8Word → Nat} {g : G8Word → Nat → Core → Core} {g' : Core → Core} (h : Due s s1 c i)
    (hm : i.opc.toNat = m) (hread : operand w c i (slotFree (getCore s1 c)) s1 = (s2, .ok (v, n)))
    (hg : ∀ q, g i v q = g' q) :
    insn m (plain (reading w dest g)) c s =
      .next (retired c (getCore s1 c) s2 (fun q => indexed (dest i) i w q (g' q)) (1 + n) none) := by
  obtain rfl : g i v = g' := funext hg
  refine due_plain (a := ⟨fun q => indexed (dest i) i w q (g i v q), 1 + n, none⟩) h hm ?_
  simp only [reading, hread]

/-- An instruction that is due and works on registers alone. -/
theorem due_local {g : G8Word → Core → Core} {g' : Core → Core} (h : Due s s1 c i) (hm : i.opc.toNat = m)
    (hg : ∀ q, g i q = g' q) :
    insn m (plain (local_ g)) c s = .next (retired c (getCore s1 c) s1 g' 1 none) := by
  obtain rfl : g i = g' := funext hg
  exact due_plain (a := ⟨g i, 1, none⟩) h hm rfl

/-- An instruction on A and an operand byte: the new A and F, as r works them out. -/
theorem due_onA {g : BitVec 8 → BitVec 8 → BitVec 8 → BitVec 8 × BitVec 8} (r : Core → BitVec 8 × BitVec 8)
    (h : Due s s1 c i) (hm : i.opc.toNat = m) (hread : operand 1 c i (slotFree (getCore s1 c)) s1 = (s2, .ok (v, n)))
    (hg : ∀ q, g q.a (BitVec.ofNat 8 v) q.f = r q) :
    insn m (plain (onA g)) c s = .next (retired c (getCore s1 c) s2
      (fun q => indexed 0 i 1 q { q with a := (r q).1, f := (r q).2 }) (1 + n) none) :=
  due_reading h hm hread fun q => by rw [hg]

/-! ## Sums and differences (R252, R261) -/

/-- A and F after an exact result of A, the operand's low byte and the carry (R252); CMP keeps A. -/
def sumResult (keep : Bool) (g : Int → Int → Int → Int) (v : Nat) (q : Core) : BitVec 8 × BitVec 8 :=
  (if keep then q.a else BitVec.ofInt 8 (g q.a.toNat (v % 256) (b2n (bit q.f 0))),
    sumFlags 8 q.f (g q.a.toNat (v % 256) (b2n (bit q.f 0))) (g q.a.toInt (BitVec.ofNat 8 v).toInt (b2n (bit q.f 0))))

theorem addW_carry (v : Nat) (q : Core) : withCZNV q.f (addW q.a (BitVec.ofNat 8 v) (bit q.f 0)) =
    sumResult false (fun a m cf => a + m + cf) v q :=
  sum8 ..

theorem addW_plain (v : Nat) (q : Core) : withCZNV q.f (addW q.a (BitVec.ofNat 8 v) false) =
    sumResult false (fun a m _ => a + m) v q := by
  rw [sum8]
  simp [sumResult, b2n]

theorem subW_borrow (v : Nat) (q : Core) : withCZNV q.f (subW q.a (BitVec.ofNat 8 v) (bit q.f 0)) =
    sumResult false (fun a m cf => a - m - cf) v q :=
  dif8 ..

theorem subW_plain (v : Nat) (q : Core) : withCZNV q.f (subW q.a (BitVec.ofNat 8 v) false) =
    sumResult false (fun a m _ => a - m) v q := by
  rw [dif8]
  simp [sumResult, b2n]

end

/-- Settles O11: each instruction by the exact sum or difference of A and the operand, with its flags. -/
theorem g8AddAndSubtract : Obligations.G8AddAndSubtract := by
  unfold Obligations.G8AddAndSubtract
  intro c s s1 s2 i v n hdue hread
  refine ⟨fun hop => ?_, fun hop => ?_, fun hop => ?_, fun hop => ?_, fun hop => ?_⟩
  · exact due_onA (sumResult false (fun a m _ => a + m) v) hdue (congrArg BitVec.toNat hop) hread (addW_plain v)
  · exact due_onA (sumResult false (fun a m cf => a + m + cf) v) hdue (congrArg BitVec.toNat hop) hread (addW_carry v)
  · exact due_onA (sumResult false (fun a m _ => a - m) v) hdue (congrArg BitVec.toNat hop) hread (subW_plain v)
  · exact due_onA (sumResult false (fun a m cf => a - m - cf) v) hdue (congrArg BitVec.toNat hop) hread (subW_borrow v)
  · exact due_onA (sumResult true (fun a m _ => a - m) v) hdue (congrArg BitVec.toNat hop) hread fun q =>
      congrArg (q.a, ·.2) (subW_plain v q)

section
variable {s s1 s2 : State} {c : CoreId} {i : G8Word} {v n m : Nat}

/-! ## Logic and selects (R257, R261, R272) -/

/-- The flags of a logical result, by its sign bit (R252). -/
theorem putZN_byte (f r : BitVec 8) : putZN f r = logicFlags f r := by
  rw [zn_eq, bits7]
  rfl

/-- A and F after a logical result of A and the operand; BIT keeps A. -/
def logicResult (keep : Bool) (g : BitVec 8 → BitVec 8 → BitVec 8) (v : Nat) (q : Core) : BitVec 8 × BitVec 8 :=
  (if keep then q.a else g q.a (BitVec.ofNat 8 v), logicFlags q.f (g q.a (BitVec.ofNat 8 v)))

theorem putZN_logicResult (g : BitVec 8 → BitVec 8 → BitVec 8) (v : Nat) (q : Core) :
    (g q.a (BitVec.ofNat 8 v), putZN q.f (g q.a (BitVec.ofNat 8 v))) = logicResult false g v q :=
  congrArg (g q.a (BitVec.ofNat 8 v), ·) (putZN_byte ..)

/-- A select that is due: A takes the operand where the condition is as wanted. -/
theorem due_selecting (want : Bool) (h : Due s s1 c i) (hm : i.opc.toNat = m)
    (hread : operand 1 c i (slotFree (getCore s1 c)) s1 = (s2, .ok (v, n))) :
    insn m (plain (selecting want)) c s = .next (retired c (getCore s1 c) s2 (fun q => indexed 0 i 1 q
      { q with a := if cond q.f i.rs = want then BitVec.ofNat 8 v else q.a }) (1 + n) none) :=
  due_reading h hm hread fun _ => rfl

/-- A mask that is due: A takes ones where the condition is as wanted, and zero where not. -/
theorem due_masking (want : Bool) (h : Due s s1 c i) (hm : i.opc.toNat = m) :
    insn m (plain (masking want)) c s = .next (retired c (getCore s1 c) s1
      (fun q => { q with a := if cond q.f i.rs = want then 0xFF else 0 }) 1 none) :=
  due_local h hm fun _ => rfl

end

/-- Settles O12: logic by the flags of its result; a select or mask by the condition, which its operand does not touch. -/
theorem g8LogicAndSelects : Obligations.G8LogicAndSelects := by
  unfold Obligations.G8LogicAndSelects
  refine ⟨fun c s s1 s2 i v n hdue hread => ⟨fun hop => ?_, fun hop => ?_, fun hop => ?_, fun hop => ?_⟩,
    fun c s s1 s2 i v n hdue hread => ⟨fun hop => ?_, fun hop => ?_, fun hop => ?_, fun hop => ?_⟩⟩
  · exact due_onA (logicResult false (· &&& ·) v) hdue (congrArg BitVec.toNat hop) hread (putZN_logicResult _ v)
  · exact due_onA (logicResult false (· ||| ·) v) hdue (congrArg BitVec.toNat hop) hread (putZN_logicResult _ v)
  · exact due_onA (logicResult false (· ^^^ ·) v) hdue (congrArg BitVec.toNat hop) hread (putZN_logicResult _ v)
  · exact due_onA (logicResult true (· &&& ·) v) hdue (congrArg BitVec.toNat hop) hread fun q =>
      congrArg (q.a, ·) (putZN_byte ..)
  · exact due_selecting true hdue (congrArg BitVec.toNat hop) hread
  · exact due_selecting false hdue (congrArg BitVec.toNat hop) hread
  · exact due_masking true hdue (congrArg BitVec.toNat hop)
  · exact due_masking false hdue (congrArg BitVec.toNat hop)

end Sys2Proof.Machine
end

section
/-!
PROOFS. Shifts and rotates as numbers, and the operations on half-words.
-/
namespace Sys2Proof.Machine

/-! ## Shifts and rotates (R261) -/

section
variable {s s1 : State} {c : CoreId} {i : G8Word} {m : Nat}

/-- A bit of a vector, as a digit of its number. -/
theorem bit_digit {w : Nat} (x : BitVec w) (j : Nat) : bit x j = (x.toNat / 2 ^ j % 2 == 1) := by
  rw [bit, BitVec.getLsbD, Nat.testBit_eq_decide_div_mod_eq]
  exact Bool.beq_eq_decide_eq _ _ |>.symm

/-- A carry that stands, as a digit. -/
theorem carry_digit (cf : Bool) : cf = (b2n cf % 2 == 1) := by cases cf <;> rfl

/-- A result and a carry, from the numbers whose low digits they are. -/
def lowDigits (r : Nat × Nat) : BitVec 8 × Bool := (BitVec.ofNat 8 r.1, r.2 % 2 == 1)

/-- What SHL makes of A and the carry, as numbers; so too the four below (R261). -/
def shlNumbers (n a cf : Nat) : Nat × Nat := (a * 2 ^ n, if n = 0 then cf else a * 2 ^ n / 256)

def shrNumbers (n a cf : Nat) : Nat × Nat := (a / 2 ^ n, if n = 0 then cf else a / 2 ^ (n - 1))

/-- SAR shifts A with its sign above it. -/
def sarNumbers (n a cf : Nat) : Nat × Nat :=
  ((a + 0xFF00 * (a / 128)) / 2 ^ n, if n = 0 then cf else a / 2 ^ (n - 1))

/-- ROL turns C and A as 9 bits. -/
def rolNumbers (n a cf : Nat) : Nat × Nat :=
  let t := (256 * cf + a) * 2 ^ n
  ((t + t / 512) % 512, (t + t / 512) % 512 / 256)

/-- ROR turns A and C as 9 bits. -/
def rorNumbers (n a cf : Nat) : Nat × Nat :=
  let t := 2 * a + cf
  let u := t / 2 ^ n + t % 2 ^ n * 2 ^ (9 - n)
  (u % 512 / 2, u % 2)

/-- A core after a shift or rotate: A holds r.1, C the lowest digit of r.2 (R261). -/
def shifted (r : Nat × Nat) (q : Core) : Core :=
  { q with
    a := BitVec.ofNat 8 r.1
    f := flagsCZNV q.f (r.2 % 2 == 1) (r.1 % 256 == 0) (decide (128 ≤ r.1 % 256)) (bit q.f 3) }

/-- A shift or rotate that is due, where its result and carry are known as numbers. -/
theorem due_shifting {g : BitVec 8 → Nat → Bool → BitVec 8 × Bool} (r : Nat → Nat → Nat × Nat) (h : Due s s1 c i)
    (hm : i.opc.toNat = m) (hg : ∀ a cf, g a i.opnd.toNat cf = lowDigits (r a.toNat (b2n cf))) :
    insn m (plain (shifting g)) c s =
      .next (retired c (getCore s1 c) s1 (fun q => shifted (r q.a.toNat (b2n (bit q.f 0))) q) 1 none) := by
  refine due_local h hm fun q => ?_
  have hzero (x : Nat) : (BitVec.ofNat 8 x == 0) = (x % 256 == 0) := by
    rw [Bool.eq_iff_iff, beq_iff_eq, beq_iff_eq, ← BitVec.toNat_inj]
    simp
  have hsign (x : Nat) : bit (BitVec.ofNat 8 x) (8 - 1) = decide (128 ≤ x % 256) := bits7 _
  simp only [hg, lowDigits, cznn_eq, hzero, hsign]
  rfl

variable {n : Nat}

theorem shlW_eq (hn : n ≤ 7) (a : BitVec 8) (cf : Bool) : 
    shlW a n cf = lowDigits (shlNumbers n a.toNat (b2n cf)) := by
  refine Prod.ext (BitVec.eq_of_toNat_eq (by simp [shlW, lowDigits, shlNumbers, Nat.shiftLeft_eq])) ?_
  by_cases h0 : n = 0
  · simpa [shlW, lowDigits, shlNumbers, h0] using carry_digit cf
  · have hpow : 2 ^ (8 - n) * 2 ^ n = 256 := pow_sub_mul_pow 2 (by omega)
    have hdiv : a.toNat * 2 ^ n / 256 = a.toNat / 2 ^ (8 - n) := by
      rw [← hpow, Nat.mul_div_mul_right _ _ (by positivity)]
    simp [shlW, lowDigits, shlNumbers, h0, hdiv, bit_digit]

theorem shrW_eq (a : BitVec 8) (cf : Bool) : shrW a n cf = lowDigits (shrNumbers n a.toNat (b2n cf)) := by
  refine Prod.ext ?_ ?_
  · apply BitVec.eq_of_toNat_eq
    have hlt : a.toNat / 2 ^ n < 256 := (Nat.div_le_self _ _).trans_lt a.isLt
    simp [shrW, lowDigits, shrNumbers, Nat.shiftRight_eq_div_pow, Nat.mod_eq_of_lt hlt]
  · by_cases h0 : n = 0
    · simpa [shrW, lowDigits, shrNumbers, h0] using carry_digit cf
    · simp [shrW, lowDigits, shrNumbers, h0, bit_digit]

theorem sarW_eq (hn : n ≤ 7) (a : BitVec 8) (cf : Bool) :
    sarW a n cf = lowDigits (sarNumbers n a.toNat (b2n cf)) := by
  refine Prod.ext ?_ (Prod.ext_iff.1 (shrW_eq (n := n) a cf)).2
  apply BitVec.eq_of_toNat_eq
  have ha := a.isLt
  simp only [sarW, lowDigits, sarNumbers, BitVec.toNat_sshiftRight, BitVec.msb_eq_decide, BitVec.toNat_ofNat, Nat.shiftRight_eq_div_pow,
    decide_eq_true_eq]
  interval_cases n <;> split <;> omega

/-- A rotation of 9 bits as a sum: p bits go up, and the q above them come in below. -/
theorem rotation_sum {p q t : Nat} (hpq : q + p = 9) (ht : t < 512) :
    t <<< p % 512 ||| t >>> q = t % 2 ^ q * 2 ^ p + t / 2 ^ q := by
  have hpow : 2 ^ q * 2 ^ p = 512 := by rw [← pow_add, hpq]; rfl
  have hin : t / 2 ^ q < 2 ^ p := Nat.div_lt_of_lt_mul (hpow ▸ ht)
  rw [Nat.shiftLeft_eq, Nat.shiftRight_eq_div_pow, ← hpow, Nat.mul_mod_mul_right, ← Nat.shiftLeft_eq,
    Nat.shiftLeft_add_eq_or_of_lt hin]

theorem rotateLeft_toNat (hn : n < 9) (x : BitVec 9) :
    (x.rotateLeft n).toNat = x.toNat % 2 ^ (9 - n) * 2 ^ n + x.toNat / 2 ^ (9 - n) := by
  rw [BitVec.toNat_rotateLeft, Nat.mod_eq_of_lt hn]
  exact rotation_sum (by omega) x.isLt

theorem rotateRight_toNat (hn : n < 9) (x : BitVec 9) :
    (x.rotateRight n).toNat = x.toNat / 2 ^ n + x.toNat % 2 ^ n * 2 ^ (9 - n) := by
  rw [BitVec.toNat_rotateRight, Nat.mod_eq_of_lt hn, Nat.lor_comm, Nat.add_comm]
  exact rotation_sum (by omega) x.isLt

theorem rolW_eq (hn : n ≤ 7) (a : BitVec 8) (cf : Bool) :
    rolW a n cf = lowDigits (rolNumbers n a.toNat (b2n cf)) := by
  have ha := a.isLt
  have hc : b2n cf ≤ 1 := by cases cf <;> simp [b2n]
  let x := BitVec.ofNat 9 (256 * b2n cf + a.toNat)
  have hx : x.toNat = 256 * b2n cf + a.toNat := BitVec.toNat_ofNat .. |>.trans (Nat.mod_eq_of_lt (by omega))
  have hpow : 2 ^ (9 - n) * 2 ^ n = 512 := pow_sub_mul_pow 2 (by omega)
  have hv : (x.rotateLeft n).toNat = (x.toNat * 2 ^ n + x.toNat * 2 ^ n / 512) % 512 := by
    have hlt := (x.rotateLeft n).isLt
    have hsum := rotateLeft_toNat (by omega : n < 9) x
    rw [← Nat.mul_mod_mul_right, ← Nat.mul_div_mul_right x.toNat (2 ^ (9 - n)) (by positivity : 0 < 2 ^ n), hpow] at hsum
    omega
  rw [hx] at hv
  simp only [lowDigits, rolNumbers, ← hv]
  exact Prod.ext (BitVec.ofNat_toNat 8 (x.rotateLeft n)).symm (bit_digit _ 8)

theorem rorW_eq (hn : n ≤ 7) (a : BitVec 8) (cf : Bool) :
    rorW a n cf = lowDigits (rorNumbers n a.toNat (b2n cf)) := by
  have ha := a.isLt
  have hc : b2n cf ≤ 1 := by cases cf <;> simp [b2n]
  let x := BitVec.ofNat 9 (2 * a.toNat + b2n cf)
  have hx : x.toNat = 2 * a.toNat + b2n cf := BitVec.toNat_ofNat .. |>.trans (Nat.mod_eq_of_lt (by omega))
  have hlt := (x.rotateRight n).isLt
  have hv := rotateRight_toNat (by omega : n < 9) x
  rw [hx] at hv
  simp only [lowDigits, rorNumbers, ← hv, Nat.mod_eq_of_lt hlt]
  exact Prod.ext rfl ((bit_digit _ 0).trans (by simp [x]))

end

/-! ## A register stepped, and the operations on half-words (R261) -/

section
variable {s s1 s2 : State} {c : CoreId} {i : G8Word} {v n m : Nat}

/-- The flags of a half-word's sign and zero. -/
theorem putZN_halfWord (f : BitVec 8) (r : BitVec 16) :
    putZN f r = flagsCZNV f (bit f 0) (decide (r.toNat = 0)) (decide (32768 ≤ r.toNat)) (bit f 3) := by
  rw [zn_eq, bits15, Bool.beq_eq_decide_eq]
  simp [← BitVec.toNat_inj]

/-- The flags of a half-word's low byte, as of a half-word with that byte above. -/
theorem putZN_lowByte (f : BitVec 8) (r : BitVec 16) : putZN f (r.setWidth 8) = flagsCZNV f (bit f 0)
    (decide (r.toNat % 256 * 256 = 0)) (decide (32768 ≤ r.toNat % 256 * 256)) (bit f 3) := by
  have hzero : r.setWidth 8 = 0 ↔ r.toNat % 256 * 256 = 0 := by simp [← BitVec.toNat_inj]
  have hsign : 128 ≤ (r.setWidth 8).toNat ↔ 32768 ≤ r.toNat % 256 * 256 := by
    rw [BitVec.toNat_setWidth]
    omega
  simp only [putZN_byte, logicFlags, hzero, hsign]

/-- A core with d added to a register: Z and N of the register's own width, of A as a half-word's upper part. -/
def stepped (code : Nat) (d : BitVec 16) (q : Core) : Core :=
  let r := regGet q code + d
  let z : Nat := if code = 0 then r.toNat % 256 * 256 else r.toNat
  { regPut q code r with f := flagsCZNV q.f (bit q.f 0) (decide (z = 0)) (decide (32768 ≤ z)) (bit q.f 3) }

/-- INC and DEC that are due. -/
theorem due_stepping (d : BitVec 16) (h : Due s s1 c i) (hm : i.opc.toNat = m) :
    insn m (plain (stepping d)) c s = .next (retired c (getCore s1 c) s1 (stepped i.rs.toNat d) 1 none) := by
  refine due_local h hm fun q => ?_
  unfold stepped
  dsimp only
  congr 1
  split
  · exact putZN_lowByte ..
  · exact putZN_halfWord ..

/-- The result and flags of an operation on a register and the operand's half-word (R252). -/
def wideResult (g : Int → Int → Int) (v : Nat) (r : BitVec 16) (f : BitVec 8) : BitVec 16 × BitVec 8 :=
  (BitVec.ofInt 16 (g r.toNat (v % 65536)), sumFlags 16 f (g r.toNat (v % 65536)) (g r.toInt (BitVec.ofNat 16 v).toInt))

theorem addW_wide (v : Nat) (r : BitVec 16) (f : BitVec 8) :
    withCZNV f (addW r (BitVec.ofNat 16 v) false) = wideResult (· + ·) v r f := by
  rw [sum16]
  simp [wideResult, b2n]

theorem subW_wide (v : Nat) (r : BitVec 16) (f : BitVec 8) :
    withCZNV f (subW r (BitVec.ofNat 16 v) false) = wideResult (· - ·) v r f := by
  rw [dif16]
  simp [wideResult, b2n]

/-- ADW and SBW that are due, where the result and flags are known. -/
theorem due_onWord {o : BitVec 16 → BitVec 16 → BitVec 16 × Bool × Bool} (g : Int → Int → Int) (h : Due s s1 c i)
    (hm : i.opc.toNat = m) (hread : operand 2 c i (slotFree (getCore s1 c)) s1 = (s2, .ok (v, n)))
    (ho : ∀ r f, withCZNV f (o r (BitVec.ofNat 16 v)) = wideResult g v r f) :
    insn m (plain (onWord o)) c s = .next (retired c (getCore s1 c) s2 (fun q => indexed i.rs.toNat i 2 q
      { regPut q i.rs.toNat (wideResult g v (regGet q i.rs.toNat) q.f).1 with
        f := (wideResult g v (regGet q i.rs.toNat) q.f).2 }) (1 + n) none) :=
  due_reading h hm hread fun q => by rw [ho]

/-- CPR that is due. -/
theorem due_opCpr (h : Due s s1 c i) (hm : i.opc.toNat = m)
    (hread : operand 2 c i (slotFree (getCore s1 c)) s1 = (s2, .ok (v, n))) :
    insn m (plain opCpr) c s = .next (retired c (getCore s1 c) s2 (fun q => indexed 0 i 2 q
      { q with f := (wideResult (· - ·) v (regGet q i.rs.toNat) q.f).2 }) (1 + n) none) :=
  due_reading h hm hread fun q => by rw [subW_wide]

/-- Z written alone. -/
theorem setBit_zero (f : BitVec 8) (z : Bool) :
    setBit f 1 z = flagsCZNV f (bit f 0) z (bit f 2) (bit f 3) := by
  revert f z
  decide +kernel

/-- MUL that is due. -/
theorem due_opMul (h : Due s s1 c i) (hm : i.opc.toNat = m)
    (hread : operand 1 c i (slotFree (getCore s1 c)) s1 = (s2, .ok (v, n))) :
    insn m (plain opMul) c s = .next (retired c (getCore s1 c) s2 (fun q => indexed 1 i 1 q
      { q with
        x := BitVec.ofNat 16 (q.a.toNat * v)
        f := flagsCZNV q.f (bit q.f 0) (decide (q.a.toNat * v % 65536 = 0)) (bit q.f 2) (bit q.f 3) }) (1 + n) none) :=
by
  refine due_reading h hm hread fun q => ?_
  have hzero : (BitVec.ofNat 16 (q.a.toNat * v) == 0) = decide (q.a.toNat * v % 65536 = 0) := by
    rw [Bool.beq_eq_decide_eq]
    simp [← BitVec.toNat_inj]
  dsimp only
  rw [setBit_zero, hzero]

end

/-- Settles O13: a shift by its result as a number, a step and a wide operation by their exact results. -/
theorem g8ShiftsAndWide : Obligations.G8ShiftsAndWide := by
  unfold Obligations.G8ShiftsAndWide
  refine ⟨fun c s s1 i hdue => ⟨fun hop => ?_, fun hop => ?_, fun hop => ?_, fun hop => ?_, fun hop => ?_⟩,
    fun c s s1 s2 i v n w hdue hread => ⟨fun hop => ?_, fun hop => ?_, fun hop hw => ?_, fun hop hw => ?_,
      fun hop hw => ?_, fun hop hw => ?_⟩⟩
  · have hn := legal_shift hdue.legal (by simp [hop])
    exact due_shifting (shlNumbers _) hdue (congrArg BitVec.toNat hop) (shlW_eq hn)
  · exact due_shifting (shrNumbers _) hdue (congrArg BitVec.toNat hop) shrW_eq
  · have hn := legal_shift hdue.legal (by simp [hop])
    exact due_shifting (sarNumbers _) hdue (congrArg BitVec.toNat hop) (sarW_eq hn)
  · have hn := legal_shift hdue.legal (by simp [hop])
    exact due_shifting (rolNumbers _) hdue (congrArg BitVec.toNat hop) (rolW_eq hn)
  · have hn := legal_shift hdue.legal (by simp [hop])
    exact due_shifting (rorNumbers _) hdue (congrArg BitVec.toNat hop) (rorW_eq hn)
  · exact due_stepping 1 hdue (congrArg BitVec.toNat hop)
  · exact due_stepping 0xFFFF hdue (congrArg BitVec.toNat hop)
  · subst hw
    exact due_opCpr hdue (congrArg BitVec.toNat hop) hread
  · subst hw
    exact due_opMul hdue (congrArg BitVec.toNat hop) hread
  · subst hw
    exact due_onWord (· + ·) hdue (congrArg BitVec.toNat hop) hread (addW_wide v)
  · subst hw
    exact due_onWord (· - ·) hdue (congrArg BitVec.toNat hop) hread (subW_wide v)

end Sys2Proof.Machine
end

section
/-!
PROOFS. Loads, moves, stores, and transfers.
-/
namespace Sys2Proof.Machine

section
variable {s s1 s2 : State} {c : CoreId} {i : G8Word} {k : Core} {v n : Nat}

/-- An instruction that is due and completes, its effect in three parts. -/
theorem due_completes {b : Body} {m cycles : Nat} {upd : Core → Core} {jump : Option (BitVec 16)} (h : Due s s1 c i)
    (hm : i.opc.toNat = m) (hb : b c i (slotFree (getCore s1 c)) s1 = (s2, .ok ⟨upd, cycles, jump⟩)) :
    insn m (plain b) c s = .next (retired c (getCore s1 c) s2 upd cycles jump) :=
  due_plain (a := ⟨upd, cycles, jump⟩) h hm hb

/-! ## Loads and stores (R255, R261, R263) -/

theorem opLd_reads (h : coreRead s c (level k) (effAddr k i (regBytes i.rs.toNat)).toNat (regBytes i.rs.toNat) =
      (s2, .ok (v, n))) :
    opLd c i k s = (s2, .ok
      { upd := fun q => { indexStep i (regBytes i.rs.toNat) q with load := some (i.rs.setWidth 4, BitVec.ofNat 16 v) }
        cycles := 1 + n, jump := none }) := by
  simp only [opLd, h]

theorem opPop_reads
    (h : coreRead s c (level k) k.sp.toNat (regBytes (stackCode i.rs)) = (s2, .ok (v, n))) :
    opPop c i k s = (s2, .ok
      { upd := fun q => { q with
          sp := k.sp + BitVec.ofNat 16 (regBytes (stackCode i.rs))
          load := some (BitVec.ofNat 4 (stackCode i.rs), BitVec.ofNat 16 v) }
        cycles := 1 + n, jump := none }) := by
  simp only [opPop, h]

theorem opRet_reads (h : coreRead s c (level k) k.sp.toNat 2 = (s2, .ok (v, n))) :
    opRet c i k s = (s2, .ok
      { upd := fun q => { q with sp := k.sp + 2 }, cycles := 2 + n, jump := some (BitVec.ofNat 16 v) }) := by
  simp only [opRet, h]

theorem opSt_writes (ham : i.am ≠ 11) (h : coreWrite s c (level k) (effAddr k i (regBytes i.rs.toNat)).toNat
      (natLe (regBytes i.rs.toNat) (regGet k i.rs.toNat).toNat) = (s2, .ok n)) :
    opSt c i k s = (s2, .ok { upd := indexStep i (regBytes i.rs.toNat), cycles := 1 + n, jump := none }) := by
  simp only [opSt, if_neg ham, h]

theorem opSt_register (ham : i.am = 11) : opSt c i k s =
    (s, .ok { upd := fun q => regPut q i.opnd.toNat (regGet k i.rs.toNat), cycles := 1, jump := none }) :=
  if_pos ham

theorem opPush_writes
    (h : coreWrite s c (level k) (k.sp - BitVec.ofNat 16 (regBytes (stackCode i.rs))).toNat
      (natLe (regBytes (stackCode i.rs)) (regGet k (stackCode i.rs)).toNat) = (s2, .ok n)) :
    opPush c i k s = (s2, .ok
      { upd := fun q => { q with sp := k.sp - BitVec.ofNat 16 (regBytes (stackCode i.rs)) }
        cycles := 1 + n, jump := none }) := by
  simp only [opPush, h]

theorem opCall_writes (h : coreWrite s c (level k) (k.sp - 2).toNat (natLe 2 (k.pc + 4).toNat) = (s2, .ok n)) :
    opCall c i k s = (s2, .ok
      { upd := fun q => { q with sp := k.sp - 2 }, cycles := 2 + n, jump := some (effAddr k i 2) }) := by
  simp only [opCall, h]

/-! ## Loops and fences (R268, R271) -/

theorem opLoop_skips (h : loopCount k i.rs = 0) :
    opLoop c i k s = (s, .ok { upd := id, cycles := 1, jump := some (i.opnd + 4) }) :=
  if_pos h

theorem opLoop_begins (h : loopCount k i.rs ≠ 0) : opLoop c i k s = (s, .ok
    { upd := fun q => { q with
        le := i.opnd, f := q.f ||| 0x20
        lc := BitVec.ofNat 16 (4096 * ((i.opnd.toNat - k.pc.toNat - 4) / 4) + loopCount k i.rs) }
      cycles := 1, jump := none }) :=
  if_neg h

theorem opFence_completes (h : (getCore (drainAll s c).1 c).latePend = none) : opFence c i k s =
    ((drainAll s c).1, .ok { upd := id, cycles := max 1 (drainAll s c).2, jump := none }) := by
  simp only [opFence, h]

/-- BF branches where the condition fails. -/
theorem opBf_branches (k : Core) : opBf c i k s =
    (s, .ok { upd := id, cycles := 2, jump := if cond k.f i.rs then none else some i.opnd }) := by
  unfold opBf branching
  cases cond k.f i.rs <;> rfl

end

/-- Settles O14: each instruction by what it makes of the access that its premise names. -/
theorem g8LoadsAndStores : Obligations.G8LoadsAndStores := by
  unfold Obligations.G8LoadsAndStores
  refine ⟨fun c s s1 s2 i v n hdue => ⟨fun hop hread => ?_, fun hop hread => ?_, fun hop => ?_, fun hop => ?_,
    fun hop => ?_⟩, fun c s s1 s2 i n hdue => ⟨fun hop ham hwrite => ?_, fun hop ham => ?_, fun hop hwrite => ?_,
    fun hop hwrite => ?_⟩⟩
  · exact due_completes hdue (congrArg BitVec.toNat hop) (opLd_reads hread)
  · exact due_completes hdue (congrArg BitVec.toNat hop) (opPop_reads hread)
  · exact due_local hdue (congrArg BitVec.toNat hop) fun _ => rfl
  · exact due_local hdue (congrArg BitVec.toNat hop) fun _ => rfl
  · exact due_local hdue (congrArg BitVec.toNat hop) fun _ => rfl
  · exact due_completes hdue (congrArg BitVec.toNat hop) (opSt_writes ham hwrite)
  · exact due_completes hdue (congrArg BitVec.toNat hop) (opSt_register ham)
  · exact due_completes hdue (congrArg BitVec.toNat hop) (opPush_writes hwrite)
  · exact due_completes hdue (congrArg BitVec.toNat hop) (opCall_writes hwrite)

/-- Settles O15: each transfer by where its branch leads. -/
theorem g8Transfers : Obligations.G8Transfers := by
  unfold Obligations.G8Transfers
  intro c s s1 s2 i v n hdue
  refine ⟨fun hop => ?_, fun hop => ?_, fun hop => ?_, fun hop hread => ?_, fun hop hcount => ?_, fun hop hcount => ?_,
    fun hop => ?_, fun hop hlate => ?_⟩
  · exact due_completes (b := opBt) hdue (congrArg BitVec.toNat hop) rfl
  · exact due_completes hdue (congrArg BitVec.toNat hop) (opBf_branches ..)
  · exact due_completes (b := opJmp) hdue (congrArg BitVec.toNat hop) rfl
  · exact due_completes hdue (congrArg BitVec.toNat hop) (opRet_reads hread)
  · exact due_completes hdue (congrArg BitVec.toNat hop) (opLoop_skips hcount)
  · exact due_completes hdue (congrArg BitVec.toNat hop) (opLoop_begins hcount)
  · exact due_completes (b := opWait) hdue (congrArg BitVec.toNat hop) rfl
  · exact due_completes hdue (congrArg BitVec.toNat hop) (opFence_completes hlate)

end Sys2Proof.Machine
end

section
/-!
PROOFS. Reserved opcodes, and the entry to an exception.
-/
namespace Sys2Proof.Machine

/-! ## Words a command does not run (R262, R281) -/

section
variable {s s1 : State} {c : CoreId} {w : BitVec 32} {p : Nat → Bool} {f : CoreId → G8Word → State → State}

/-- A core with nothing pending that fetches a word: what a command for some opcodes makes of it. -/
theorem g8Row_fetched (hquiet : pendingCause (getCore s c) = none) (hruns : coreRuns s c = true)
    (halike : c = .house → s.house.core = s.house.twin) (hfetch : fetch s c = (s1, .ok w)) :
    g8Row p f c s = mirrored c (if !p (g8Decode w).opc.toNat then s
      else if legal (isHouse c) (getCore s1 c) (g8Decode w) then f c (g8Decode w) s1 else stopped s1 c (.exc 0x04 0)) := by
  cases c with
  | lane l => simp [g8Row, act, hquiet, hruns, hfetch, mirrored]
  | house => simp [g8Row, act, hquiet, hruns, hfetch, mirrored, halike rfl]

end

/-! ## Exception entry (R282, R283, R288) -/

section
variable {s s2 : State} {c : CoreId} {k : Core} {t top cause info sp n : Nat} {b : Bytes} {pc : BitVec 16}

/-- A frame that can be pushed waits for no page under retag: each of its pieces may be written. -/
theorem pushHeld_of_pushFrame {r : State × Nat × Nat} (h : pushFrame s c k t top b = some r) :
    pushHeld s c k t top = false := by
  unfold pushFrame at h
  dsimp only at h
  split at h
  · cases h
  · split at h
    next hall =>
      have hfree : ∀ j ∈ List.range 12, refuse s c k t .write (top - 24 + 2 * j) 2 = none := fun j hj => by
        have hok := List.all_eq_true.1 hall j hj
        simp only [pushOk, Bool.and_eq_true, Option.isNone_iff_eq_none] at hok
        exact hok.1.1
      have hany : ((List.range 12).any fun j => refuse s c k t .write (top - 24 + 2 * j) 2 == some .hold) = false :=
        List.any_eq_false.2 fun j hj => by simp [hfree j hj]
      simp only [pushHeld, hany, Bool.and_false]
    next => cases h

/-- Words of the memories met leave every core. -/
@[simp] theorem getCore_touchWords (s : State) (ks : List Nat) (c : CoreId) : getCore (touchWords s ks) c = getCore s c := by
  cases c with
  | lane l => simp [getCore, getLane]
  | house => simp [getCore]

/-- A cause whose vector is sound and whose frame can be pushed leaves the core at the handler; a late store error apart,
only a refused first play is then pending no longer. -/
theorem getCore_takeCause (ht : t = targetLevel (level (getCore s c))) (hsound : anyBad s (vectorWords c t cause) = false)
    (hpush : pushFrame s c { getCore s c with pc := pc } t (entryTop s c cause)
      (frameBytes { getCore s c with pc := pc } cause info) = some (s2, sp, n)) (hcause : cause ≠ 1) :
    ∃ p, getCore (takeCause s c cause info pc) c =
      { enteredCore (getCore s2 c) t sp (vectorEntry s c t cause).1 cause (6 + n) with playForm := p } := by
  subst ht
  have hfree : pushHeld s c (getCore s c) (targetLevel (level (getCore s c))) (entryTop s c cause) = false :=
    pushHeld_of_pushFrame hpush
  have hheld : entryHeld s c cause = false := by simp only [entryHeld, hfree, Bool.and_false]
  have hlevel : level { getCore s c with pc := pc } = level (getCore s c) := rfl
  simp only [takeCause, hheld, hlevel, hsound, hpush, hcause, Bool.false_eq_true, if_false, getCore_touchWords,
    getCore_setCore]
  split
  · exact ⟨none, rfl⟩
  · exact ⟨(getCore s2 c).playForm, rfl⟩

/-- F after an entry, as a number. -/
theorem entryFlags_toNat (f : BitVec 8) (ht : t ≤ 2) : (entryFlags f t).toNat = 64 * t + f.toNat % 16 := by
  simp only [entryFlags, fld, bits, BitVec.toNat_ofNat]
  omega

/-- F after an entry holds the target level, no interrupt enable and no loop, and the arithmetic flags (R285, R288). -/
theorem entryFlags_fields (f : BitVec 8) (ht : t ≤ 2) : fld (entryFlags f t) 7 6 = t ∧ bit (entryFlags f t) 5 = false
    ∧ bit (entryFlags f t) 4 = false ∧ fld (entryFlags f t) 3 0 = fld f 3 0 := by
  simp only [bit_digit, fld, bits, entryFlags_toNat f ht, beq_eq_false_iff_ne]
  omega

end

/-- Settles O17: a reserved opcode raises ILLEGAL whether or not the word is legal; an entry by the core it leaves. -/
theorem g8Exceptions : Obligations.G8Exceptions := by
  unfold Obligations.G8Exceptions
  refine ⟨fun c s s1 w hquiet hruns halike hfetch hrow => ?_, fun c s s2 cause info sp n pc => ?_⟩
  · have hadd : (g8Decode w).opc.toNat ≠ 0x10 := fun h => by simp [h, opRow] at hrow
    have hld : (g8Decode w).opc.toNat ≠ 0x01 := fun h => by simp [h, opRow] at hrow
    refine ⟨congrArg Host.Outcome.next ?_, congrArg Host.Outcome.next ?_, congrArg Host.Outcome.next ?_⟩
    · rw [g8Row_fetched hquiet hruns halike hfetch]
      simp [hrow]
    · rw [g8Row_fetched hquiet hruns halike hfetch]
      simp [hadd]
    · rw [g8Row_fetched hquiet hruns halike hfetch]
      simp [hld]
  · intro k t v hsound hpush hflags hcause
    have ht : t ≤ 2 := by
      dsimp only [t]
      split <;> decide
    have hwords : anyBad s (vectorWords c t cause) = false := Bool.eq_false_iff.2 fun h => by
      obtain ⟨w, hw, hbad⟩ := (anyBad_iff ..).1 h
      exact hsound w hw hbad
    obtain ⟨p, hp⟩ := getCore_takeCause rfl hwords hpush hcause
    obtain ⟨hlevel, hloop, hirq, harith⟩ := entryFlags_fields (getCore s2 c).f ht
    intro q
    have hq : q = { enteredCore (getCore s2 c) t sp v.1 cause (6 + n) with playForm := p } := hp
    rw [hq]
    exact ⟨rfl, rfl, hlevel, hloop, hirq, harith.trans (by rw [hflags]), rfl, rfl, (Nat.add_assoc ..).symm, rfl⟩

end Sys2Proof.Machine
end

section
/-!
PROOFS. The orders of house firmware: score sheets, the restart of a lane core, PROT_RETAG, and the requests of lane kernels.
-/
namespace Sys2Proof.Machine

/-- The physical functions of the device are those its configuration names. -/
theorem pfs_congr {s t : State} (h : t.power = s.power) : pfs t = pfs s := by
  unfold pfs bifurcated dcrByte
  rw [h]

theorem raiseAll_on_of_power {s t : State} {b pl : Nat} (hb : b < 32) (h : t.power = s.power) (hpl : pl ∈ pfs s) :
    bit (getIrq (raiseAll t b) pl).status b = true :=
  raiseAll_on t b hb pl (pfs_congr h ▸ hpl)

/-! ## Score sheets and the restart of a lane (R289, R393) -/

section
variable {s : State} {q : ScoreReq}

/-- The oldest waiting cause is taken off the queue and its sheet written. -/
theorem execScoreSheet_oldest {rest : List ScoreReq} (hup : houseUp s = true) (hq : s.house.queue = q :: rest) :
    execScoreSheet s = .next (writeSheet { s with house := { s.house with queue := rest } } q) := by
  simp only [execScoreSheet, hq, hup, if_true]

theorem execScoreSheet_down (hdown : houseUp s = false) : execScoreSheet s = .next s := by
  unfold execScoreSheet
  split
  · simp [hdown]
  · rfl

/-- A sheet written counts one, and the score ring remembers where it lies. -/
theorem writeSheet_house : (writeSheet s q).house =
    { s.house with newest := s.house.count % 16, count := (s.house.count + 1) % 65536 } := by
  simp [writeSheet]

/-- A sheet written changes memory as the store of its bytes does. -/
theorem rd_writeSheet (a : Nat) : rd (writeSheet s q) a =
    rd (store s (sheetAddr (s.house.count % 16)) (sheetBytes s q ((s.house.count + 1) % 65536))) a := by
  simp [writeSheet, rd]

/-- A sheet written raises SCORE_SHEET in every copy of the IRQ block. -/
theorem writeSheet_raises {pl : Nat} (hpl : pl ∈ pfs s) : bit (getIrq (writeSheet s q) pl).status 24 = true := by
  simp only [writeSheet]
  exact raiseAll_on_of_power (by decide) (by simp only [store_power]) hpl

/-- A stopped lane core none of whose own sheets waits starts again. -/
theorem execLaneRestart_starts {lane : Fin 128} (hup : houseUp s = true) (hstop : (getLane s lane.val).core.stopped = true)
    (hq : ∀ q ∈ s.house.queue, ¬(q.cause = 1 ∧ q.unit = lane.val)) :
    execLaneRestart lane s = .next (setLane s lane.val { getLane s lane.val with core := .reset }) := by
  have hwaits : (s.house.queue.any fun q => q.cause == 1 && q.unit == lane.val) = false :=
    List.any_eq_false.2 fun q hm => by simpa using hq q hm
  simp only [execLaneRestart, hup, hstop, hwaits, Bool.not_false, Bool.and_self, if_true]

end

/-! ## PROT_RETAG (R305) -/

section
variable {s : State} {v : Word}

/-- A write of PROT_RETAG that is taken. -/
theorem retagWrite_taken (hfree : s.prot.retagAt = none) (hv : fld v 31 16 ≠ 0xFFFE) :
    retagWrite s v = { s with prot := { s.prot with
      retagSuit := BitVec.ofNat 16 (fld v 31 16), retagLane := fld v 10 4, retagPage := fld v 3 0
      retagAt := if bit v 15 then some s.round else none } } := by
  simp [retagWrite, hfree, hv]

/-- A write of PROT_RETAG while BUSY, or for suit DEBUG, is discarded. -/
theorem retagWrite_discarded (h : s.prot.retagAt.isSome = true ∨ fld v 31 16 = 0xFFFE) : retagWrite s v = s :=
  if_pos (by simpa using h)

/-- The word that a RETAG request writes to PROT_RETAG. -/
def retagRequest (lane : Fin 128) (page : Fin 16) (suit : BitVec 16) : Word :=
  mkWord (2 ^ 16 * suit.toNat + 0x8000 + 16 * lane.val + page.val)

variable (lane : Fin 128) (page : Fin 16) (suit : BitVec 16)

theorem retagRequest_toNat :
    (retagRequest lane page suit).toNat = 65536 * suit.toNat + 32768 + 16 * lane.val + page.val := by
  simp only [retagRequest, mkWord, BitVec.toNat_ofNat]
  omega

theorem retagRequest_suit : fld (retagRequest lane page suit) 31 16 = suit.toNat := by
  simp only [fld, bits, retagRequest_toNat]
  omega

theorem retagRequest_lane : fld (retagRequest lane page suit) 10 4 = lane.val := by
  simp only [fld, bits, retagRequest_toNat]
  omega

theorem retagRequest_page : fld (retagRequest lane page suit) 3 0 = page.val := by
  simp only [fld, bits, retagRequest_toNat]
  omega

theorem retagRequest_busy : bit (retagRequest lane page suit) 15 = true := by
  rw [bit_digit, retagRequest_toNat, beq_iff_eq]
  omega

/-- A RETAG request that is taken: its retag begins in this round. -/
theorem retagWrite_request (hfree : s.prot.retagAt = none) (hsuit : suit ≠ 0xFFFE) :
    retagWrite s (retagRequest lane page suit) = { s with prot := { s.prot with
      retagSuit := suit, retagLane := lane.val, retagPage := page.val, retagAt := some s.round } } := by
  have hv : fld (retagRequest lane page suit) 31 16 ≠ 0xFFFE := by
    rw [retagRequest_suit]
    exact fun h => hsuit (BitVec.eq_of_toNat_eq h)
  rw [retagWrite_taken hfree hv, retagRequest_suit, retagRequest_lane, retagRequest_page, retagRequest_busy,
    BitVec.ofNat_toNat, BitVec.setWidth_eq, if_pos rfl]

end

/-! ## The region array (R309) -/

section
variable (s : State) (i : Nat) (w : Word)

theorem regionPut_self : sget 0 (regionPut s i w).prot.regions i = regionStore i w := sget_sput_self ..

theorem regionPut_ne {j : Nat} (h : j ≠ i) :
    sget 0 (regionPut s i w).prot.regions j = sget 0 s.prot.regions j := sget_sput_ne _ _ _ h

/-- A word written decides no access of its own round: what stood at the round's start is kept until it ends. -/
theorem regionWord_regionPut (j : Nat) : regionWord (regionPut s i w) j = regionWord s j := by
  by_cases hj : j = i
  · subst hj
    cases hold : sget none s.prot.regPrev j <;> simp [regionWord, regionPut, hold]
  · cases hold : sget none s.prot.regPrev i <;> simp [regionWord, regionPut, hold, sget_sput_ne _ _ _ hj]

/-- The two words of a region of a lane written, as REGION_SET writes them. -/
def regionPair (s : State) (lane : Fin 128) (r : Fin 16) (w0 w1 : Word) : State :=
  regionPut (regionPut s (32 * lane.val + 2 * r.val) w0) (32 * lane.val + 2 * r.val + 1) w1

variable (lane : Fin 128) (r : Fin 16) (w0 w1 : Word)

theorem regionPair_word0 :
    sget 0 (regionPair s lane r w0 w1).prot.regions (32 * lane.val + 2 * r.val) = regionWord0 w0 := by
  rw [regionPair, regionPut_ne _ _ _ (by omega), regionPut_self, regionStore, if_pos (by omega)]

theorem regionPair_word1 :
    sget 0 (regionPair s lane r w0 w1).prot.regions (32 * lane.val + 2 * r.val + 1) = regionWord1 w1 := by
  rw [regionPair, regionPut_self, regionStore, if_neg (by omega)]

theorem regionPair_ne {j : Nat} (h0 : j ≠ 32 * lane.val + 2 * r.val) (h1 : j ≠ 32 * lane.val + 2 * r.val + 1) :
    sget 0 (regionPair s lane r w0 w1).prot.regions j = sget 0 s.prot.regions j := by
  rw [regionPair, regionPut_ne _ _ _ h1, regionPut_ne _ _ _ h0]

theorem regionWord_regionPair (j : Nat) : regionWord (regionPair s lane r w0 w1) j = regionWord s j := by
  rw [regionPair, regionWord_regionPut, regionWord_regionPut]

theorem regionPair_frame : { regionPair s lane r w0 w1 with prot := s.prot } = s := rfl

end

/-! ## Requests of lane kernels (R281, R329, R390) -/

section
variable {s : State} {lane : Fin 128} {c : Instr} {act : State → State}

/-- An interrupt made pending changes its core's IRQ_PEND alone. -/
theorem getLane_lanePend (s : State) (l b : Nat) : getLane (lanePend s l b) l =
    { getLane s l with core := { (getLane s l).core with irqPend := setBit (getLane s l).core.irqPend b true } } :=
  getLane_modLane ..

@[simp] theorem lanePend_house (s : State) (l b : Nat) : (lanePend s l b).house = s.house := rfl

@[simp] theorem rd_lanePend (s : State) (l b a : Nat) : rd (lanePend s l b) a = rd s a := rfl
@[simp] theorem getIrq_lanePend (s : State) (l b k : Nat) : getIrq (lanePend s l b) k = getIrq s k := rfl

/-- A request that is served: its effect, and then HOUSE_REQ back to the lane kernel that made it. -/
theorem exec_order_served {P : State → Prop} (hserves : houseUp s = true ∧ s.aon.freeze = false)
    (hc : exec c s = .next (order s lane.val act)) (hP : P (lanePend (act s) lane.val pendHouse)) :
    ∃ t, exec c s = .next t ∧ bit (getCore t (.lane lane)).irqPend 2 = true ∧ P t := by
  have ho : order s lane.val act = lanePend (act s) lane.val pendHouse := by simp [order, hserves]
  refine ⟨_, ho ▸ hc, ?_, hP⟩
  simp only [getCore, getLane_lanePend]
  exact bit_setBit_self _ 2 (by decide)

/-- A request that is not served: nothing happens. -/
theorem exec_order_unserved (hserves : ¬(houseUp s = true ∧ s.aon.freeze = false))
    (hc : exec c s = .next (order s lane.val act)) : exec c s = .next s := by
  have ho : order s lane.val act = s := if_neg (by simpa using hserves)
  rw [hc, ho]

end

/-- Play RAM written again leaves every byte below it. -/
theorem rd_reloadPlay (s : State) (l : Nat) {a : Nat} (h : a < laneBase l + 0xA000) : rd (reloadPlay s l) a = rd s a := by
  simp only [reloadPlay, rd, modLane_mem]
  exact (rd_store ..).trans (if_neg fun hin => Nat.not_le.2 h hin.1)

theorem getLane_reloadPlay (s : State) (l : Nat) :
    getLane (reloadPlay s l) l = { getLane s l with playFault := false } := by
  simp only [reloadPlay, getLane_modLane]
  simp only [getLane, store_lanes]

/-! ## The requests by what they order -/

section
variable (s : State) (lane : Fin 128)

theorem exec_ready : exec (.ready lane) s = .next (order s lane.val fun t => modLane t lane.val fun ln =>
    if ln.core.stopped then ln else { ln with fault := false }) := rfl

theorem exec_retag (page : Fin 16) (suit : BitVec 16) : exec (.retag lane page suit) s =
    .next (order s lane.val fun t => retagWrite t (retagRequest lane page suit)) := rfl

theorem exec_regionSet (r : Fin 16) (w0 w1 : Word) : exec (.regionSet lane r w0 w1) s =
    .next (order s lane.val fun t => regionPair t lane r w0 w1) := rfl

theorem exec_ptReload : exec (.ptReload lane) s = .next (order s lane.val fun t => reloadPlay t lane.val) := rfl

theorem exec_note (w : BitVec 16) : exec (.note lane w) s = .next (order s lane.val fun t =>
    raiseAll { t with house := { t.house with msg := mkWord (2 ^ 24 * lane.val + w.toNat) } } 22) := rfl

end

/-- Settles O48: a sheet and a restart by their own rules, every request through what serving one does. -/
theorem houseOrders : Obligations.HouseOrders := by
  unfold Obligations.HouseOrders
  intro s lane page r suit w w0 w1 v
  refine ⟨fun hup => ⟨fun q rest hq => ?sheet, fun hstop hq => execLaneRestart_starts hup hstop hq,
      fun hfree hv => ?write, fun h => ?discard⟩,
    fun hserves => ⟨exec_order_served hserves (exec_ready s lane) ⟨?ready, rfl⟩,
      fun hfree hsuit => exec_order_served hserves (exec_retag s lane page suit) ?retag,
      fun h => exec_order_served hserves (exec_retag s lane page suit) ?refused,
      exec_order_served hserves (exec_regionSet s lane r w0 w1) ?region,
      exec_order_served hserves (exec_ptReload s lane) ?play,
      exec_order_served hserves (exec_note s lane w) ?note⟩,
    fun hdown => ⟨execScoreSheet_down hdown, ?restartDown, ?writeDown⟩,
    fun hserves => ⟨exec_order_unserved hserves (exec_ready s lane),
      exec_order_unserved hserves (exec_retag s lane page suit),
      exec_order_unserved hserves (exec_regionSet s lane r w0 w1), exec_order_unserved hserves (exec_ptReload s lane),
      exec_order_unserved hserves (exec_note s lane w)⟩⟩
  case sheet =>
    refine ⟨_, execScoreSheet_oldest hup hq, ?_, ?_, ?_, fun a => ?_, fun pl hpl => ?_⟩
    · rw [writeSheet_house]
    · rw [writeSheet_house]
    · rw [writeSheet_house]
    · simp only [rd_writeSheet, rd_store]
      rfl
    · exact writeSheet_raises (pfs_congr rfl ▸ hpl)
  case write =>
    exact congrArg Host.Outcome.next ((if_pos hup).trans (retagWrite_taken hfree hv))
  case discard =>
    exact congrArg Host.Outcome.next ((if_pos hup).trans (retagWrite_discarded h))
  case ready =>
    rw [getLane_lanePend, getLane_modLane]
    cases hstop : (getLane s lane.val).core.stopped <;> simp
  case retag =>
    rw [retagWrite_request lane page suit hfree hsuit]
    exact ⟨rfl, rfl⟩
  case refused =>
    rw [retagWrite_discarded]
    · rfl
    · rw [retagRequest_suit]
      exact h.imp_right fun h => congrArg BitVec.toNat h
  case region =>
    refine ⟨?_, ?_, fun i h0 h1 => ?_, fun i => ?_, ?_⟩
    · exact regionPair_word0 ..
    · exact regionPair_word1 ..
    · exact regionPair_ne _ _ _ _ _ h0 h1
    · exact regionWord_regionPair ..
    · exact congrArg (fun t : State => { t with lanes := s.lanes }) (regionPair_frame s lane r w0 w1)
  case play =>
    refine ⟨?_, fun a ha => ?_, ?_⟩
    · rw [getLane_lanePend, getLane_reloadPlay]
    · rw [rd_lanePend, rd_reloadPlay s lane.val ha]
    · simp [lanePend, reloadPlay]
  case note =>
    refine ⟨?_, fun pl hpl => ?_⟩
    · rw [lanePend_house, raiseAll_house]
    · rw [getIrq_lanePend]
      exact raiseAll_on_of_power (by decide) rfl hpl
  case restartDown => exact if_neg (by simp [hdown])
  case writeDown => exact congrArg Host.Outcome.next (if_neg (by simp [hdown]))

end Sys2Proof.Machine
end

section
/-!
PROOFS. One step of the block: the front command, the canonical form, the fuses; and memory by its reads.
-/
namespace Sys2Proof.Machine

/-! ## The front command -/

section
variable {s t : State}

/-- A step idles on an empty queue, or runs the command at its front (00_scope, log entry 11). -/
theorem step_next (h : step s = .next t) :
    t = s ∨ ∃ c rest, s.pending = c :: rest ∧ exec c { s with pending := rest } = .next t := by
  unfold step at h
  split at h
  · cases h
    exact .inl rfl
  next c rest hp => exact .inr ⟨c, rest, hp, h⟩

/-- What every command that goes on keeps of fuses, memory and tables: a round boundary keeps it too. -/
theorem exec_keeps {c : Instr} (h : exec c s = .next t) :
    FuseLe s.fuses t.fuses ∧ (Memory.wf s.mem → Memory.wf t.mem) ∧ (Tables s → Tables t) := by
  obtain ⟨u, hu, hk⟩ := exec_next c s
  cases hu.symm.trans h
  rcases hk with hk | ⟨-, hk⟩
  · exact ⟨hk.fuses, hk.mem, hk.tables⟩
  · exact ⟨hk.fuses, hk.mem, fun w => hk.tables ⟨w.irq, w.seats, w.lanes, w.records, w.engines, w.slots⟩⟩

/-- What every step keeps of fuses, memory and tables. -/
theorem step_keeps (h : step s = .next t) :
    FuseLe s.fuses t.fuses ∧ (Memory.wf s.mem → Memory.wf t.mem) ∧ (Tables s → Tables t) := by
  rcases step_next h with rfl | ⟨c, rest, -, hc⟩
  · exact ⟨.refl _, id, id⟩
  · obtain ⟨hf, hm, ht⟩ := exec_keeps hc
    exact ⟨hf, hm, fun w => ht ⟨w.irq, w.seats, w.lanes, w.records, w.engines, w.slots⟩⟩

end

/-- Settles O1: by the definition of a step. -/
theorem stepRunsFrontCommand : Obligations.StepRunsFrontCommand := by
  unfold Obligations.StepRunsFrontCommand
  refine ⟨fun c rest s => rfl, fun s hs => ?_⟩
  unfold step
  rw [hs]

/-- Settles O2: exec_next names the next state, and every operation keeps the queue. -/
theorem everyCommandGoesOn : Obligations.EveryCommandGoesOn := by
  unfold Obligations.EveryCommandGoesOn
  intro c s
  obtain ⟨t, ht, hk⟩ := exec_next c s
  refine ⟨t, ht, ?_⟩
  rcases hk with hk | ⟨-, hk⟩
  · exact hk.pending
  · exact hk.pending

/-! ## The canonical form (R389) and the fuses (R386, R388) -/

/-- Settles O3: every step keeps the form of memory and of the tables, and the fuses' order keeps the bound. -/
theorem canonicalKept : Obligations.CanonicalKept := by
  unfold Obligations.CanonicalKept
  intro s t hs h
  obtain ⟨hf, hm, ht⟩ := step_keeps h
  exact ⟨hm hs.mem, ht hs.tables, hf.top hs.svn⟩

/-- Settles O4: memory and every table are empty at reset, and the SVN count is 0. -/
theorem canonicalAtReset : Obligations.CanonicalAtReset := by
  unfold Obligations.CanonicalAtReset
  exact ⟨rfl, ⟨rfl, rfl, rfl, rfl, rfl, rfl⟩, Nat.zero_le _⟩

/-- Settles O5: the order every step keeps between the fuses before it and after it. -/
theorem fusesMoveOneWay : Obligations.FusesMoveOneWay := by
  unfold Obligations.FusesMoveOneWay
  intro s t h
  obtain ⟨hf, -, -⟩ := step_keeps h
  obtain ⟨hdie, htrim, hvdm⟩ := hf.made
  exact ⟨hf.lc, hf.svn, hf.owner, hdie, htrim, hvdm⟩

/-! ## Memory by its reads (R389) -/

section
variable {α : Type} [DecidableEq α] {d : α} {m n : SMap α}

/-- The entries of a canonical table are the keys that do not read as its default. -/
theorem mem_iff_sget (h : swf d m = true) (e : Nat × α) : e ∈ m ↔ e.2 ≠ d ∧ sget d m e.1 = e.2 := by
  rw [swf_iff] at h
  obtain ⟨hne, hlt⟩ := h
  induction m with
  | nil => simp [sget, eq_comm]
  | cons f m ih =>
    obtain ⟨hhead, htail⟩ := List.pairwise_cons.1 hlt
    have hm := ih (fun e he => hne e (by simp [he])) htail
    obtain ⟨k, v⟩ := e
    obtain ⟨a, w⟩ := f
    have hw : w ≠ d := hne (a, w) (by simp)
    by_cases hk : a = k
    · subst hk
      have hnot : (a, v) ∉ m := fun he => absurd (hhead _ he) (by simp)
      simp only [List.mem_cons, hnot, or_false, Prod.mk.injEq, true_and, sget, if_true]
      exact ⟨fun hv => ⟨hv ▸ hw, hv.symm⟩, fun hv => hv.2.symm⟩
    · have hk' : ¬k = a := fun h => hk h.symm
      simp only [List.mem_cons, Prod.mk.injEq, hk', false_and, false_or, sget, hk, if_false]
      exact hm

/-- Canonical tables with equal reads are equal. -/
theorem swf_ext (hm : swf d m = true) (hn : swf d n = true) (h : ∀ k, sget d m k = sget d n k) : m = n := by
  have hsorted {l : SMap α} (hl : swf d l = true) : l.Pairwise (fun e e' => e.1 < e'.1) := ((swf_iff d l).1 hl).2
  have hnodup {l : SMap α} (hl : swf d l = true) : l.Nodup :=
    (hsorted hl).imp fun hlt heq => absurd hlt (by simp [heq])
  have hperm : m.Perm n := (List.perm_ext_iff_of_nodup (hnodup hm) (hnodup hn)).2 fun e => by
    rw [mem_iff_sget hm, mem_iff_sget hn, h]
  exact hperm.eq_of_pairwise (fun a b _ _ hab hba => absurd hab (Nat.lt_asymm hba)) (hsorted hm) (hsorted hn)

end

/-- Settles O8: rd_store says what a store leaves, and a canonical memory is the table of its reads. -/
theorem memoryReadsStores : Obligations.MemoryReadsStores := by
  unfold Obligations.MemoryReadsStores
  refine ⟨fun s a b x => ?_, fun s t hs ht h => swf_ext hs ht h⟩
  rw [rd_store]
  by_cases hx : a ≤ x ∧ x - a < b.length
  · rw [dif_pos hx, if_pos ⟨hx.1, by omega⟩, List.getD_eq_getElem]
  · rw [dif_neg hx, if_neg (by omega)]

end Sys2Proof.Machine
end

section
/-!
PROOFS. The sideband and the test access port.
-/
namespace Sys2Proof.Machine

section
variable {s : State}

/-! ## Sideband messages (R391, R392) -/

/-- While it is served a message acts; otherwise nothing happens. -/
theorem sideband_up (h : sidebandUp s = true) (f : State → State) : sideband s f = .next (f s) := by
  simp [sideband, h]

theorem sideband_down (h : sidebandUp s = false) (f : State → State) : sideband s f = .next s := by
  simp [sideband, h]

theorem flashHeld_iff : flashHeld s = true ↔ 3 ≤ s.power.phase ∧ s.power.phase ≤ 6 := by
  simp [flashHeld]

theorem mem_sideBlocks {b : Nat} : sideBlocks.contains b = true ↔ b ∈ [0x00, 0x01, 0x0B, 0x0F, 0x11, 0x13] :=
  List.contains_iff_mem

/-- Bytes written to the flash: memory reads them, and the error logic and the answer apart nothing changes. -/
theorem reply_store (a : Nat) (b : Bytes) :
    (reply (store s a b) .none).answer = .none
    ∧ (∀ x, rd (reply (store s a b) .none) x = rd (store s a b) x)
    ∧ { reply (store s a b) .none with mem := s.mem, prot := s.prot, answer := s.answer } = s :=
  ⟨rfl, fun _ => rfl, rfl⟩

/-- An erased sector reads as ones. -/
theorem rd_store_ones (a n x : Nat) : rd (store s a (List.replicate n 0xFF)) x =
    if a ≤ x ∧ x < a + n then 0xFF else rd s x := by
  rw [rd_store, List.length_replicate]
  split
  next h => rw [List.getD_eq_getElem _ _ (by rw [List.length_replicate]; omega), List.getElem_replicate]
  · rfl

/-- The answers that hang on a number alone. -/
theorem execReadLog_served (h : sidebandUp s = true) (k : Nat) : execReadLog k s =
    .next (reply s (if k < 64 then .bytes (logBytes (sget none s.aon.log k)) else .error)) := sideband_up h _

theorem execReadScore_served (h : sidebandUp s = true) (k : Nat) : execReadScore k s =
    .next (reply s (if k < 16 then .bytes (rdN s (sheetAddr k) 256) else .error)) := sideband_up h _

theorem execGetMctpVersionSupport_served (h : sidebandUp s = true) (m : Byte) : execGetMctpVersionSupport m s =
    .next (reply s (if m = 0 ∨ m = 0x7E then .bytes (Config.mctpAnswer 4 m.toNat) else .error)) := sideband_up h _

theorem execReadReg_served (h : sidebandUp s = true) {off : Nat}
    (hb : off / 0x10000 ∈ [0x00, 0x01, 0x0B, 0x0F, 0x11, 0x13]) : execReadReg off s = .next (barRead s func0 off 4) :=
  (sideband_up h _).trans (congrArg _ (if_pos (mem_sideBlocks.2 hb)))

theorem execReadReg_elsewhere (h : sidebandUp s = true) {off : Nat}
    (hb : off / 0x10000 ∉ [0x00, 0x01, 0x0B, 0x0F, 0x11, 0x13]) : execReadReg off s = .next (reply s .error) :=
  (sideband_up h _).trans (congrArg _ (if_neg (mt mem_sideBlocks.1 hb)))

theorem execFlashErase_erases (h : sidebandUp s = true) {k : Nat} (hp : ¬(3 ≤ s.power.phase ∧ s.power.phase ≤ 6))
    (hk : k < 4096) : execFlashErase k s =
      .next (reply (store s (flashBase + 65536 * k) (List.replicate 65536 0xFF)) .none) := by
  refine (sideband_up h _).trans (congrArg _ (if_neg ?_))
  rw [Bool.or_eq_true, flashHeld_iff, decide_eq_true_eq]
  omega

theorem execFlashErase_refused (h : sidebandUp s = true) {k : Nat}
    (hb : (3 ≤ s.power.phase ∧ s.power.phase ≤ 6) ∨ 4096 ≤ k) : execFlashErase k s = .next (reply s .error) := by
  refine (sideband_up h _).trans (congrArg _ (if_pos ?_))
  rwa [Bool.or_eq_true, flashHeld_iff, decide_eq_true_eq]

/-- What makes the device refuse a FLASH_WRITE (R392). -/
theorem execFlashWrite_eq (h : sidebandUp s = true) (a : Nat) (b : Bytes) : execFlashWrite a b s = .next
    (if (3 ≤ s.power.phase ∧ s.power.phase ≤ 6) ∨ b.length = 0 ∨ 256 < a % 256 + b.length ∨ 0x10000000 ≤ a
      then reply s .error else reply (store s (flashBase + a) b) .none) := by
  refine (sideband_up h _).trans (congrArg _ (if_congr ?_ rfl rfl))
  simp only [Bool.or_eq_true, flashHeld_iff, decide_eq_true_eq, or_assoc]

theorem execSetEndpointId_taken (h : sidebandUp s = true) {e : Byte} (h0 : e ≠ 0) (h1 : e ≠ 0xFF) :
    execSetEndpointId e s = .next { s with power := { s.power with eid := e }, answer := .bytes [e] } :=
  (sideband_up h _).trans (congrArg _ (if_neg (not_or.2 ⟨h0, h1⟩)))

theorem execSetEndpointId_refused (h : sidebandUp s = true) {e : Byte} (he : e = 0 ∨ e = 0xFF) :
    execSetEndpointId e s = .next (reply s .error) :=
  (sideband_up h _).trans (congrArg _ (if_pos he))

/-! ## The test access port (R387) -/

theorem tapOk_debug : tapOk s 4 = true ↔ s.fuses.lc = .blank ∨ s.fuses.lc = .provisioned := by
  simp [tapOk, debugOn]

theorem tapOk_extest : tapOk s 3 = true ↔ s.fuses.lc ≠ .sealed ∨ liveHands s = 0 := by
  simp [tapOk]

/-- An available instruction is loaded and answers. -/
theorem tapLoad_taken (hm : s.power.main = true) {n : Nat} (ht : tapOk s n = true) (f : State → State) :
    tapLoad s n f = .next (f { s with power := { s.power with tap := BitVec.ofNat 8 n } }) := by
  simp [tapLoad, hm, ht]

/-- One that is not available decodes as BYPASS. -/
theorem tapLoad_bypass (hm : s.power.main = true) {n : Nat} (ht : ¬tapOk s n = true) (f : State → State) :
    tapLoad s n f = .next { s with power := { s.power with tap := 0 }, answer := .bytes [0] } := by
  simp [tapLoad, hm, ht]

/-- Without main power the port is dead. -/
theorem tapLoad_dead (hm : s.power.main = false) (n : Nat) (f : State → State) : tapLoad s n f = .next s := by
  simp [tapLoad, hm]

end

/-- Settles O50: every message by its rule while the sideband is served, every instruction by what tapLoad does. -/
theorem sidebandAndTestPort : Obligations.SidebandAndTestPort := by
  unfold Obligations.SidebandAndTestPort
  refine ⟨fun s off k v e m data => ⟨fun h => ?served, fun h => ?unserved⟩, fun s pins => ⟨fun hm => ?powered, fun hm => ?dead⟩⟩
  case served =>
    refine ⟨(sideband_up h _ : execGetStatus s = _), execReadReg_served h, execReadReg_elsewhere h, fun hk => ?_,
      fun hk => ?_, fun hk => ?_, fun hk => ?_, (sideband_up h _ : execSetPower v s = _), fun hp hk => ?_,
      execFlashErase_refused h, fun hp h0 hpage ha => ?_, fun hb => ?_, execSetEndpointId_taken h,
      execSetEndpointId_refused h, (sideband_up h _ : execGetEndpointId s = _), fun hm => ?_, fun h0 h1 => ?_,
      (sideband_up h _ : execGetMessageTypeSupport s = _),
      (sideband_up h _ : execGetVendorDefinedMessageSupport s = _)⟩
    · exact (execReadLog_served h k).trans (by rw [if_pos hk]; rfl)
    · exact (execReadLog_served h k).trans (by rw [if_neg (Nat.not_lt.2 hk)]; rfl)
    · exact (execReadScore_served h k).trans (by rw [if_pos hk]; rfl)
    · exact (execReadScore_served h k).trans (by rw [if_neg (Nat.not_lt.2 hk)]; rfl)
    · obtain ⟨hans, hrd, hrest⟩ := reply_store (s := s) (flashBase + 65536 * k) (List.replicate 65536 0xFF)
      refine ⟨_, execFlashErase_erases h hp hk, hans, fun a => ?_, hrest⟩
      rw [hrd, rd_store_ones]
      exact if_congr (by omega) rfl rfl
    · obtain ⟨hans, hrd, hrest⟩ := reply_store (s := s) (flashBase + off) data
      exact ⟨_, (execFlashWrite_eq h off data).trans (congrArg _ (if_neg (by omega))), hans, hrd, hrest⟩
    · exact (execFlashWrite_eq h off data).trans (congrArg _ (if_pos hb))
    · exact ⟨_, (execGetMctpVersionSupport_served h m).trans (by rw [if_pos hm]; rfl)⟩
    · exact (execGetMctpVersionSupport_served h m).trans (by rw [if_neg (not_or.2 ⟨h0, h1⟩)]; rfl)
  case unserved =>
    have hdown := sideband_down h
    exact ⟨(hdown _ : execGetStatus s = _), (hdown _ : execReadReg off s = _), (hdown _ : execReadLog k s = _),
      (hdown _ : execReadScore k s = _), (hdown _ : execSetPower v s = _), (hdown _ : execFlashErase k s = _),
      (hdown _ : execFlashWrite off data s = _), (hdown _ : execSetEndpointId e s = _),
      (hdown _ : execGetEndpointId s = _), (hdown _ : execGetMctpVersionSupport m s = _),
      (hdown _ : execGetMessageTypeSupport s = _), (hdown _ : execGetVendorDefinedMessageSupport s = _)⟩
  case powered =>
    refine ⟨(tapLoad_taken hm rfl _ : execBypass s = _), (tapLoad_taken hm rfl _ : execIdcode s = _),
      ⟨_, (tapLoad_taken hm rfl _ : execSamplePreload pins s = _)⟩,
      fun hx => ⟨_, (tapLoad_taken hm (tapOk_extest.2 hx) _ : execExtest s = _)⟩,
      fun hl hh => (tapLoad_bypass hm ?_ _ : execExtest s = _),
      fun hd => (tapLoad_taken hm (tapOk_debug.2 hd) _ : execDebug s = _),
      fun hd => (tapLoad_bypass hm ?_ _ : execDebug s = _)⟩
    · rw [tapOk_extest]
      exact not_or.2 ⟨not_not.2 hl, hh⟩
    · rw [tapOk_debug]
      rcases hd with hd | hd <;> simp [hd]
  case dead =>
    simp only [List.forall_mem_cons, List.not_mem_nil, false_implies, implies_true, and_true]
    exact ⟨(tapLoad_dead hm _ _ : execBypass s = _), (tapLoad_dead hm _ _ : execIdcode s = _),
      (tapLoad_dead hm _ _ : execSamplePreload pins s = _), (tapLoad_dead hm _ _ : execExtest s = _),
      (tapLoad_dead hm _ _ : execDebug s = _)⟩

end Sys2Proof.Machine
end

section
/-!
PROOFS. The slots' shared operations: one slot moves, the end of a session, and a slot that is cut off or faults.
-/
namespace Sys2Proof.Machine

/-! ## One slot moves -/

section
variable {s t : State} {n : Nat} {x : Slot}

theorem SlotMoved.refl (s : State) (n : Nat) : SlotMoved s s n (getSlot s n) := ⟨rfl, fun _ _ => rfl, rfl⟩

theorem SlotMoved.round (h : SlotMoved s t n x) : t.round = s.round := (congrArg State.round h.2.2 :)
theorem SlotMoved.power (h : SlotMoved s t n x) : t.power = s.power := (congrArg State.power h.2.2 :)
theorem SlotMoved.quorum (h : SlotMoved s t n x) : t.quorum = s.quorum := (congrArg State.quorum h.2.2 :)

/-- One move after another. -/
theorem SlotMoved.trans {u : State} {y : Slot} (h : SlotMoved s t n x) (h' : SlotMoved t u n y) : SlotMoved s u n y := by
  obtain ⟨-, hne, hrest⟩ := h
  obtain ⟨hy, hne', hrest'⟩ := h'
  refine ⟨hy, fun k hk => (hne' k hk).trans (hne k hk), ?_⟩
  have hu := congrArg (fun v : State => { v with slots := s.slots, irq := s.irq, link := s.link }) hrest'
  exact hu.trans hrest

/-- The slot changes once more. -/
theorem SlotMoved.mod (h : SlotMoved s t n x) (f : Slot → Slot) : SlotMoved s (modSlot t n f) n (f x) := by
  obtain ⟨hx, hne, hrest⟩ := h
  exact ⟨by rw [getSlot_modSlot, hx], fun k hk => (getSlot_modSlot_ne t f hk).trans (hne k hk), hrest⟩

/-- A device-wide cause is raised. -/
theorem SlotMoved.raise (h : SlotMoved s t n x) (b : Nat) : SlotMoved s (raiseAll t b) n x := by
  rw [raiseAll_eq]
  exact h

theorem SlotMoved.event (h : SlotMoved s t n x) : SlotMoved s (slotEvent t) n x := h.raise 23

theorem SlotMoved.err (h : SlotMoved s t n x) (e : Byte) : SlotMoved s (slotErr t n e) n { x with lastErr := e } :=
  (h.mod _).event

theorem slotMoved_modSlot (s : State) (n : Nat) (f : Slot → Slot) : SlotMoved s (modSlot s n f) n (f (getSlot s n)) :=
  (SlotMoved.refl s n).mod f

theorem SlotMoved.cfg_eq (h : SlotMoved s t n x) (hc : x.cfg = (getSlot s n).cfg) : slotCfg t n = slotCfg s n := by
  rw [slotCfg, h.1, h.round, hc, slotCfg]

theorem SlotMoved.class_eq (h : SlotMoved s t n x) (hc : x.cfg = (getSlot s n).cfg) (c : Nat) :
    nextClass t n c = nextClass s n c := by
  simp only [nextClass, classOn, h.cfg_eq hc]

/-- A command goes to the slot's token (R353). -/
theorem SlotMoved.sent (h : SlotMoved s t n x) (step : SlotStep) (cmd : Nat) (arg : Bytes) :
    SlotMoved s (sendToken t n step cmd arg) n { x with
      step := step, sent := ryenoFrame x.addr.toNat cmd arg, lastCmd := s.round, resends := 0, reps := 0 } := by
  rw [← h.round]
  exact h.mod _

/-- The slot is powered at a class (R349). -/
theorem SlotMoved.powered (h : SlotMoved s t n x) (c : Nat) (probe : Bool) :
    SlotMoved s (powerSlot t n c probe) n { slotOff x .probing with
      cls := BitVec.ofNat 2 c, noPps := x.noPps, lastCmd := s.round
      step := if probe && decide (c ≤ 2) then .opcond 0 else .coldReset } := by
  rw [← h.round]
  exact h.mod _

end

/-! ## The end of a quorum session (R370) -/

section
variable (s : State) (e : QuorumEnd)

/-- The house operation aborted leaves what no decided status changes. -/
theorem abortHouse_same {α : Type} (p : State → α)
    (hp : ∀ (t : State) i seq st d r house, p (decide_ t i seq st d r house) = p t) (q : Flight → Bool) (st : Status)
    (d : BitVec 16) (r : Round) : p (abortHouse s q st d r) = p s := by
  refine foldl_same p _ (fun t _ => foldl_same p _ (fun u _ => ?_) _ _) _ _
  split
  · exact hp ..
  · rfl

/-- The state of a session that has ended, before what it tells the rest of the device. -/
def sessionClosed : State :=
  { modSlot (modSlot s 0 leaveSession) 1 leaveSession with
    quorum := { s.quorum with st := .idle, ended := e, m := 0, comps := [] } }

theorem sessionClosed_eq : sessionClosed s e =
    { s with slots := (sessionClosed s e).slots, quorum := (sessionClosed s e).quorum } := by
  simp only [sessionClosed, modSlot, setSlot]

theorem endSession_of_idle (h : s.quorum.st = .idle) : endSession s e = s := if_pos h

theorem endSession_of_session (h : s.quorum.st ≠ .idle) :
    endSession s e = raiseAll (abortHouse (sessionClosed s e) (fun g => isCeremony g.desc.op) .aborted 0 s.round) 23 :=
  if_neg h

/-- Parts that neither slots, session, interrupts nor decided statuses touch. -/
theorem endSession_same {α : Type} (p : State → α)
    (hp : ∀ (t : State) i seq st d r house, p (decide_ t i seq st d r house) = p t)
    (hq : ∀ (t : State) m q i k, p { t with slots := m, quorum := q, irq := i, link := k } = p t) :
    p (endSession s e) = p s := by
  by_cases h : s.quorum.st = .idle
  · rw [endSession_of_idle s e h]
  · rw [endSession_of_session s e h, raiseAll_eq]
    refine (hq _ _ _ _ _).trans ((abortHouse_same _ p hp ..).trans ?_)
    rw [sessionClosed_eq]
    exact hq s _ _ s.irq s.link

theorem endSession_power : (endSession s e).power = s.power :=
  endSession_same s e _ (fun _ _ _ _ _ _ _ => decide__power ..) (fun _ _ _ _ _ => rfl)

theorem endSession_ready : (endSession s e).keys.ready = s.keys.ready := by
  refine endSession_same s e (·.keys.ready) (fun t i seq st d r house => ?_) (fun _ _ _ _ _ => rfl)
  obtain ⟨m, k, he⟩ := decide_eq t i seq st d r house
  rw [he]
  split <;> rfl

theorem endSession_quorum (h : s.quorum.st ≠ .idle) :
    (endSession s e).quorum = { s.quorum with st := .idle, ended := e, m := 0, comps := [] } := by
  rw [endSession_of_session s e h, raiseAll_quorum]
  exact abortHouse_same _ State.quorum (fun _ _ _ _ _ _ _ => decide__quorum ..) ..

/-- A credential stands, or leaves the session. -/
theorem getSlot_endSession (n : Nat) :
    getSlot (endSession s e) n = getSlot s n ∨ getSlot (endSession s e) n = leaveSession (getSlot s n) := by
  by_cases h : s.quorum.st = .idle
  · rw [endSession_of_idle s e h]
    exact .inl rfl
  · have hslots : (endSession s e).slots = (sessionClosed s e).slots := by
      rw [endSession_of_session s e h, raiseAll_slots]
      exact abortHouse_same _ State.slots (fun _ _ _ _ _ _ _ => decide__slots ..) ..
    have hslot : getSlot (endSession s e) n = getSlot (modSlot (modSlot s 0 leaveSession) 1 leaveSession) n :=
      congrArg (fun m => sget Slot.reset m n) hslots
    rw [hslot]
    by_cases h1 : n = 1
    · subst h1
      rw [getSlot_modSlot, getSlot_modSlot_ne s _ (by decide)]
      exact .inr rfl
    · rw [getSlot_modSlot_ne _ _ h1]
      by_cases h0 : n = 0
      · subst h0
        exact .inr (getSlot_modSlot ..)
      · exact .inl (getSlot_modSlot_ne _ _ h0)

theorem raiseAll_cause (b k c : Nat) (h : bit (getIrq s k).status c = true) :
    bit (getIrq (raiseAll s b) k).status c = true := foldl_raise_keeps b k c _ s h

/-- A cause stands through the end of a session. -/
theorem endSession_cause (k c : Nat) (h : bit (getIrq s k).status c = true) :
    bit (getIrq (endSession s e) k).status c = true := by
  by_cases hi : s.quorum.st = .idle
  · rwa [endSession_of_idle s e hi]
  · rw [endSession_of_session s e hi]
    refine raiseAll_cause _ _ _ _ ?_
    have hirq := abortHouse_same (sessionClosed s e) State.irq (fun _ _ _ _ _ _ _ => decide__irq ..)
      (fun g => isCeremony g.desc.op) .aborted 0 s.round
    rw [getIrq, hirq, sessionClosed_eq]
    exact h

end

/-! ## A slot cut off, and a slot that faults (R348, R362) -/

/-- A write under way, of a use count or of an erase. -/
abbrev Writing (x : Slot) : Prop := x.step = .writeUse ∨ x.step = .erase

/-- LAST_ERR of a write cut off: indeterminate once its data phase is over. -/
def cutErr (s : State) (x : Slot) : Byte := if dataSent s x = true then 0x08 else 0x09

/-- A slot without supply keeps nothing of what leaving a session changes. -/
theorem slotOff_leaveSession (x : Slot) (st : SlotSt) : slotOff (leaveSession x) st = slotOff x st := rfl

section
variable (s : State) (n : Nat)

theorem slotOff_endSession (e : QuorumEnd) (st : SlotSt) :
    slotOff (getSlot (endSession s e) n) st = slotOff (getSlot s n) st := by
  rcases getSlot_endSession s e n with h | h
  · rw [h]
  · rw [h, slotOff_leaveSession]

theorem slotErr_moved (e : Byte) : SlotMoved s (slotErr s n e) n { getSlot s n with lastErr := e } :=
  (SlotMoved.refl s n).err e

theorem slotErr_raised (e : Byte) : ∀ pl ∈ pfs s, bit (getIrq (slotErr s n e) pl).status 23 = true :=
  fun _ hpl => raiseAll_on_of_power (by decide) rfl hpl

theorem slotErr_cause (e : Byte) (k c : Nat) (h : bit (getIrq s k).status c = true) :
    bit (getIrq (slotErr s n e) k).status c = true :=
  raiseAll_cause (modSlot s n fun x => { x with lastErr := e }) 23 k c h

theorem slotCut_still (h : ¬Writing (getSlot s n)) : slotCut s n = s := if_neg h

variable {s n} in
theorem slotCut_writing (h : Writing (getSlot s n)) : slotCut s n =
    if dataSent s (getSlot s n) then endSession (slotErr s n errWriteIndet) .indeterminate
    else slotErr s n errNotWritten := if_pos h

variable {s n} in
/-- A write cut off leaves its outcome in LAST_ERR. -/
theorem slotOff_slotCut (h : Writing (getSlot s n)) (st : SlotSt) : slotOff (getSlot (slotCut s n) n) st =
    { slotOff (getSlot s n) st with lastErr := cutErr s (getSlot s n) } := by
  rw [slotCut_writing h, cutErr]
  split
  · rw [slotOff_endSession, (slotErr_moved s n _).1]
    rfl
  · rw [(slotErr_moved s n _).1]
    rfl

theorem slotCut_power : (slotCut s n).power = s.power := by
  unfold slotCut
  dsimp only
  (repeat' split)
  · rw [endSession_power, (slotErr_moved s n _).power]
  · exact (slotErr_moved s n _).power
  · rfl

theorem slotCut_cause (k c : Nat) (h : bit (getIrq s k).status c = true) :
    bit (getIrq (slotCut s n) k).status c = true := by
  unfold slotCut
  dsimp only
  (repeat' split)
  · exact endSession_cause _ _ _ _ (slotErr_cause s n _ k c h)
  · exact slotErr_cause s n _ k c h
  · exact h

/-- The session ends where the outcome of a write is indeterminate. -/
theorem slotCut_session : (slotCut s n).quorum.st =
    if Writing (getSlot s n) ∧ dataSent s (getSlot s n) = true then .idle else s.quorum.st := by
  by_cases h : Writing (getSlot s n)
  · rw [slotCut_writing h]
    by_cases hd : dataSent s (getSlot s n) = true
    · rw [if_pos hd, if_pos ⟨h, hd⟩, endSession_idle]
    · rw [if_neg hd, if_neg (fun hx => hd hx.2), (slotErr_moved s n _).quorum]
  · rw [slotCut_still s n h, if_neg (fun hx => h hx.1)]

/-- LAST_ERR does not tell whether the data phase is over. -/
theorem dataSent_slotErr (e : Byte) :
    dataSent (slotErr s n e) (getSlot (slotErr s n e) n) = dataSent s (getSlot s n) := by
  rw [(slotErr_moved s n e).1, dataSent, (slotErr_moved s n e).round]
  rfl

/-- Everything a slot's fault leaves of the slot. -/
theorem getSlot_slotFault (e : Byte) : getSlot (slotFault s n e) n = faulted s (getSlot s n) e := by
  unfold slotFault
  rw [getSlot_modSlot]
  have hm := slotErr_moved s n e
  have hx := hm.1
  by_cases h : Writing (getSlot s n)
  · have hw : Writing (getSlot (slotErr s n e) n) := by rw [hx]; exact h
    rw [slotOff_slotCut hw, cutErr, dataSent_slotErr, hx, faulted, if_pos h]
    rfl
  · have hw : ¬Writing (getSlot (slotErr s n e) n) := by rw [hx]; exact h
    rw [slotCut_still _ _ hw, hx, faulted, if_neg h]
    rfl

/-- A slot deactivated with an error (R356): its fault, and SLOT_EVENT. -/
theorem slotFault_faults (e : Byte) : SlotFaults s (slotFault s n e) n e := by
  refine ⟨getSlot_slotFault s n e, fun pl hpl => ?_⟩
  rw [slotFault, getIrq, modSlot_irq]
  exact slotCut_cause _ _ _ _ (slotErr_raised s n e pl hpl)

/-- A fault in which the outcome of a write is indeterminate ends the session (R362, R373). -/
theorem slotFault_quorum (h : Writing (getSlot s n)) (hd : dataSent s (getSlot s n) = true) (e : Byte) :
    (slotFault s n e).quorum.st = .idle
    ∧ (s.quorum.st ≠ .idle → (slotFault s n e).quorum.ended = .indeterminate) := by
  have hw : Writing (getSlot (slotErr s n e) n) := by rw [(slotErr_moved s n e).1]; exact h
  have hcut := slotCut_writing hw
  rw [dataSent_slotErr, if_pos hd] at hcut
  rw [slotFault, modSlot_quorum, hcut]
  refine ⟨endSession_idle .., fun hq => ?_⟩
  rw [endSession_quorum]
  rwa [(slotErr_moved ..).quorum, (slotErr_moved ..).quorum]

/-- Without a write under way only the slot changes. -/
theorem slotFault_moved (e : Byte) (h : ¬Writing (getSlot s n)) :
    SlotMoved s (slotFault s n e) n { slotOff (getSlot s n) .fault with lastErr := e } := by
  have hm := slotErr_moved s n e
  have hw : ¬Writing (getSlot (slotErr s n e) n) := by rw [hm.1]; exact h
  unfold slotFault
  rw [slotCut_still _ _ hw]
  exact hm.mod _

end

end Sys2Proof.Machine
end

section
/-!
PROOFS. Insertion, removal and overcurrent of a slot.
-/
namespace Sys2Proof.Machine

section
variable {s t : State} {n : Nat} {x : Slot}

/-- Activation at the first enabled class (R349). -/
theorem SlotMoved.started (h : SlotMoved s t n x) (hc : x.cfg = (getSlot s n).cfg) {c : Nat}
    (hn : nextClass s n 1 = some c) : SlotMoved s (startSlot t n) n { slotOff { x with noPps := false } .probing with
      cls := BitVec.ofNat 2 c, lastCmd := s.round, step := if c ≤ 2 then .opcond 0 else .coldReset } := by
  have hcls := (h.class_eq hc 1).trans hn
  simp only [startSlot, hcls]
  have hstep : (if true && decide (c ≤ 2) then SlotStep.opcond 0 else .coldReset) =
      if c ≤ 2 then .opcond 0 else .coldReset := if_congr (by simp) rfl rfl
  rw [← hstep]
  exact (h.mod fun y => { y with noPps := false }).powered c true

/-- With no class enabled the slot faults. -/
theorem startSlot_noClass (hn : nextClass s n 1 = none) : startSlot s n = slotFault s n errAtr := by
  simp only [startSlot, hn]

/-- A slot's fault without a write under way, after it has moved. -/
theorem SlotMoved.faults (h : SlotMoved s t n x) (hw : ¬Writing x) (e : Byte) :
    SlotMoved s (slotFault t n e) n { slotOff x .fault with lastErr := e } := by
  rw [← h.1] at hw ⊢
  exact h.trans (slotFault_moved t n e hw)

end

section
variable {s : State} {n : Fin 2}

/-- The state with the credential there and SLOT_EVENT raised. -/
def inserted (s : State) (n : Nat) : State := slotEvent (modSlot s n fun y => { y with present := true })

theorem inserted_moved (s : State) (n : Nat) : SlotMoved s (inserted s n) n { getSlot s n with present := true } :=
  (slotMoved_modSlot s n _).event

theorem execSlotInsertion_eq (hp : (getSlot s n.val).present = false) (hm : s.power.main = true) :
    execSlotInsertion n s = .next (if houseUp s && decide ((getSlot s n.val).st = .off)
      then startSlot (inserted s n.val) n.val else inserted s n.val) := by
  simp [execSlotInsertion, hp, hm, inserted]

/-- With house firmware up and the slot OFF an insertion activates it. -/
theorem execSlotInsertion_starts (hp : (getSlot s n.val).present = false) (hm : s.power.main = true)
    (hup : houseUp s = true) (hoff : (getSlot s n.val).st = .off) :
    execSlotInsertion n s = .next (startSlot (inserted s n.val) n.val) := by
  rw [execSlotInsertion_eq hp hm, hup, hoff]
  rfl

/-- The state in which a removal has dealt with the exchange under way (R362). -/
def removalCut (s : State) (n : Nat) : State :=
  if Writing (getSlot s n) then slotCut s n
  else if (getSlot s n).step ≠ .none ∧ (getSlot s n).step ≠ .waitPw then slotErr s n errRemoved else s

/-- LAST_ERR after a removal. -/
def removalErr (s : State) (x : Slot) : Byte :=
  if Writing x then cutErr s x else if x.step ≠ .none ∧ x.step ≠ .waitPw then errRemoved else x.lastErr

theorem execSlotRemoval_eq (hp : (getSlot s n.val).present = true) (hm : s.power.main = true) :
    execSlotRemoval n s = .next (slotEvent (modSlot (removalCut s n.val) n.val fun y =>
      { slotOff y .off with present := false })) := by
  simp [execSlotRemoval, hp, hm, removalCut, Writing]

theorem slotOff_removalCut (s : State) (n : Nat) (st : SlotSt) : slotOff (getSlot (removalCut s n) n) st =
    { slotOff (getSlot s n) st with lastErr := removalErr s (getSlot s n) } := by
  unfold removalCut removalErr
  split
  next hw => exact slotOff_slotCut hw st
  · split
    · rw [(slotErr_moved s n _).1]
      rfl
    · rfl

theorem removalCut_power (s : State) (n : Nat) : (removalCut s n).power = s.power := by
  unfold removalCut
  split
  · exact slotCut_power s n
  · split
    · exact (slotErr_moved s n _).power
    · rfl

theorem removalCut_session (s : State) (n : Nat) : (removalCut s n).quorum.st =
    if Writing (getSlot s n) ∧ dataSent s (getSlot s n) = true then .idle else s.quorum.st := by
  unfold removalCut
  split
  · exact slotCut_session s n
  next hw =>
    have hnot : ¬(Writing (getSlot s n) ∧ dataSent s (getSlot s n) = true) := fun h => hw h.1
    rw [if_neg hnot]
    split
    · rw [(slotErr_moved s n _).quorum]
    · rfl

end

/-- Settles O56: an insertion moves the slot and starts it, a removal cuts off what is under way, an overcurrent is a fault. -/
theorem slotPresence : Obligations.SlotPresence := by
  unfold Obligations.SlotPresence
  intro s n x write
  refine ⟨fun hp hm hd => ?_, fun c hp hm hup hoff hn => ?_, fun hp hm hup hoff hn hw => ?_, fun hp hm => ?_,
    fun h0 h1 => ?_, fun h => if_pos h⟩
  · have hstart : (houseUp s && decide ((getSlot s n.val).st = .off)) = false := by
      rcases hd with hd | hd
      · rw [hd, Bool.false_and]
      · rw [decide_eq_false hd, Bool.and_false]
    refine ⟨_, execSlotInsertion_eq hp hm, ?_⟩
    rw [hstart]
    exact ⟨inserted_moved s n.val, fun pl hpl => raiseAll_on_of_power (by decide) rfl hpl⟩
  · exact ⟨_, execSlotInsertion_starts hp hm hup hoff, (inserted_moved s n.val).started rfl hn⟩
  · refine ⟨_, execSlotInsertion_starts hp hm hup hoff, ?_⟩
    rw [startSlot_noClass (((inserted_moved s n.val).class_eq rfl 1).trans hn)]
    exact (inserted_moved s n.val).faults hw errAtr
  · refine ⟨_, execSlotRemoval_eq hp hm, ?_, ?_, fun pl hpl => raiseAll_on_of_power (by decide) ?_ hpl⟩
    · have he := (((SlotMoved.refl (removalCut s n.val) n.val).mod fun y => { slotOff y .off with present := false }).event).1
      rw [he, slotOff_removalCut]
      rfl
    · exact (congrArg Quorum.st (raiseAll_quorum _ 23)).trans (removalCut_session s n.val)
    · exact removalCut_power s n.val
  · exact ⟨_, if_neg (not_or.2 ⟨h0, h1⟩), slotFault_faults s n.val errOvercurrent⟩

end Sys2Proof.Machine
end

section
/-!
PROOFS. Exchanges with a token.
-/
namespace Sys2Proof.Machine

/-! ## Answers of a token, by the step they answer (R354-R358, R363) -/

section
variable {s : State} {n : Nat} {data : Bytes} {rep : Bool}

theorem tokenAnswer_ident (h : (getSlot s n).step = .ident) (hd : data.length = 12) :
    tokenAnswer s n 0 data rep = identAnswer s n data := by
  simp [tokenAnswer, h, hd]

theorem tokenAnswer_setaddr (h : (getSlot s n).step = .setaddr) : tokenAnswer s n 0 data rep =
    sendSetbus (modSlot s n fun y => { y with addr := BitVec.ofNat 8 (0x40 + n) }) n
      (min (fld (slotCfg s n) 13 12) (getSlot s n).tokClk) := by
  simp [tokenAnswer, h]

theorem tokenAnswer_toSleep (h : (getSlot s n).step = .toSleep) : tokenAnswer s n 0 data rep =
    modSlot s n fun y => { y with st := .sleep, step := .none } := by
  simp [tokenAnswer, h]

theorem tokenAnswer_tune {p : Nat} (h : (getSlot s n).step = .tune p) (stat : Nat) : tokenAnswer s n stat data rep =
    tunePhase s n p (decide (stat = 0) && data == tunePattern && !rep) := by
  simp [tokenAnswer, h]

/-- The next phase is tuned (R357). -/
theorem SlotMoved.tuned {t : State} {x : Slot} (h : SlotMoved s t n x) {p : Nat} (hp : p < 15) (ok : Bool) :
    SlotMoved s (tunePhase t n p ok) n { x with
      pass := setBit x.pass p ok, phase := p + 1, step := .tune (p + 1), sent := ryenoFrame x.addr.toNat 0x05 []
      lastCmd := s.round, resends := 0, reps := 0 } := by
  rw [tunePhase, if_pos hp]
  exact ((h.mod _).mod _).sent ..

/-- A response missed after a probe's polls is asked for again, twice at most and never of a command sent once (R356). -/
theorem tokenMiss_eq (hp : ∀ j, (getSlot s n).step ≠ .opcond j) : tokenMiss s n =
    if (getSlot s n).resends < 2 ∧ sentOnce (getSlot s n) = false then
      modSlot s n fun y => { y with resends := y.resends + 1, lastCmd := s.round, reps := 0 }
    else slotFault s n errNoResponse := by
  cases hs : (getSlot s n).step with
  | opcond j => exact absurd hs (hp j)
  | _ => simp [tokenMiss, hs]

end

/-! ## Events of an exchange -/

section
variable {s : State} {n : Fin 2} {b : Bytes} {rep : Bool}

/-- The slot with no character repeated. -/
def noReps (s : State) (n : Nat) : State := modSlot s n fun y => { y with reps := 0 }

theorem noReps_moved (s : State) (n : Nat) : SlotMoved s (noReps s n) n { getSlot s n with reps := 0 } :=
  slotMoved_modSlot s n _

theorem getSlot_noReps (s : State) (n : Nat) : getSlot (noReps s n) n = { getSlot s n with reps := 0 } := (noReps_moved s n).1

/-- The repetitions of a character do not show in a fault. -/
theorem noReps_faults {n : Nat} (hw : ¬Writing (getSlot s n)) (e : Byte) :
    SlotFaults s (slotFault (noReps s n) n e) n e := by
  obtain ⟨hx, hirq⟩ := slotFault_faults (noReps s n) n e
  refine ⟨?_, fun pl hpl => hirq pl (pfs_congr (noReps_moved s n).power ▸ hpl)⟩
  rw [hx, getSlot_noReps, faulted, faulted, if_neg hw, if_neg hw]
  rfl

/-- A whole response with STAT 0 is acted on. -/
theorem execRyenoResponse_whole (hup : houseUp s = true) (ha : awaitsToken (getSlot s n.val) = true)
    (hf : frameOk (getSlot s n.val) b = true) (hs : (byteAt b 1).toNat = 0) : execRyenoResponse n b rep s =
      .next (tokenAnswer (noReps s n.val) n.val 0 (slice b 4 (leField b 2 2)) rep) := by
  have h1 : ¬byteAt b 1 = 1#8 := by
    intro h
    rw [h] at hs
    cases hs
  simp [execRyenoResponse, hup, ha, hf, h1, hs, noReps]

/-- Under TUNE a response passes its phase when it is whole, with STAT 0, the pattern, and no character repeated. -/
theorem execRyenoResponse_tune {p : Nat} (hup : houseUp s = true) (hst : (getSlot s n.val).step = .tune p) :
    execRyenoResponse n b rep s = .next (tunePhase (noReps s n.val) n.val p
      (frameOk (getSlot s n.val) b && decide ((byteAt b 1).toNat = 0) && slice b 4 (leField b 2 2) == tunePattern && !rep)) := by
  have ha : awaitsToken (getSlot s n.val) = true := by simp [awaitsToken, hst]
  have htune : (getSlot (noReps s n.val) n.val).step = .tune p := by rw [getSlot_noReps]; exact hst
  cases hf : frameOk (getSlot s n.val) b with
  | false => simp [execRyenoResponse, hup, ha, hf, hst, noReps]
  | true =>
    by_cases h1 : byteAt b 1 = 1
    · simp [execRyenoResponse, hup, ha, hf, hst, h1, noReps]
    · have hw := tokenAnswer_tune (data := slice b 4 (leField b 2 2)) (rep := rep) htune (byteAt b 1).toNat
      simp only [execRyenoResponse, hup, ha, hf, bne_iff_ne, ne_eq, h1, not_false_eq_true, Bool.and_self, if_true,
        Bool.true_and, ← hw]
      rfl

theorem execOpcond_due {k : Nat} (hup : houseUp s = true) (hst : (getSlot s n.val).step = .opcond k)
    (hd : (getSlot s n.val).lastCmd + (if k = 0 ∧ (getSlot s n.val).waking = false then 37500 else 25000) ≤ s.round) :
    execOpcond n s = .next (if 1000 ≤ k then slotFault s n.val errNoResponse
      else sendToken s n.val (.opcond (k + 1)) 0x01 [0x03]) := by
  simp only [execOpcond, hst, hup, hd, decide_true, Bool.and_self, if_true]
  split <;> rfl

theorem execResponseTimeout_missed (hup : houseUp s = true) (ha : awaitsToken (getSlot s n.val) = true)
    (hd : (getSlot s n.val).lastCmd + responseRounds (getSlot s n.val) ≤ s.round) :
    execResponseTimeout n s = .next (tokenMiss (noReps s n.val) n.val) := by
  simp [execResponseTimeout, hup, ha, hd, noReps]

end

/-- Settles O57: each event by its rule, and the slot by the moves it makes. -/
theorem tokenExchanges : Obligations.TokenExchanges := by
  unfold Obligations.TokenExchanges
  intro s n b rep k x stat data hup
  have hquiet := noReps_moved s n.val
  refine ⟨fun hst hd hk => ?poll, fun hst hd hk => ?noPoll, fun hst hf hs hl => ?ident, fun hst hf hs => ?setaddr,
    fun hst hf hs => ?sleep, fun p hst hp hf => ?tuneFails, fun p hst hp hf hs hd hr => ?tunePasses,
    fun ha hd hst hr ho => ?again, fun ha hd hst hr hu he => ?never, fun hk hst hd => ?busy, fun h0 h1 hr => ?rep,
    fun h0 h1 hr => ?reps, fun hst hk hi hm hd => ?timer⟩
  case poll =>
    refine ⟨_, (execOpcond_due hup hst hd).trans (congrArg _ (if_neg (Nat.not_le.2 hk))), ?_⟩
    exact (SlotMoved.refl s n.val).sent ..
  case noPoll =>
    exact ⟨_, (execOpcond_due hup hst hd).trans (congrArg _ (if_pos hk)), slotFault_faults s n.val _⟩
  case ident =>
    have ha : awaitsToken (getSlot s n.val) = true := by simp [awaitsToken, show (getSlot s n.val).step = _ from hst]
    have hstep : (getSlot (noReps s n.val) n.val).step = .ident := by rw [hquiet.1]; exact hst
    refine ⟨_, execRyenoResponse_whole hup ha hf hs, ?_⟩
    rw [tokenAnswer_ident hstep hl, identAnswer]
    exact (hquiet.mod _).sent ..
  case setaddr =>
    have ha : awaitsToken (getSlot s n.val) = true := by simp [awaitsToken, show (getSlot s n.val).step = _ from hst]
    have hstep : (getSlot (noReps s n.val) n.val).step = .setaddr := by rw [hquiet.1]; exact hst
    have haddr : ryenoFrame (0x40 + n.val) = ryenoFrame (BitVec.ofNat 8 (0x40 + n.val)).toNat := by
      rw [BitVec.toNat_ofNat, Nat.mod_eq_of_lt (by omega)]
    refine ⟨_, execRyenoResponse_whole hup ha hf hs, ?_⟩
    rw [tokenAnswer_setaddr hstep, hquiet.cfg_eq rfl, hquiet.1, sendSetbus, (hquiet.mod _).1, haddr]
    exact (hquiet.mod _).sent ..
  case sleep =>
    have ha : awaitsToken (getSlot s n.val) = true := by simp [awaitsToken, show (getSlot s n.val).step = _ from hst]
    have hstep : (getSlot (noReps s n.val) n.val).step = .toSleep := by rw [hquiet.1]; exact hst
    refine ⟨_, execRyenoResponse_whole hup ha hf hs, ?_⟩
    rw [tokenAnswer_toSleep hstep]
    exact hquiet.mod _
  case tuneFails =>
    refine ⟨_, execRyenoResponse_tune hup hst, ?_⟩
    have hok : (frameOk (getSlot s n.val) b && decide ((byteAt b 1).toNat = 0) && slice b 4 (leField b 2 2) == tunePattern
        && !rep) = false := by
      rcases hf with hf | hf | hf | hf
      · simp [show frameOk (getSlot s n.val) b = false from hf]
      · simp [show (byteAt b 1).toNat ≠ 0 from hf]
      · simp [show slice b 4 (leField b 2 2) ≠ tunePattern from hf]
      · simp [hf]
    rw [hok]
    exact hquiet.tuned hp false
  case tunePasses =>
    refine ⟨_, execRyenoResponse_tune hup hst, ?_⟩
    have hok : (frameOk (getSlot s n.val) b && decide ((byteAt b 1).toNat = 0) && slice b 4 (leField b 2 2) == tunePattern
        && !rep) = true := by
      simp [show frameOk (getSlot s n.val) b = true from hf, show (byteAt b 1).toNat = 0 from hs,
        show slice b 4 (leField b 2 2) = tunePattern from hd, hr]
    rw [hok]
    exact hquiet.tuned hp true
  case again =>
    refine ⟨_, execResponseTimeout_missed hup ha hd, ?_⟩
    have hmiss := tokenMiss_eq (s := noReps s n.val) (n := n.val) (by rw [hquiet.1]; exact hst)
    rw [hmiss, if_pos (by rw [hquiet.1]; exact ⟨hr, ho⟩), ← hquiet.round]
    exact hquiet.mod _
  case never =>
    refine ⟨_, execResponseTimeout_missed hup ha hd, ?_⟩
    have hmiss := tokenMiss_eq (s := noReps s n.val) (n := n.val) (by rw [hquiet.1]; exact hst)
    rw [hmiss, if_neg]
    · exact noReps_faults (not_or.2 ⟨hu, he⟩) _
    · rw [hquiet.1]
      rintro ⟨hlt, ho⟩
      rcases hr with hr | hr
      · exact absurd hlt (Nat.not_lt.2 hr)
      · exact Bool.false_ne_true (ho.symm.trans hr)
  case busy =>
    have hsent : dataSent s (getSlot s n.val) = true := by
      have hk2 : (getSlot s n.val).kind ≠ 2 := by
        rw [show (getSlot s n.val).kind = 1 from hk]
        decide
      rw [dataSent, if_neg hk2, decide_eq_true_eq]
      exact Nat.lt_of_le_of_lt (Nat.le_add_right _ _) hd
    refine ⟨_, if_pos ?_, slotFault_faults s n.val _, slotFault_quorum s n.val hst hsent _⟩
    simpa [hup, show (getSlot s n.val).kind = 1 from hk, show Writing (getSlot s n.val) from hst] using hd
  case rep =>
    exact ⟨_, (if_neg (by simp [h0, h1, x])).trans (if_neg (Nat.not_le.2 hr)), slotMoved_modSlot s n.val _⟩
  case reps =>
    exact ⟨_, (if_neg (by simp [h0, h1, x])).trans (if_pos hr), slotFault_faults s n.val _⟩
  case timer =>
    refine ⟨_, if_pos ?_, (SlotMoved.refl s n.val).sent ..⟩
    simp [hup, hst, hk, hi, hm, hd, x]

end Sys2Proof.Machine
end

section
/-!
PROOFS. Exchanges with a card.
-/
namespace Sys2Proof.Machine

section
variable {s t : State} {n : Nat} {x : Slot}

/-! ## Shared operations of a slot with a card (R366, R367) -/

/-- With no session a slot that becomes READY stays idle. -/
theorem SlotMoved.readied (h : SlotMoved s t n x) (hq : s.quorum.st = .idle) :
    SlotMoved s (slotReady t n) n { x with st := .ready, step := .none, waking := false } := by
  have hm := h.mod fun x => { x with st := .ready, step := .none, waking := false }
  have hstart : slotReady t n = modSlot t n fun x => { x with st := .ready, step := .none, waking := false } :=
    if_pos (.inl ((congrArg Quorum.st hm.quorum).trans hq))
  rw [hstart]
  exact hm

/-- A slot powered for a card alone. -/
theorem SlotMoved.cardPowered (h : SlotMoved s t n x) (c : Nat) : SlotMoved s (powerSlot t n c false) n
    { slotOff x .probing with cls := BitVec.ofNat 2 c, noPps := x.noPps, lastCmd := s.round, step := .coldReset } :=
  h.powered c false

/-- A failed PPS: the card is reset once more, without it. -/
theorem ppsFail_moved (s : State) (n : Nat) : SlotMoved s (ppsFail s n) n
    { slotOff { getSlot s n with noPps := true } .probing with
      cls := (getSlot s n).cls, lastCmd := s.round, step := .coldReset } := by
  have h := (slotMoved_modSlot s n fun x => { x with noPps := true }).cardPowered (getSlot s n).cls.toNat
  rw [BitVec.ofNat_toNat, BitVec.setWidth_eq] at h
  exact h

theorem nextCardClass_next {c : Nat} (h : nextClass s n ((getSlot s n).cls.toNat + 1) = some c) :
    nextCardClass s n = powerSlot s n c false := by
  simp only [nextCardClass, h]

theorem nextCardClass_none (h : nextClass s n ((getSlot s n).cls.toNat + 1) = none) :
    nextCardClass s n = slotFault s n errAtr := by
  simp only [nextCardClass, h]

/-- An answer to reset without TA1 and TA2 asks for the default pair. -/
theorem takePair_default {a : AtrInfo} (h1 : a.ta1 = none) (h2 : a.ta2 = none) : takePair s n a = slotReady s n := by
  simp [takePair, h1, h2]

end

/-! ## Answers to reset and PPS -/

section
variable {s : State} {n : Fin 2} {b : Bytes}

/-- A slot whose card has been reset. -/
abbrev CardReset (x : Slot) : Prop := x.step = .coldReset ∨ x.step = .warmReset

theorem execAtr_coldInvalid (hup : houseUp s = true) (hst : (getSlot s n.val).step = .coldReset)
    (hv : (parseAtr b).valid = false) : execAtr n b s =
      .next (modSlot s n.val fun y => { y with step := .warmReset, lastCmd := s.round }) := by
  simp [execAtr, hup, hst, hv]

theorem execAtr_warmInvalid (hup : houseUp s = true) (hst : (getSlot s n.val).step = .warmReset)
    (hv : (parseAtr b).valid = false) : execAtr n b s = .next (slotFault s n.val errAtr) := by
  simp [execAtr, hup, hst, hv]

theorem execAtr_withoutT0 (hup : houseUp s = true) (hst : CardReset (getSlot s n.val))
    (hv : (parseAtr b).valid = true) (ht : (parseAtr b).t0 = false) :
    execAtr n b s = .next (slotFault s n.val errAtr) := by
  rcases hst with hst | hst <;> simp [execAtr, hup, hst, hv, ht]

theorem execAtr_default (hup : houseUp s = true) (hst : CardReset (getSlot s n.val))
    (hv : (parseAtr b).valid = true) (ht : (parseAtr b).t0 = true) (h1 : (parseAtr b).ta1 = none)
    (h2 : (parseAtr b).ta2 = none) (hc : (parseAtr b).cls = none) : execAtr n b s =
      .next (slotReady (modSlot s n.val fun y => cardTimes y (parseAtr b)) n.val) := by
  rw [← takePair_default h1 h2]
  rcases hst with hst | hst <;> simp [execAtr, hup, hst, hv, ht, h2, hc]

theorem execAtrTimeout_due (hup : houseUp s = true) (hst : CardReset (getSlot s n.val))
    (hd : (getSlot s n.val).lastCmd + (if (getSlot s n.val).step = .coldReset then 500000 else 250000) ≤ s.round) :
    execAtrTimeout n s = .next (nextCardClass s n.val) := by
  rcases hst with hst | hst <;> simp [hst] at hd <;> simp [execAtrTimeout, hup, hst, hd]

theorem execPpsResponse_echoed (hup : houseUp s = true) (hst : (getSlot s n.val).step = .pps)
    (h1 : byteAt b 1 = byteAt (getSlot s n.val).sent 1) (h2 : byteAt b 2 = byteAt (getSlot s n.val).sent 2) :
    execPpsResponse n b s = .next (slotReady (modSlot s n.val fun y => { y with
      fi := fiOf (fld (byteAt (getSlot s n.val).sent 2) 7 4), di := diOf (fld (byteAt (getSlot s n.val).sent 2) 3 0) })
      n.val) := by
  simp [execPpsResponse, hup, hst, h1, h2]

theorem execPpsResponse_failed (hup : houseUp s = true) (hst : (getSlot s n.val).step = .pps)
    (h : byteAt b 1 ≠ byteAt (getSlot s n.val).sent 1 ∨ byteAt b 2 ≠ byteAt (getSlot s n.val).sent 2) :
    execPpsResponse n b s = .next (ppsFail s n.val) := by
  have hne : (byteAt b 1 == byteAt (getSlot s n.val).sent 1 && byteAt b 2 == byteAt (getSlot s n.val).sent 2) = false := by
    rcases h with h | h <;> simp [h]
  simp [execPpsResponse, hup, hst, hne]

/-! ## Status words and the waiting time (R365, R368) -/

variable {sw : BitVec 16}

theorem execCardResponse_61 (hup : houseUp s = true) (ha : awaitsCard (getSlot s n.val) = true)
    (hs : fld sw 15 8 = 0x61) : execCardResponse n b sw s = .next (modSlot s n.val fun y => { y with
      got := y.got ++ b, sent := [0x00, 0xC0, 0x00, 0x00, BitVec.ofNat 8 (fld sw 7 0)], lastCmd := s.round, wait := s.round
      reps := 0 }) := by
  simp [execCardResponse, hup, ha, hs]

theorem execCardResponse_6C (hup : houseUp s = true) (ha : awaitsCard (getSlot s n.val) = true)
    (hs : fld sw 15 8 = 0x6C) : execCardResponse n b sw s = .next (modSlot s n.val fun y => { y with
      sent := y.sent.take 4 ++ [BitVec.ofNat 8 (fld sw 7 0)], lastCmd := s.round, wait := s.round, reps := 0 }) := by
  simp [execCardResponse, hup, ha, hs]

/-- Any other status word ends the card's answer. -/
theorem execCardResponse_ends (hup : houseUp s = true) (ha : awaitsCard (getSlot s n.val) = true)
    (h61 : fld sw 15 8 ≠ 0x61) (h6C : fld sw 15 8 ≠ 0x6C) : execCardResponse n b sw s =
      .next (cardAnswer s n.val ((getSlot s n.val).got ++ b) (decide (sw = 0x9000)) sw) := by
  simp [execCardResponse, hup, ha, h61, h6C]

/-- A blocked card waits for its session to go on without it (R368). -/
theorem cardAnswer_blocked {n : Nat} (hst : (getSlot s n).step = .verify) (hon : sessionOn s n = true) :
    cardAnswer s n b false 0x6983 =
      slotErr (modSlot s n fun x => { x with step := .waitPw, st := .ready }) n errBlocked := by
  simp [cardAnswer, hst, hon]

theorem step_ne_pps {x : Slot} (h : awaitsCard x = true) : x.step ≠ .pps := by
  intro hst
  simp [awaitsCard, hst] at h

theorem execWaitingTimeExpiry_expired (hup : houseUp s = true) (ha : awaitsCard (getSlot s n.val) = true)
    (hd : (getSlot s n.val).wait + wwtRounds (getSlot s n.val) ≤ s.round) :
    execWaitingTimeExpiry n s = .next (slotFault s n.val errNoResponse) := by
  simp [execWaitingTimeExpiry, hup, ha, hd, step_ne_pps ha]

end

/-- Settles O58: each event by its rule, and the slot by the moves it makes. -/
theorem cardExchanges : Obligations.CardExchanges := by
  unfold Obligations.CardExchanges
  intro s n b sw x a reset lo hup
  have hhere := SlotMoved.refl s n.val
  refine ⟨fun hst hv => ⟨_, execAtr_coldInvalid hup hst hv, hhere.mod _⟩, fun h => ⟨_, ?atr, slotFault_faults s n.val _⟩,
    fun hst hv ht h1 h2 hc hq => ⟨_, execAtr_default hup hst hv ht h1 h2 hc, ?ready⟩, fun c hst hd hn => ?next,
    fun hst hd hn => ?last, fun hst h1 h2 hq => ⟨_, execPpsResponse_echoed hup hst h1 h2, (hhere.mod _).readied hq⟩,
    fun hst h => ⟨_, execPpsResponse_failed hup hst h, ppsFail_moved s n.val⟩,
    fun ha hs => ⟨_, execCardResponse_61 hup ha hs, hhere.mod _⟩,
    fun ha hs => ⟨_, execCardResponse_6C hup ha hs, hhere.mod _⟩, fun hst hs hon => ?blocked,
    fun ha hd => ⟨_, execWaitingTimeExpiry_expired hup ha hd, slotFault_faults s n.val _⟩, fun ha => if_pos ha⟩
  case atr =>
    rcases h with ⟨hst, hv⟩ | ⟨hst, hv, ht⟩
    · exact execAtr_warmInvalid hup hst hv
    · exact execAtr_withoutT0 hup hst hv ht
  case ready =>
    exact (hhere.mod fun y => cardTimes y a).readied hq
  case next =>
    refine ⟨_, execAtrTimeout_due hup hst hd, ?_⟩
    rw [nextCardClass_next hn]
    exact hhere.cardPowered c
  case last =>
    refine ⟨_, execAtrTimeout_due hup hst hd, ?_⟩
    rw [nextCardClass_none hn]
    exact slotFault_faults s n.val _
  case blocked =>
    subst hs
    have ha : awaitsCard (getSlot s n.val) = true := by simp [awaitsCard, show (getSlot s n.val).step = _ from hst]
    refine ⟨_, execCardResponse_ends hup ha (by decide) (by decide), ?_⟩
    rw [show decide ((0x6983 : BitVec 16) = 0x9000) = false from rfl, cardAnswer_blocked hst hon]
    exact (hhere.mod _).err _

end Sys2Proof.Machine
end

section
/-!
PROOFS. SLOT registers and quorum sessions.
-/
namespace Sys2Proof.Machine

/-! ## SLOT_CTRL (R374) -/

section
variable {s : State} {f : Func}

/-- The word that asks for one action of slot n: 0 DEACTIVATE, 1 ERASE_TOKEN, 2 ACTIVATE. -/
def ctrlWord (n : Fin 2) (k : Fin 3) : Word := mkWord (2 ^ k.val * 256 ^ n.val)

theorem ctrlWord_bits : ∀ (n m : Fin 2) (k : Fin 3),
    bit (ctrlWord n k) (8 * m.val) = decide (m = n ∧ k = 0) ∧ bit (ctrlWord n k) (8 * m.val + 1) = decide (m = n ∧ k = 1)
      ∧ bit (ctrlWord n k) (8 * m.val + 2) = decide (m = n ∧ k = 2) := by decide

/-- One action of slot n leaves the other slot. -/
theorem slotCtrl_other {n m : Fin 2} (h : m ≠ n) (k : Fin 3) : slotCtrl s f m.val (ctrlWord n k) = s := by
  obtain ⟨h0, h1, h2⟩ := ctrlWord_bits n m k
  simp [slotCtrl, h0, h1, h2, h]

theorem slotCtrl_deactivate (n : Fin 2) : slotCtrl s f n.val (ctrlWord n 0) = deactivateSlot s n.val := by
  obtain ⟨h0, h1, h2⟩ := ctrlWord_bits n n 0
  simp [slotCtrl, h0, h1, h2]

theorem slotCtrl_erase (n : Fin 2) : slotCtrl s f n.val (ctrlWord n 1) = eraseToken s f n.val := by
  obtain ⟨h0, h1, h2⟩ := ctrlWord_bits n n 1
  simp [slotCtrl, h0, h1, h2]

theorem slotCtrl_activate (n : Fin 2) : slotCtrl s f n.val (ctrlWord n 2) = activateSlot s n.val := by
  obtain ⟨h0, h1, h2⟩ := ctrlWord_bits n n 2
  simp [slotCtrl, h0, h1, h2]

theorem applySlotWrite_ctrl (n : Fin 2) (k : Fin 3) :
    applySlotWrite s (f, 0x30, ctrlWord n k) = slotCtrl s f n.val (ctrlWord n k) := by
  have hboth : applySlotWrite s (f, 0x30, ctrlWord n k) =
      slotCtrl (slotCtrl s f (0 : Fin 2).val (ctrlWord n k)) f (1 : Fin 2).val (ctrlWord n k) := rfl
  rw [hboth]
  match n with
  | 0 => rw [slotCtrl_other (n := 0) (m := 1) (by decide)]
  | 1 => rw [slotCtrl_other (n := 1) (m := 0) (by decide)]

theorem deactivateSlot_moved {n : Nat} (hp : (getSlot s n).present = true) (hoff : (getSlot s n).st ≠ .off)
    (hw : ¬Writing (getSlot s n)) : SlotMoved s (deactivateSlot s n) n (slotOff (getSlot s n) .off) := by
  have he : deactivateSlot s n = modSlot s n fun y => slotOff y .off := by
    simp [deactivateSlot, hp, hoff, slotCut_still s n hw]
  rw [he]
  exact slotMoved_modSlot s n _

theorem activateSlot_moved {n c : Nat} (hp : (getSlot s n).present = true) (hst : (getSlot s n).st = .fault)
    (hn : nextClass s n 1 = some c) : SlotMoved s (activateSlot s n) n
      { slotOff { getSlot s n with noPps := false } .probing with
        cls := BitVec.ofNat 2 c, lastCmd := s.round, step := if c ≤ 2 then .opcond 0 else .coldReset } := by
  have he : activateSlot s n = startSlot s n := by simp [activateSlot, hp, hst]
  rw [he]
  exact (SlotMoved.refl s n).started rfl hn

theorem eraseToken_moved {n : Nat} (hq : s.quorum.st = .idle) (hk : (getSlot s n).kind = 1)
    (hst : (getSlot s n).st = .ready) (hstep : (getSlot s n).step = .none) : SlotMoved s (eraseToken s f n) n
      { getSlot s n with
        st := .busy, step := .erase, sent := ryenoFrame (getSlot s n).addr.toNat 0x23 [], lastCmd := s.round
        resends := 0, reps := 0 } := by
  have he : eraseToken s f n = sendBusy s n .erase 0x23 [] := by simp [eraseToken, hq, hk, hst, hstep]
  rw [he, sendBusy]
  exact (slotMoved_modSlot s n _).sent ..

end

/-! ## What the authentication of a credential leaves of the session (R371) -/

section
variable (s : State) (n : Nat)

@[simp] theorem slotErr_quorum (e : Byte) : (slotErr s n e).quorum = s.quorum := (slotErr_moved s n e).quorum
@[simp] theorem sendBusy_quorum (step : SlotStep) (cmd : Nat) (arg : Bytes) :
    (sendBusy s n step cmd arg).quorum = s.quorum := rfl
@[simp] theorem sendCard_quorum (step : SlotStep) (b : Bytes) : (sendCard s n step b).quorum = s.quorum := rfl
@[simp] theorem wakeSlot_quorum : (wakeSlot s n).quorum = s.quorum := rfl

@[simp] theorem afterUnlock_quorum : (afterUnlock s n).quorum = s.quorum := by
  unfold afterUnlock
  split <;> rfl

@[simp] theorem takePw_quorum : (takePw s n).quorum = s.quorum := rfl

@[simp] theorem tryUnlock_quorum : (tryUnlock s n).quorum = s.quorum := by
  unfold tryUnlock
  dsimp only
  (repeat' split) <;> simp

@[simp] theorem selectFrom_quorum (k : Nat) : (selectFrom s n k).quorum = s.quorum := by
  unfold selectFrom
  split
  · rfl
  · exact slotErr_quorum ..

@[simp] theorem authStart_quorum : (authStart s n).quorum = s.quorum := by
  unfold authStart
  dsimp only
  (repeat' split) <;> simp [withEntry]

@[simp] theorem challengeTurn_quorum : (challengeTurn s n).quorum = s.quorum := by
  unfold challengeTurn
  (repeat' split) <;> rfl

end

/-! ## SLOT_QCTRL and the session (R370, R373) -/

section
variable {s : State} {f : Func}

theorem openWord_bits : ∀ m : BitVec 4, bit (mkWord (0x80000000 + m.toNat)) 30 = false
    ∧ bit (mkWord (0x80000000 + m.toNat)) 31 = true ∧ fld (mkWord (0x80000000 + m.toNat)) 3 0 = m.toNat := by decide

/-- OPEN with a legal M starts a session for its function. -/
theorem quorumCtrl_opens {m : BitVec 4} (hq : s.quorum.st = .idle) (h2 : 2 ≤ m.toNat) (hu : m.toNat ≤ rosterUsed s) :
    (quorumCtrl s f (mkWord (0x80000000 + m.toNat))).quorum = { s.quorum with
      st := .gather, m := m.toNat, func := f, mask := 0, comps := [], inForce := s.quorum.limit.at_ s.round, timer := 0 } := by
  obtain ⟨h30, h31, hm⟩ := openWord_bits m
  have hgo : ∀ (t : State) (n : Nat),
      (if (getSlot t n).st = .sleep then wakeSlot t n else authStart t n).quorum = t.quorum := by
    intro t n
    split <;> simp
  simp only [quorumCtrl, h30, h31, hm, hq, h2, hu, Bool.false_and, Bool.false_eq_true, if_false, if_true, and_self, hgo]
  exact raiseAll_quorum ..

/-- CLOSE without OPEN ends the session of its own function and reports any other. -/
theorem quorumCtrl_close {v : Word} (h30 : bit v 30 = true) (h31 : bit v 31 = false) (hq : s.quorum.st ≠ .idle) :
    quorumCtrl s f v = if f = s.quorum.func then endSession s .closed else regErr s f (slotBase + 0x40) := by
  by_cases hf : f = s.quorum.func <;> simp [quorumCtrl, h30, h31, hq, hf]

theorem applySlotWrite_close (hq : s.quorum.st ≠ .idle) : applySlotWrite s (f, 0x40, 0x40000000) =
    if f = s.quorum.func then endSession s .closed else regErr s f (slotBase + 0x40) :=
  have h30 : bit (0x40000000 : Word) 30 = true := by decide
  have h31 : bit (0x40000000 : Word) 31 = false := by decide
  quorumCtrl_close h30 h31 hq

/-- At a boundary without writes a session opens once its custodians are counted. -/
theorem slotTurn_session (hw : s.quorum.writes = []) (hg : s.quorum.st = .gather) :
    (slotTurn s).quorum.st = if s.quorum.m ≤ heldCustodians s then .open_ else .gather := by
  simp only [slotTurn, challengeTurn_quorum, hw, List.foldl_nil, hg, true_and]
  change (if s.quorum.m ≤ heldCustodians s then _ else _ : State).quorum.st = _
  split
  · exact congrArg Quorum.st (raiseAll_quorum ..)
  · rfl

/-- A password of a length that is not legal is ignored (R374). -/
theorem pwCtrl_ignored {n : Nat} {v : Word} (hv : fld v 31 31 = 1) (hl : fld v 5 0 < 8 ∨ 32 < fld v 5 0) :
    pwCtrl s n v = s := by
  have hb : bit v 31 = true := by
    rw [bit, BitVec.getLsbD, Nat.testBit_eq_decide_div_mod_eq, decide_eq_true_eq]
    exact hv
  have hnot : ¬(8 ≤ fld v 5 0 ∧ fld v 5 0 ≤ 32) := by omega
  simp only [pwCtrl, hb, hnot, if_true, if_false]

/-- The last status word of a card counts its custodian (R371). -/
theorem countCustodian_counts {n : Nat} (hon : sessionOn s n = true) (hr : (getSlot s n).roster.toNat < 15)
    (hm : bit s.quorum.mask (getSlot s n).roster.toNat = false) : countCustodian s n =
      { slotIdle s n with quorum := { s.quorum with
        mask := setBit s.quorum.mask (getSlot s n).roster.toNat true
        comps := match (getSlot s n).comp with
          | some c => if s.quorum.comps.length < 9 then s.quorum.comps ++ [c] else s.quorum.comps
          | none => s.quorum.comps } } := by
  simp only [countCustodian, hon, hr, hm, decide_true, Bool.not_false, Bool.and_self, if_true]
  rfl

end

/-- The end of a session is an event of the slots (R364). -/
theorem endSession_raised (s : State) (e : QuorumEnd) (hq : s.quorum.st ≠ .idle) :
    ∀ pl ∈ pfs s, bit (getIrq (endSession s e) pl).status 23 = true := by
  intro pl hpl
  rw [endSession_of_session s e hq]
  refine raiseAll_on_of_power (by decide) ?_ hpl
  rw [abortHouse_same _ State.power (fun _ _ _ _ _ _ _ => decide__power ..), sessionClosed_eq]

/-- A challenge takes two blocks of the shoe (R371). -/
theorem execChallengeDraw_draws {s : State} {n : Fin 2} (hup : houseUp s = true)
    (hst : (getSlot s n.val).step = .challenge) (hsh : shoeHas s 2 = true) :
    ∃ t, execChallengeDraw n s = .next t ∧ t.rng.resv = s.rng.resv + 2 ∧ t.rng.shoe = s.rng.shoe.drop 2
      ∧ getSlot t n.val =
        { getSlot s n.val with step := .drawing s.round, chal := blockBytes (s.rng.shoe.take 2) }
      ∧ { t with rng := s.rng, slots := s.slots } = s := by
  rw [shoeHas, Bool.and_eq_true, decide_eq_true_eq, decide_eq_true_eq] at hsh
  obtain ⟨hlen, hrun⟩ := hsh
  have hgo : execChallengeDraw n s = .next (modSlot (shoeReserve s 2) n.val fun x =>
      { x with step := .drawing s.round, chal := blockBytes (nextBlocks s 2) }) := by
    simp [execChallengeDraw, hup, hst, houseHas_of_shoe hrun hlen, houseRoom_enough hlen]
  exact ⟨_, hgo, rfl, rfl, getSlot_modSlot .., rfl⟩

/-- The session written back over a slot that moved. -/
theorem SlotMoved.requorum {s t : State} {n : Nat} {x : Slot} (h : SlotMoved s t n x) (q : Quorum) :
    SlotMoved s { { t with quorum := q } with quorum := s.quorum } n x := by
  obtain ⟨hx, hne, hrest⟩ := h
  exact ⟨hx, hne, (congrArg (fun u : State => { u with quorum := s.quorum }) hrest :)⟩

theorem cardAnswer_written {s : State} {n : Nat} {b : Bytes} {sw : BitVec 16} (hst : (getSlot s n).step = .writeUse) :
    cardAnswer s n b true sw = countCustodian s n := by
  simp [cardAnswer, hst]

/-- Settles O59: the writes wait in the queue and act as applySlotWrite says; a session ends as endSession does. -/
theorem quorumSessions : Obligations.QuorumSessions := by
  unfold Obligations.QuorumSessions
  intro s f n m v data sw x q put
  refine ⟨fun hr hf => ?queued, fun hp hoff hu he => ?deactivate, fun c hp hst hn => ?activate,
    fun hq hk hst hstep => ?erase, fun hr hf => ?refused, fun hq h2 hu => quorumCtrl_opens hq h2 hu, fun hq hf => ?close,
    fun hq hf => ?notOwner, fun hq hl => ?limit, slotTurn_session, fun hup hst hsh => ?draw,
    fun hup hk hst hs hon hr hm => ?count, fun hv hl => ?password⟩
  case queued =>
    have hw (off : Nat) (w : Word) : slotWrite s f off w = put off w := pfWrite_acts _ _ hr hf
    exact ⟨congrArg _ (hw ..), congrArg _ (hw ..), congrArg _ (hw ..), congrArg _ (hw ..), congrArg _ (hw ..),
      congrArg _ (hw ..)⟩
  case deactivate =>
    have hact := (applySlotWrite_ctrl (s := s) (f := f) n 0).trans (slotCtrl_deactivate n)
    rw [ctrlWord, show 2 ^ (0 : Fin 3).val * 256 ^ n.val = 256 ^ n.val from Nat.one_mul _] at hact
    rw [hact]
    exact deactivateSlot_moved hp hoff (not_or.2 ⟨hu, he⟩)
  case activate =>
    have hact := (applySlotWrite_ctrl (s := s) (f := f) n 2).trans (slotCtrl_activate n)
    exact hact ▸ activateSlot_moved hp hst hn
  case erase =>
    have hact := (applySlotWrite_ctrl (s := s) (f := f) n 1).trans (slotCtrl_erase n)
    exact hact ▸ eraseToken_moved hq hk hst hstep
  case refused =>
    have hw (w : Word) : slotWrite s f 0x30 w = regErr s f 0x00100030 := pfWrite_refuses _ _ hr hf
    simp only [List.forall_mem_cons, List.not_mem_nil, false_implies, implies_true, and_true]
    exact ⟨congrArg _ (hw _), congrArg _ (hw _), congrArg _ (hw _)⟩
  case close => rw [applySlotWrite_close hq, if_pos hf, endSession_quorum s _ hq]
  case notOwner => rw [applySlotWrite_close hq, if_neg hf, regErr_quorum]
  case limit =>
    exact ⟨_, if_pos ⟨hq, hl⟩, endSession_quorum s _ hq, endSession_ready s _, endSession_raised s _ hq⟩
  case draw => exact execChallengeDraw_draws hup hst hsh
  case count =>
    have hawait : awaitsCard (getSlot s n.val) = true := by
      change awaitsCard x = true
      simp [awaitsCard, hk, hst]
    have hans : execCardResponse n data sw s = .next (countCustodian s n.val) := by
      subst hs
      rw [execCardResponse_ends hup hawait (by decide) (by decide)]
      exact congrArg Host.Outcome.next (cardAnswer_written hst)
    have hcount := countCustodian_counts hon hr hm
    exact ⟨_, hans, congrArg State.quorum hcount, hcount ▸ ((slotMoved_modSlot s n.val _).requorum _)⟩
  case password =>
    have hpw : applySlotWrite s (f, 0xA0 + 4 * n.val, v) = pwCtrl s n.val v := by
      match n with
      | 0 => rfl
      | 1 => rfl
    rw [hpw, pwCtrl_ignored hv hl]

end Sys2Proof.Machine
end

section
/-!
PROOFS. The supplies and PERST#: what a main reset keeps, a trip on the backup cell, and the start of a boot.
-/
namespace Sys2Proof.Machine

/-! ## Bits that are set -/

theorem bit_setBit_keeps {n k : Nat} {v : BitVec n} (b : Nat) (h : bit v k = true) : bit (setBit v b true) k = true := by
  rw [bit] at h
  simp [bit, setBit, h]

/-- Every bit set in turn stands at the end, and so does a bit that was set before. -/
theorem bit_foldl_setBit {n k : Nat} (l : List Nat) : ∀ v : BitVec n, (k ∈ l ∧ k < n) ∨ bit v k = true →
    bit (l.foldl (fun v i => setBit v i true) v) k = true := by
  induction l with
  | nil => exact fun v h => h.elim (fun h => absurd h.1 (by simp)) id
  | cons b l ih =>
    refine fun v h => ih _ ?_
    rcases h with ⟨hm, hk⟩ | h
    · rcases List.mem_cons.1 hm with rfl | hm
      · exact .inr (bit_setBit_self v k hk)
      · exact .inl ⟨hm, hk⟩
    · exact .inr (bit_setBit_keeps b h)

theorem mem_dueSources {s : State} {i : Nat} : i ∈ dueSources s ↔ i < 28 ∧ bit s.aon.due i = true := by
  simp [dueSources]

theorem dueSources_none {s : State} (h : s.aon.due = 0) : dueSources s = [] := by
  simp [dueSources, h, bit]

/-! ## A main reset (R12, R335, R345) -/

section
variable (s : State)

/-- What a main reset keeps of the always-on domain, the supplies and house firmware, and the blocks it empties. -/
theorem mainReset_kept : (mainReset s).aon = aonKept s.aon ∧ (mainReset s).power = powerKept s.power (keepSideband s)
    ∧ (mainReset s).house = houseKept s.house ∧ (mainReset s).lanes = [] ∧ (mainReset s).engines = [] := by
  unfold mainReset
  dsimp only
  split
  · simp only [slotEvent, raiseAll_aon, raiseAll_power, raiseAll_house, raiseAll_lanes, raiseAll_engines]
    exact ⟨trivial, trivial, trivial, rfl, rfl⟩
  · exact ⟨rfl, rfl, rfl, rfl, rfl⟩

end

/-! ## A trip on the backup cell (R331) -/

section
variable (s : State) (i : Nat)

/-- The state without the parts that a trip on the backup cell changes. -/
def tripless (s : State) : State :=
  { s with aon := { s.aon with
    tripped := 0, pending := 0, rootKey := [], rootValid := false, log := [], logNext := 0, logWraps := 0 } }

theorem batteryTrip_tripless : tripless (batteryTrip s i) = tripless s := by
  unfold batteryTrip
  dsimp only
  (repeat' split) <;> rfl

theorem foldl_batteryTrip_tripless (l : List Nat) : tripless (l.foldl batteryTrip s) = tripless s :=
  foldl_same tripless batteryTrip batteryTrip_tripless l s

variable {s} in
/-- Parts that trips on the backup cell leave. -/
theorem tripless_parts {t : State} (h : tripless t = tripless s) : t.power = s.power ∧ t.seats = s.seats ∧ t.keys = s.keys
    ∧ t.lanes = s.lanes ∧ t.fuses = s.fuses ∧ t.mem = s.mem ∧ t.aon.latched = s.aon.latched ∧ t.aon.epoch = s.aon.epoch
    ∧ t.aon.rtcSec = s.aon.rtcSec ∧ t.aon.due = s.aon.due := by
  have haon := congrArg State.aon h
  exact ⟨(congrArg State.power h :), (congrArg State.seats h :), (congrArg State.keys h :), (congrArg State.lanes h :),
    (congrArg State.fuses h :), (congrArg State.mem h :), (congrArg Aon.latched haon :), (congrArg Aon.epoch haon :),
    (congrArg Aon.rtcSec haon :), (congrArg Aon.due haon :)⟩

theorem batteryTrip_marks :
    (batteryTrip s i).aon.tripped = setBit s.aon.tripped i true
      ∧ (batteryTrip s i).aon.pending = setBit s.aon.pending i true := by
  unfold batteryTrip
  dsimp only
  (repeat' split) <;> exact ⟨rfl, rfl⟩

theorem foldl_batteryTrip_marks {l : List Nat} (hi : i ∈ l) (h28 : i < 28) :
    bit (l.foldl batteryTrip s).aon.tripped i = true ∧ bit (l.foldl batteryTrip s).aon.pending i = true := by
  refine foldl_establishes (Q := fun t => bit t.aon.tripped i = true ∧ bit t.aon.pending i = true) hi (fun t => ?_)
    (fun t j ht => ?_) s
  · obtain ⟨htrip, hpend⟩ := batteryTrip_marks t i
    rw [htrip, hpend]
    exact ⟨bit_setBit_self _ _ h28, bit_setBit_self _ _ h28⟩
  · obtain ⟨htrip, hpend⟩ := batteryTrip_marks t j
    rw [htrip, hpend]
    exact ⟨bit_setBit_keeps j ht.1, bit_setBit_keeps j ht.2⟩

end

/-! ## Loss of main power (R376) -/

section
variable {s : State}

/-- The state without main power, before the trips of its last round. -/
def unpowered (s : State) : State :=
  { powerDown s with
    aon := if s.power.cell then restartFilters { (powerDown s).aon with due := 0 } else .reset
    power := { (powerDown s).power with main := false, st := if s.power.cell then .aonOnly else .off } }

theorem execMainPowerLoss_eq (h : s.power.main = true) : execMainPowerLoss s =
    .next (if s.power.cell then (dueSources s).foldl batteryTrip (unpowered s) else unpowered s) := by
  simp only [execMainPowerLoss, h, Bool.not_true, Bool.false_eq_true, if_false]
  rfl

theorem rd_powerDown (a : Nat) : rd (powerDown s) a = if flashBase ≤ a ∧ a < scoreBase then rd s a else 0 := by
  refine (sget_filter 0 s.mem (fun a => decide (flashBase ≤ a) && decide (a < scoreBase)) a).trans ?_
  simp [rd]

theorem powerDown_aon : (powerDown s).aon = aonKept s.aon := (mainReset_kept s).1

/-- The main domain without power. -/
theorem unpowered_spec : let t := unpowered s
    t.power.main = false ∧ t.power.st = (if s.power.cell then .aonOnly else .off) ∧ t.power.phase = 0 ∧ t.power.eid = 0
      ∧ t.seats = [] ∧ t.keys = KeyStore.reset ∧ t.lanes = [] ∧ t.fuses = s.fuses
      ∧ ∀ a, rd t a = if flashBase ≤ a ∧ a < scoreBase then rd s a else 0 := by
  obtain ⟨hfuses, -, hkeys, hseats, -, -, -⟩ := mainReset_spec s
  obtain ⟨-, -, -, hlanes, -⟩ := mainReset_kept s
  exact ⟨rfl, rfl, rfl, rfl, hseats, hkeys, hlanes, hfuses, rd_powerDown⟩

/-- On the backup cell the always-on domain stands, with no trip left for the end of the round. -/
theorem unpowered_cell (h : s.power.cell = true) :
    (unpowered s).aon = restartFilters { aonKept s.aon with due := 0 } := by
  rw [← powerDown_aon]
  exact if_pos h

end

/-! ## The start of a boot (R379) -/

section
variable (s : State)

/-- The erase of a boot leaves the supplies and the round. -/
theorem eraseStore_power_round (boot : Bool) :
    (eraseStore s boot).power = s.power ∧ (eraseStore s boot).round = s.round := by
  have hP : AbortSafe fun t => t.power = s.power ∧ t.round = s.round := ⟨fun h => fun _ _ _ _ _ _ _ _ _ => h, fun h _ => h⟩
  refine carries_eraseStore hP (fun {t} u h => ?_) (fun _ _ h => h) ⟨rfl, rfl⟩ boot
  cases u with
  | root | suit => exact h
  | tcr d fresh m | latch bs fresh again m =>
    exact ⟨(unlog_same State.power (fun _ _ _ _ => rfl) t m).trans h.1,
      (unlog_same State.round (fun _ _ _ _ => rfl) t m).trans h.2⟩

theorem sentinelCheck_frame : { sentinelCheck s with aon := s.aon } = s := by
  unfold sentinelCheck
  split <;> rfl

/-- The state in which CLK_CORE has started, at round 0. -/
def clocked : State := { s with round := 0, power := { s.power with st := .run, clock := true } }

/-- A boot that starts enters phase 3 in round 0 (R39, R379). -/
theorem bootStart_spec : let t := bootStart s
    t.round = 0 ∧ t.mem = s.mem
      ∧ t.power = { s.power with st := .run, clock := true, phase := 3, phaseAt := s.power.bootRounds } := by
  have hu := sentinelCheck_frame (clocked s)
  have hpower : (sentinelCheck (clocked s)).power = (clocked s).power := (congrArg State.power hu :)
  have hround : (sentinelCheck (clocked s)).round = 0 := (congrArg State.round hu :)
  have hmem : (sentinelCheck (clocked s)).mem = s.mem := (congrArg State.mem hu :)
  obtain ⟨hp, hr⟩ := eraseStore_power_round (sentinelCheck (clocked s)) true
  obtain ⟨-, hm⟩ := eraseStore_frame (sentinelCheck (clocked s)) true
  have ht : bootStart s = enterPhase (rngStart (eraseStore (sentinelCheck (clocked s)) true)) 3 := rfl
  rw [ht]
  generalize eraseStore (sentinelCheck (clocked s)) true = t at hp hr hm
  refine ⟨hr.trans hround, hm.trans hmem, ?_⟩
  simp only [enterPhase, rngStart, hp, hpower]
  rfl

/-- A boot from a main reset: in phase 3, or in phase 1 where the rails are not good. -/
theorem bootFrom_spec (good : Bool) : let t := bootFrom s good
    t.round = 0 ∧ t.mem = s.mem ∧ t.power.st = .run ∧ t.power.phase = (if good then 3 else 1)
      ∧ t.power.main = s.power.main ∧ t.power.perst0 = s.power.perst0 ∧ t.power.perst1 = s.power.perst1 := by
  obtain ⟨-, hmem, -, -, hround, -, -⟩ := mainReset_spec s
  obtain ⟨-, hpower, -⟩ := mainReset_kept s
  cases good with
  | false =>
    refine ⟨hround, hmem, rfl, rfl, ?_⟩
    change (mainReset s).power.main = _ ∧ (mainReset s).power.perst0 = _ ∧ (mainReset s).power.perst1 = _
    rw [hpower]
    exact ⟨rfl, rfl, rfl⟩
  | true =>
    obtain ⟨hr, hm, hp⟩ := bootStart_spec { mainReset s with power := { (mainReset s).power with st := .run } }
    have hpw : (bootFrom s true).power = _ := hp
    refine ⟨hr, hm.trans hmem, ?_⟩
    rw [hpw, hpower]
    exact ⟨rfl, rfl, rfl, rfl, rfl⟩

end

section
variable {s : State}

/-- The state with main power back. -/
def supplied (s : State) : State :=
  { s with aon := restartFilters s.aon, power := { s.power with main := true, st := .run } }

theorem execMainPowerGood_eq (h : s.power.main = false) : execMainPowerGood s =
    .next (if perstHigh s.power then bootFrom (supplied s) true else supplied s) := by
  simp only [execMainPowerGood, h, Bool.false_eq_true, if_false]
  rfl

end

section
variable {s : State}

/-- PERST# of a port as it is driven (R401). -/
def perstAt (p : Power) (port : Fin 2) (low : Bool) : Power :=
  if port = 0 then { p with perst0 := low } else { p with perst1 := low }

theorem perstAt_main (p : Power) (port : Fin 2) (low : Bool) : (perstAt p port low).main = p.main := by
  unfold perstAt
  split <;> rfl

/-- A PERST# input driven low resets the main domain. -/
theorem execPerstAssert_eq (h : s.power.main = true) (port : Fin 2) :
    let u := mainReset { s with power := perstAt s.power port true }
    execPerstAssert port s = .next { u with power := { u.power with st := .run } } :=
  if_pos ((perstAt_main ..).trans h)

/-- A port released leaves the inputs high where the other one is. -/
theorem perstHigh_released (p : Power) (port : Fin 2) :
    perstHigh (perstAt p port false) = !(if port = 0 then p.perst1 else p.perst0) := by
  unfold perstAt
  split <;> simp [perstHigh]

/-- A release boots the device or only raises the input. -/
theorem execPerstRelease_eq (port : Fin 2) (good : Bool) : execPerstRelease port good s =
    if (if port = 0 then s.power.perst0 else s.power.perst1) = true
      ∧ (if port = 0 then s.power.perst1 else s.power.perst0) = false ∧ s.power.main = true then
      .next (bootFrom { s with power := perstAt s.power port false } good)
    else .next { s with power := perstAt s.power port false } := by
  refine if_congr ?_ rfl rfl
  change (_ && perstHigh (perstAt s.power port false) && (perstAt s.power port false).main) = true ↔ _
  rw [perstHigh_released, perstAt_main, Bool.and_eq_true, Bool.and_eq_true, Bool.not_eq_true', and_assoc]

end

/-- Settles O45: power lost is a reset of the main domain, in which memory outside the flash is dropped, and the trips of its
last round on the backup cell; a boot starts from a main reset. -/
theorem supplies : Obligations.Supplies := by
  unfold Obligations.Supplies
  intro s port good p flag other
  refine ⟨fun hm => ?loss, fun hm => ?aon, fun hm => ?aonOff, rfl, fun hm hp => ?wait, fun hm hp => ?boot,
    fun hm => ?assert, fun hf ho hm => ?release, fun h => ?stay⟩
  case loss =>
    obtain ⟨hmain, hst, hphase, heid, hseats, hkeys, hlanes, hfuses, hmem⟩ := unpowered_spec (s := s)
    refine ⟨_, execMainPowerLoss_eq hm, ?_⟩
    cases hc : s.power.cell with
    | false =>
      have haon : (unpowered s).aon = Aon.reset := by rw [unpowered, hc]; rfl
      have hoff : (unpowered s).power.st = .off := by rw [hst, hc]; rfl
      exact ⟨hmain, hoff, hphase, hseats, hkeys, hlanes, hfuses, hmem, nofun, fun _ => haon⟩
    | true =>
      have haon := unpowered_cell hc
      have hon : (unpowered s).power.st = .aonOnly := by rw [hst, hc]; rfl
      obtain ⟨hp, hs, hk, hl, hf, hm', hlatched, hepoch, hrtc, hdue⟩ :=
        tripless_parts (foldl_batteryTrip_tripless (unpowered s) (dueSources s))
      rw [haon] at hlatched hepoch hrtc hdue
      have hquiet (h0 : s.aon.due = 0) : ((dueSources s).foldl batteryTrip (unpowered s)).aon =
          restartFilters { aonKept s.aon with due := 0 } := by rw [dueSources_none h0, List.foldl_nil, haon]
      simp only [if_true, hp, hs, hk, hl, hf]
      refine ⟨hmain, hon, hphase, hseats, hkeys, hlanes, hfuses, fun a => (congrArg (sget 0 · a) hm').trans (hmem a),
        fun _ => ⟨hlatched, hepoch, hrtc, fun h0 => ?_, fun i hi hd => ?_, hdue, heid⟩, nofun⟩
      · rw [hquiet h0]
        exact ⟨rfl, rfl, rfl⟩
      · exact foldl_batteryTrip_marks _ i (mem_dueSources.2 ⟨hi, hd⟩) hi
  case aon => exact if_pos hm
  case aonOff => exact if_neg (by rw [show s.power.main = false from hm]; decide)
  case wait =>
    have hlow : perstHigh p = false := by rcases hp with h | h <;> simp [perstHigh, h]
    refine (execMainPowerGood_eq hm).trans (congrArg _ (if_neg ?_))
    rw [show perstHigh s.power = false from hlow]
    decide
  case boot =>
    have hhigh : perstHigh s.power = true := by
      obtain ⟨h0, h1⟩ : s.power.perst0 = false ∧ s.power.perst1 = false := hp
      simp [perstHigh, h0, h1]
    obtain ⟨hround, -, hst, hphase, hmain, -, -⟩ := bootFrom_spec (supplied s) true
    refine ⟨_, (execMainPowerGood_eq hm).trans (congrArg _ (if_pos hhigh)), hmain, hst, hphase, hround⟩
  case assert =>
    let u : State := { s with power := perstAt s.power port true }
    obtain ⟨hfuses, hmem, hkeys, hseats, hround, hphase, hclock⟩ := mainReset_spec u
    obtain ⟨haon, hpower, hhouse, hlanes, hengines⟩ := mainReset_kept u
    refine ⟨_, execPerstAssert_eq hm port, hround, hphase, hclock, ?_, hseats, hkeys, hlanes, hengines, hmem, hfuses,
      (congrArg Aon.rootKey haon :), (congrArg Aon.tripped haon :), (congrArg Aon.latched haon :),
      (congrArg House.count hhouse :)⟩
    change (if port = 0 then (mainReset u).power.perst0 else (mainReset u).power.perst1) = true
    rw [hpower]
    by_cases h0 : port = 0 <;> simp [u, perstAt, powerKept, h0]
  case release =>
    obtain ⟨hround, hmem, hst, hphase, -, h0, h1⟩ := bootFrom_spec { s with power := perstAt s.power port false } good
    have hhigh := perstHigh_released s.power port
    rw [show (if port = 0 then s.power.perst1 else s.power.perst0) = false from ho] at hhigh
    simp only [perstHigh, Bool.not_false, Bool.and_eq_true, Bool.not_eq_true'] at hhigh
    exact ⟨_, (execPerstRelease_eq port good).trans (if_pos ⟨hf, ho, hm⟩), h0.trans hhigh.1, h1.trans hhigh.2, hphase, hround,
      hst, hmem⟩
  case stay =>
    refine (execPerstRelease_eq port good).trans (if_neg fun ⟨hlow, hoth, hmain⟩ => ?_)
    rcases h with h | h | h
    · exact absurd (h.symm.trans hoth) (by decide)
    · exact absurd (h.symm.trans hlow) (by decide)
    · exact absurd (h.symm.trans hmain) (by decide)

end Sys2Proof.Machine
end

section
/-!
PROOFS. How a boot ends: what a freeze cannot change, the images loaded, and recovery.
-/
namespace Sys2Proof.Machine

/-! ## A freeze (R329) -/

section
variable {P : State → Prop} (hP : AbortSafe P) {s : State}
include hP

theorem carries_modFlight (h : P s) (i seq : Nat) (f : Flight → Flight) : P (modFlight s i seq f) :=
  carries_modFlights hP h ..

theorem carries_setRec (h : P s) (i : Nat) (x : Option MigRec) : P (setRec s i x) := hP.work h ..

theorem carries_unbind (h : P s) (l : Nat) (b : Binding) : P (unbind s l b) := by
  unfold unbind
  extract_lets s1 s2
  have h2 : P s2 := carries_modFlight hP (carries_modLane hP h ..) ..
  clear_value s2
  (repeat' split)
  · exact h2
  · exact h2
  · exact carries_setRec hP h2 ..
  · exact carries_setRec hP h2 ..
  · exact h2

theorem carries_freezeLane (h : P s) (l : Nat) : P (freezeLane s l) := by
  refine foldl_carries (P := P) (fun t b ht => ?_) _ h
  (repeat' split)
  · exact ht
  · exact carries_unbind hP ht ..
  · exact carries_abortSeg hP ht ..
  · exact ht

theorem carries_postEnded (hplace : ∀ {t} f, P t → P (placeFinished t f).1) (h : P s) (k : Nat) (r : Round) :
    P (postEnded s k r) :=
  foldl_carries (P := P) (fun _ f ht => carries_decide hP (carries_modEngine hP (hplace f ht) ..) ..) _
    (carries_modEngine hP h ..)

/-- A freeze leaves a property that no abort changes, nor a result placed, once the freeze itself is marked. -/
theorem carries_freeze (hplace : ∀ {t} f, P t → P (placeFinished t f).1)
    (h : ∀ d : Dealer, d.frozen = true → P { s with aon := { s.aon with freeze := true, thaw := none }, dealer := d }) :
    P (freeze s) := by
  refine carries_abortHouse hP ?_ ..
  refine foldl_carries (P := P) (fun t e ht => ?_) _ (foldl_carries (P := P) (fun t e ht => ?_) _ (h _ rfl))
  · exact carries_postEnded hP hplace (carries_abortEngine hP ht ..) ..
  · exact carries_freezeLane hP ht _

end

/-! ## The configuration record, the TCR and the responses left from the backup cell (R384, R341, R332) -/

section
variable (s : State)

/-- A key placed in a hand changes the key store and the tags of its granules alone. -/
theorem putKey_eq (h i : Nat) (k : KeyObj) : ∃ ks p, putKey s h i k = { s with keys := ks, prot := p } := by
  simp only [putKey, writeHand, tagStore, freshWords]
  exact ⟨_, _, rfl⟩

theorem placeFinished_eq (f : Finished) : ∃ ks p, (placeFinished s f).1 = { s with keys := ks, prot := p } := by
  unfold placeFinished placeKey
  dsimp only
  (repeat' split)
  · exact ⟨s.keys, s.prot, rfl⟩
  · exact ⟨s.keys, s.prot, rfl⟩
  · exact putKey_eq ..
  · exact ⟨s.keys, s.prot, rfl⟩
  · exact ⟨s.keys, s.prot, rfl⟩

theorem freeze_fuses : (freeze s).fuses = s.fuses := by
  have hP : AbortSafe fun t => t.fuses = s.fuses := ⟨fun h => fun _ _ _ _ _ _ _ _ _ => h, fun h _ => h⟩
  refine carries_freeze hP (fun {t} f h => ?_) fun _ _ => rfl
  obtain ⟨ks, p, he⟩ := placeFinished_eq t f
  exact he ▸ h

theorem applyDcr_fuses : (applyDcr s).fuses = s.fuses := by
  unfold applyDcr
  dsimp only
  rw [foldl_same State.fuses _ fun _ _ => modSlot_fuses .., foldl_same State.fuses _ fun _ _ => modEngine_fuses ..]

theorem readDcr_fuses : (readDcr s).fuses = s.fuses := by
  unfold readDcr
  exact applyDcr_fuses _

theorem tcrBoot_fuses : (tcrBoot s).fuses = s.fuses := by
  unfold tcrBoot
  extract_lets b
  split <;> rfl

theorem applyPending_fuses : (applyPending s).fuses = s.fuses := by
  have hs (c : Prop) [Decidable c] : (if c then freeze s else s).fuses = s.fuses := by
    split
    · exact freeze_fuses s
    · rfl
  unfold applyPending
  dsimp only
  split
  · rfl
  · split
    · simp [hs]
    · simp [hs]

end

/-! ## Images (R381-R383) -/

section
variable (s : State) (base : Nat)

/-- The memory and the region arrays with the images of a copy (R383). -/
def imagesLoaded (play kernel house : Bytes) : State :=
  loadRegions (store ((List.range 128).foldl (fun t l => loadLane t play kernel l) s)
    0xC000 (padTo 0x2000 (house.take 0x2000))) house

/-- A part that no store and no region array changes. -/
theorem imagesLoaded_same {α : Type} (p : State → α) (hp : ∀ t a b, p (store t a b) = p t)
    (hprot : ∀ t q, p { t with prot := q } = p t) (play kernel house : Bytes) :
    p (imagesLoaded s play kernel house) = p s :=
  (hprot _ _).trans ((hp _ _ _).trans (foldl_same p _ (fun _ _ => (hp _ _ _).trans (hp _ _ _)) _ _))

theorem loadFirmware_eq : ∃ play kernel house kernelV appletsV fwV applets dealer,
    loadFirmware s base = { imagesLoaded s play kernel house with
      power := { (imagesLoaded s play kernel house).power with
        kernelV := kernelV, appletsV := appletsV, fwV := fwV, applets := applets }
      dealer := dealer
      house := { (imagesLoaded s play kernel house).house with running := true } } :=
  ⟨_, _, _, _, _, _, _, _, rfl⟩

/-- What the images of a copy leave. -/
theorem loadFirmware_parts : let t := loadFirmware s base
    t.aon = s.aon ∧ t.fuses = s.fuses ∧ t.seats = s.seats ∧ t.house.running = true ∧ t.power.imageB = s.power.imageB
      ∧ t.power.errCode = s.power.errCode ∧ t.power.bootErr = s.power.bootErr := by
  obtain ⟨play, kernel, house, _, _, _, _, _, he⟩ := loadFirmware_eq s base
  have hsame {α : Type} (p : State → α) (hp : ∀ t a b, p (store t a b) = p t)
      (hprot : ∀ t q, p { t with prot := q } = p t) := imagesLoaded_same s p hp hprot play kernel house
  rw [he]
  generalize imagesLoaded s play kernel house = u at hsame
  exact ⟨hsame State.aon (fun _ _ _ => rfl) fun _ _ => rfl, hsame State.fuses (fun _ _ _ => rfl) fun _ _ => rfl,
    hsame State.seats (fun _ _ _ => rfl) fun _ _ => rfl, rfl, hsame (·.power.imageB) (fun _ _ _ => rfl) fun _ _ => rfl,
    hsame (·.power.errCode) (fun _ _ _ => rfl) fun _ _ => rfl, hsame (·.power.bootErr) (fun _ _ _ => rfl) fun _ _ => rfl⟩

theorem bootImages_copyA (ha : copyError s 0 = 0) : bootImages s = enterPhase (loadFirmware s 0) 7 := by
  simp only [bootImages, ha, if_true]

theorem bootImages_copyB (ha : copyError s 0 ≠ 0) (hb : copyError s 0x800000 = 0) : bootImages s =
    enterPhase (loadFirmware { s with power := { s.power with imageB := true, errCode := copyError s 0 } } 0x800000) 7 := by
  simp only [bootImages, ha, hb, if_true, if_false]

theorem bootImages_recovery (ha : copyError s 0 ≠ 0) (hb : copyError s 0x800000 ≠ 0) :
    bootImages s = recover s (copyError s 0x800000) := by
  simp only [bootImages, ha, hb, if_false]

theorem execBootPhaseLimit_runsOut {s : State} (hp : s.power.phase = 3 ∨ s.power.phase = 7)
    (hl : s.power.phaseAt + phaseLimit s.power.phase ≤ s.power.bootRounds) :
    execBootPhaseLimit s = .next (recover s (if s.power.phase = 3 then 6 else 7)) := by
  have h1 : s.power.phase ≠ 1 := by omega
  simp only [execBootPhaseLimit, h1, hp, hl, and_self, if_true, if_false]

end

/-- Settles O46: the images by which copy is accepted; a limit that has run out by its phase. -/
theorem bootEnds : Obligations.BootEnds := by
  unfold Obligations.BootEnds
  intro s u p a b
  refine ⟨fun h3 => ⟨bootImages u, if_pos h3, ?images⟩, fun h3 => if_neg h3, fun h => ?limit⟩
  case images =>
    have hfuses : u.fuses = s.fuses :=
      (applyPending_fuses _).trans ((tcrBoot_fuses _).trans (readDcr_fuses s))
    rw [← hfuses]
    clear_value u
    by_cases ha : a = 0
    · obtain ⟨haon, hf, hseats, hrun, hB, herr, hboot⟩ := loadFirmware_parts u 0
      rw [bootImages_copyA u ha]
      simp [ha, enterPhase, haon, hf, hseats, hrun, hB, herr, hboot]
    · by_cases hb : b = 0
      · obtain ⟨haon, hf, hseats, hrun, hB, herr, hboot⟩ :=
          loadFirmware_parts { u with power := { u.power with imageB := true, errCode := copyError u 0 } } 0x800000
        rw [bootImages_copyB u ha hb]
        simp only [ha, hb, enterPhase, haon, hf, hseats, hrun, hB, herr, hboot]
        simp [a, show copyError u 0 ≠ 0 from ha]
      · rw [bootImages_recovery u ha hb]
        simp [ha, hb, recover, b]
  case limit =>
    refine ⟨recover s (if p.phase = 3 then 6 else 7), ?_, rfl, rfl, rfl, rfl, rfl, rfl⟩
    rcases h with ⟨h3, hl⟩ | h1 | ⟨h7, hl⟩
    · exact execBootPhaseLimit_runsOut (.inl h3) (by rw [h3]; exact hl)
    · rw [h1]
      exact if_pos h1
    · exact execBootPhaseLimit_runsOut (.inr h7) (by rw [h7]; exact hl)

end Sys2Proof.Machine
end

section
/-!
PROOFS. Monitors and trips: a sample's filter, the responses of the sources that qualified in a round, and the log they fill.
-/
namespace Sys2Proof.Machine

/-! ## The log (R343) -/

/-- One entry for each member of a list, in its order. -/
def logEach (resp : Nat → BitVec 7) (info : Nat → BitVec 32) (flags : Nat) (l : List Nat) (s : State) : State :=
  l.foldl (fun u i => logEvent u i (resp i) flags (info i)) s

section
variable {resp : Nat → BitVec 7} {info : Nat → BitVec 32} {flags : Nat}

/-- A place that a run of entries does not reach stands. -/
theorem logEach_keeps (l : List Nat) : ∀ (s : State) (q : Nat),
    (∀ j, j < l.length → q ≠ (s.aon.logNext + j) % 64) → s.aon.logNext < 64 →
    sget none (logEach resp info flags l s).aon.log q = sget none s.aon.log q := by
  induction l with
  | nil => exact fun _ _ _ _ => rfl
  | cons i l ih =>
    intro s q hq hn
    have hfirst : q ≠ s.aon.logNext := fun e => hq 0 (by simp) (by omega)
    have hnext : (logEvent s i (resp i) flags (info i)).aon.logNext = (s.aon.logNext + 1) % 64 := rfl
    have hlog : sget none (logEvent s i (resp i) flags (info i)).aon.log q = sget none s.aon.log q := by
      simp [logEvent, pushLog, sget_sput_ne _ _ _ hfirst]
    refine (ih _ q (fun j hj e => hq (j + 1) (by simpa using hj) ?_) ?_).trans hlog
    · rw [hnext] at e
      omega
    · rw [hnext]
      omega

/-- The entries of a run stand in its order from the head of the log. -/
theorem logEach_entry (l : List Nat) : ∀ (s : State) (k : Nat) (h : k < l.length), s.aon.logNext < 64 → l.length ≤ 64 →
    ∃ e, sget none (logEach resp info flags l s).aon.log ((s.aon.logNext + k) % 64) = some e
      ∧ e.source = BitVec.ofNat 8 l[k] := by
  induction l with
  | nil => exact fun _ _ h => absurd h (by simp)
  | cons i l ih =>
    intro s k h hn hl
    have hnext : (logEvent s i (resp i) flags (info i)).aon.logNext = (s.aon.logNext + 1) % 64 := rfl
    have hlt : (logEvent s i (resp i) flags (info i)).aon.logNext < 64 := by omega
    rw [List.length_cons] at hl
    cases k with
    | zero =>
      obtain ⟨e, he, hsrc, -⟩ := logEvent_entry s i (resp i) flags (info i)
      have hpos : (s.aon.logNext + 0) % 64 = s.aon.logNext := by omega
      refine ⟨e, ?_, hsrc⟩
      rw [hpos, ← he]
      refine logEach_keeps l _ _ (fun j hj => ?_) hlt
      rw [hnext]
      omega
    | succ k =>
      obtain ⟨e, he, hsrc⟩ := ih (logEvent s i (resp i) flags (info i)) k (by simpa using h) hlt (by omega)
      have hpos : (s.aon.logNext + (k + 1)) % 64 =
          ((logEvent s i (resp i) flags (info i)).aon.logNext + k) % 64 := by omega
      exact ⟨e, hpos ▸ he, hsrc⟩

/-- The state without its event log. -/
def logless (s : State) : State := { s with aon := { s.aon with log := [], logNext := 0, logWraps := 0 } }

theorem logEach_logless (l : List Nat) (s : State) : logless (logEach resp info flags l s) = logless s :=
  foldl_same logless (fun u i => logEvent u i (resp i) flags (info i)) (fun _ _ => rfl) l s

end

/-! ## The union of the sets (R328) -/

theorem bit_unionSet (s : State) (k : Nat) (l : List Nat) :
    bit (unionSet s l) k = true ↔ ∃ i ∈ l, bit (tcrResp s i) k = true := by
  have hgo : ∀ v : Byte, bit (l.foldl (fun v i => v ||| tcrResp s i) v) k = true ↔
      bit v k = true ∨ ∃ i ∈ l, bit (tcrResp s i) k = true := by
    induction l with
    | nil => simp
    | cons i l ih =>
      intro v
      rw [List.foldl_cons, ih]
      simp [bit, or_assoc]
  refine (hgo 0).trans ?_
  simp [bit]

/-! ## The responses (R329-R331) -/

section
variable (s : State) (r : Byte)

/-- The keys after the responses that erase. -/
def erased : State :=
  let s1 := if bit r rEraseRoot then eraseRoot s else s
  if bit r rEraseVol then eraseStore s1 false else s1

/-- The device after the response that freezes it. -/
def frozenBy : State := if bit r rFreeze || bit r rLatch then freeze s else s

/-- The responses made once the device is frozen. -/
def latchedBy (latch : List Nat) : State :=
  { s with aon := { s.aon with latched := latch.foldl (fun v i => setBit v i true) s.aon.latched } }

/-- The event log, the interrupt and the reset asked for. -/
def reportedBy (log : State → State) : State :=
  let s5 := if bit r rLog then log s else s
  let s6 := if bit r rIrq then raiseAll s5 28 else s5
  if bit r rReset then { s6 with power := { s6.power with resetReq := true } } else s6

theorem respond_eq (latch : List Nat) (log : State → State) :
    respond s r latch log = reportedBy (latchedBy (frozenBy (erased s r) r) latch) r log := rfl

theorem freeze_aon : (freeze s).aon = { s.aon with freeze := true, thaw := none } := by
  have hP : AbortSafe fun t => t.aon = { s.aon with freeze := true, thaw := none } :=
    ⟨fun h => fun _ _ _ _ _ _ _ _ _ => h, fun h _ => h⟩
  refine carries_freeze hP (fun {t} f h => ?_) (fun _ _ => rfl)
  obtain ⟨ks, p, he⟩ := placeFinished_eq t f
  exact he ▸ h

/-- A freeze stops the dealer. -/
theorem freeze_frozen : (freeze s).dealer.frozen = true := by
  have hP : AbortSafe fun t => t.dealer.frozen = true := ⟨fun h => fun _ _ _ _ _ _ _ _ _ => h, fun h _ => h⟩
  refine carries_freeze hP (fun {t} f h => ?_) (fun _ h => h)
  obtain ⟨ks, p, he⟩ := placeFinished_eq t f
  exact he ▸ h

/-- A store that holds no hand. -/
def StoreEmpty (s : State) : Prop := s.keys.ready = false ∧ s.keys.hands = []

variable {s} in
/-- No result finds a slot reserved in an empty store. -/
theorem placeFinished_empty (h : StoreEmpty s) (f : Finished) : (placeFinished s f).1 = s := by
  have hno : ∀ i k, sget none (getHand s i).resv k = none := fun i k => by
    rw [getHand, h.2]
    rfl
  unfold placeFinished
  simp only [hno]
  split <;> rfl

variable {s} in
/-- A freeze leaves an empty store empty. -/
theorem freeze_empty (h : StoreEmpty s) : StoreEmpty (freeze s) := by
  have hP : AbortSafe StoreEmpty := by
    refine ⟨fun h => fun _ _ _ _ _ _ _ _ _ => h, fun {t} h seq => ⟨h.1, ?_⟩⟩
    simp [dropResv, h.2]
  exact carries_freeze hP (fun f ht => (placeFinished_empty ht f).symm ▸ ht) fun _ _ => h

/-- The erase that a trip asks for leaves what no abort and no commit undone changes. -/
theorem carries_erased {P : State → Prop} (hP : AbortSafe P) (hroot : ∀ {t}, P t → P (eraseRoot t))
    (hundo : ∀ {t} u, P t → P (undoCommit t u))
    (hkeys : ∀ {t} k e, P t → P { t with keys := k, aon := { t.aon with epoch := e }, records := [] }) (h : P s) :
    P (erased s r) := by
  have h1 : P (if bit r rEraseRoot then eraseRoot s else s) := by
    split
    · exact hroot h
    · exact h
  unfold erased
  dsimp only
  split
  · exact carries_eraseStore hP hundo hkeys h1 _
  · exact h1

/-- What is due and what has tripped stands through the erase. -/
theorem erased_trips : (erased s r).aon.due = s.aon.due ∧ (erased s r).aon.tripped = s.aon.tripped := by
  have hP : AbortSafe fun t => t.aon.due = s.aon.due ∧ t.aon.tripped = s.aon.tripped :=
    ⟨fun h => fun _ _ _ _ _ _ _ _ _ => h, fun h _ => h⟩
  refine carries_erased s r hP (fun h => h) (fun {t} u h => ?_) (fun _ _ h => h) ⟨rfl, rfl⟩
  cases u with
  | root | suit => exact h
  | tcr d fresh m | latch bs fresh again m =>
    exact ⟨(unlog_same (·.aon.due) (fun _ _ _ _ => rfl) t m).trans h.1,
      (unlog_same (·.aon.tripped) (fun _ _ _ _ => rfl) t m).trans h.2⟩

variable {s r} in
/-- ROOT_KEY erased stays erased. -/
theorem erased_noRoot (hr : bit r rEraseRoot = true) : NoRoot (erased s r) := by
  have hroot : erased s r = erased (eraseRoot s) r := by
    simp only [erased, hr, if_true]
    rfl
  have hP : AbortSafe NoRoot := ⟨fun h => fun _ _ _ _ _ _ _ _ _ => h, fun h _ => h⟩
  rw [hroot]
  refine carries_erased _ r hP (fun _ => ⟨rfl, rfl⟩) (fun {t} u h => ?_) (fun _ _ h => h) ⟨rfl, rfl⟩
  by_cases hu : u = .root
  · subst hu
    exact ⟨rfl, rfl⟩
  · obtain ⟨hkey, hvalid⟩ := undoCommit_root (s := t) hu
    exact ⟨hkey.trans h.1, hvalid.trans h.2⟩

variable {s r} in
theorem erased_empty (hr : bit r rEraseVol = true) : StoreEmpty (erased s r) := by
  unfold erased
  simp only [hr, if_true]
  rw [StoreEmpty, eraseStore_keys]
  exact ⟨rfl, rfl⟩

/-- The state without what the log, the interrupt and the request for a reset change. -/
def unreported (s : State) : State :=
  { logless s with irq := [], link := .reset, power := { s.power with resetReq := false } }

theorem unreported_log {log : State → State} (hlog : ∀ t, logless (log t) = logless t) :
    unreported (log s) = unreported s :=
  congrArg (fun t : State => { t with irq := [], link := .reset, power := { t.power with resetReq := false } }) (hlog s)

theorem reportedBy_unreported {log : State → State} (hlog : ∀ t, logless (log t) = logless t) :
    unreported (reportedBy s r log) = unreported s := by
  have h5 : unreported (if bit r rLog then log s else s) = unreported s := by
    split
    · exact unreported_log s hlog
    · rfl
  have h6 : ∀ t, unreported (if bit r rIrq then raiseAll t 28 else t) = unreported t := by
    intro t
    split
    · rw [raiseAll_eq]
      rfl
    · rfl
  unfold reportedBy
  dsimp only
  refine Eq.trans ?_ ((h6 _).trans h5)
  split <;> rfl

variable {s} in
/-- The parts that they leave. -/
theorem unreported_parts {t : State} (h : unreported t = unreported s) : t.keys = s.keys ∧ t.dealer = s.dealer
    ∧ t.aon.due = s.aon.due ∧ t.aon.tripped = s.aon.tripped ∧ t.aon.latched = s.aon.latched
    ∧ t.aon.freeze = s.aon.freeze ∧ t.aon.rootKey = s.aon.rootKey ∧ t.aon.rootValid = s.aon.rootValid := by
  have haon := congrArg State.aon h
  exact ⟨(congrArg State.keys h :), (congrArg State.dealer h :), (congrArg Aon.due haon :), (congrArg Aon.tripped haon :),
    (congrArg Aon.latched haon :), (congrArg Aon.freeze haon :), (congrArg Aon.rootKey haon :), (congrArg Aon.rootValid haon :)⟩

variable {s r} in
theorem reportedBy_resets (log : State → State) (hr : bit r rReset = true) :
    (reportedBy s r log).power.resetReq = true := by
  unfold reportedBy
  simp only [hr, if_true]

variable {s r} in
/-- The interrupt is raised on every physical function, copy 0 among them. -/
theorem reportedBy_raises (log : State → State) (hr : bit r rIrq = true) :
    bit (getIrq (reportedBy s r log) 0).status 28 = true := by
  have h0 : ∀ t, bit (getIrq (raiseAll t 28) 0).status 28 = true := fun t => raiseAll_on t 28 (by decide) 0 (by simp [pfs])
  unfold reportedBy
  simp only [hr, if_true]
  split <;> exact h0 _

variable {s r} in
theorem reportedBy_log (log : State → State) (hr : bit r rLog = true) : (reportedBy s r log).aon.log = (log s).aon.log := by
  unfold reportedBy
  simp only [hr, if_true]
  (repeat' split) <;> simp

end

/-! ## The responses at the end of a round (R328) -/

section
variable (s : State)

/-- The union of the sets of the sources due. -/
def dueSet : Byte := unionSet s (dueSources s)

/-- The sources due, marked. -/
def marked : State := markTripped { s with aon := { s.aon with due := 0 } } (dueSources s)

/-- The state in which the sources due have their responses, before these are reported. -/
def responded : State :=
  latchedBy (frozenBy (erased (marked s) (dueSet s)) (dueSet s)) (if bit (dueSet s) rLatch then dueSources s else [])

/-- The entries of the sources due. -/
def tripLog : State → State := logEach (fun i => tripSet s i) (fun i => tripInfo s i) 0 (dueSources s)

theorem tripTurn_eq (h : dueSources s ≠ []) : tripTurn s = reportedBy (responded s) (dueSet s) (tripLog s) := by
  have hne : (dueSources s).isEmpty = false := by simpa using h
  unfold tripTurn
  simp only [hne, Bool.false_eq_true, if_false, respond_eq]
  rfl

/-- What the freeze leaves of the always-on domain. -/
theorem frozenBy_parts (r : Byte) : let t := frozenBy s r
    t.aon.due = s.aon.due ∧ t.aon.tripped = s.aon.tripped ∧ t.aon.rootKey = s.aon.rootKey
      ∧ t.aon.rootValid = s.aon.rootValid ∧ t.aon.logNext = s.aon.logNext := by
  unfold frozenBy
  split
  · dsimp only
    rw [freeze_aon]
    exact ⟨rfl, rfl, rfl, rfl, rfl⟩
  · exact ⟨rfl, rfl, rfl, rfl, rfl⟩

variable {s} in
/-- A set with FREEZE or LATCH freezes the device. -/
theorem frozenBy_freezes {r : Byte} (hr : bit r rFreeze = true ∨ bit r rLatch = true) :
    (frozenBy s r).aon.freeze = true ∧ (frozenBy s r).dealer.frozen = true := by
  have hset : (bit r rFreeze || bit r rLatch) = true := by simpa using hr
  rw [frozenBy, if_pos hset, freeze_aon]
  exact ⟨rfl, freeze_frozen s⟩

variable {s} in
theorem frozenBy_empty {r : Byte} (h : StoreEmpty s) : StoreEmpty (frozenBy s r) := by
  unfold frozenBy
  split
  · exact freeze_empty h
  · exact h

variable {s} in
/-- A set that leaves the store. -/
theorem erased_of_kept {r : Byte} (hvol : ¬bit r rEraseVol = true) :
    erased s r = if bit r rEraseRoot then eraseRoot s else s := if_neg hvol

variable {s} in
theorem erased_logNext {r : Byte} (hvol : ¬bit r rEraseVol = true) : (erased s r).aon.logNext = s.aon.logNext := by
  rw [erased_of_kept hvol]
  split <;> rfl

/-- Everything a trip does at the end of its round, by the union of the sets. -/
theorem responded_spec : let t := responded s
    t.aon.due = 0 ∧ (∀ i ∈ dueSources s, bit t.aon.tripped i = true)
      ∧ (bit (dueSet s) rEraseRoot = true → NoRoot t)
      ∧ (¬bit (dueSet s) rEraseRoot = true → ¬bit (dueSet s) rEraseVol = true →
        t.aon.rootValid = s.aon.rootValid ∧ t.aon.rootKey = s.aon.rootKey)
      ∧ (bit (dueSet s) rEraseVol = true → StoreEmpty t)
      ∧ (bit (dueSet s) rFreeze = true ∨ bit (dueSet s) rLatch = true → t.aon.freeze = true ∧ t.dealer.frozen = true)
      ∧ (bit (dueSet s) rLatch = true → ∀ i ∈ dueSources s, bit t.aon.latched i = true)
      ∧ (¬bit (dueSet s) rEraseVol = true → t.aon.logNext = s.aon.logNext) := by
  obtain ⟨hdue, htripped, hkey, hvalid, hnext⟩ := frozenBy_parts (erased (marked s) (dueSet s)) (dueSet s)
  obtain ⟨hedue, hetripped⟩ := erased_trips (marked s) (dueSet s)
  refine ⟨hdue.trans hedue, fun i hi => ?_, fun hr => ?_, fun hroot hvol => ?_, fun hr => ?_, fun hr => ?_,
    fun hr i hi => ?_, fun hvol => ?_⟩
  · have hmark : bit (marked s).aon.tripped i = true :=
      bit_foldl_setBit _ _ (.inl ⟨hi, (mem_dueSources.1 hi).1⟩)
    exact (congrArg (bit · i) (htripped.trans hetripped)).trans hmark
  · obtain ⟨hk, hv⟩ := erased_noRoot (s := marked s) hr
    exact ⟨hkey.trans hk, hvalid.trans hv⟩
  · have he : erased (marked s) (dueSet s) = marked s := (erased_of_kept hvol).trans (if_neg hroot)
    exact ⟨hvalid.trans (congrArg (·.aon.rootValid) he), hkey.trans (congrArg (·.aon.rootKey) he)⟩
  · exact frozenBy_empty (erased_empty hr)
  · exact frozenBy_freezes hr
  · rw [responded, if_pos hr]
    exact bit_foldl_setBit _ _ (.inl ⟨hi, (mem_dueSources.1 hi).1⟩)
  · exact hnext.trans (erased_logNext hvol)

end

/-! ## A sample (R324-R326) -/

section
variable (s : State) (i : Nat) (v : Sample)

/-- The samples in a row with the condition and without it. -/
def sampleHits : Nat := if sampleCond s i v then (sget Filter.reset s.aon.filters i).hits + 1 else 0
def sampleMisses : Nat := if sampleCond s i v then 0 else (sget Filter.reset s.aon.filters i).misses + 1

/-- A source that has tripped holds until FILTER samples without its condition. -/
abbrev SampleHeld : Prop := (sget Filter.reset s.aon.filters i).trippd = true ∧ ¬tcrFilter s i ≤ sampleMisses s i v

/-- The sample trips its source. -/
abbrev SampleFires : Prop := filterOf s i ≤ sampleHits s i v ∧ ¬SampleHeld s i v ∧ armed s i = true

/-- The source's filter after the sample. -/
def sampledFilter (tripped : Bool) : Filter :=
  { hits := sampleHits s i v, misses := sampleMisses s i v, trippd := tripped, raw := sampleCond s i v, value := v.value
    next := s.aon.now + sampleGap s i, driven := (sget Filter.reset s.aon.filters i).driven + 1 }

/-- The state after the sample, before a trip. -/
def sampled (tripped : Bool) : State :=
  { s with
    power := senseStep s.power i v
    aon := { s.aon with filters := sput .reset s.aon.filters i (sampledFilter s i v tripped) } }

theorem senseStep_main (p : Power) : (senseStep p i v).main = p.main := by
  unfold senseStep
  (repeat' split) <;> rfl

/-- A trip on main power waits for the end of its round (R327). -/
theorem trip_main (h : s.power.main = true) (is : List Nat) : trip s is =
    { s with aon := { s.aon with due := is.foldl (fun v i => setBit v i true) s.aon.due } } := if_pos h

theorem trip_cell (h : s.power.main = false) : trip s [i] = batteryTrip s i := if_neg (by simp [h])

/-- A trip on the backup cell erases ROOT_KEY if its set says so (R331). -/
theorem batteryTrip_root : (bit (tcrResp s i) rEraseRoot = true → NoRoot (batteryTrip s i))
    ∧ (bit (tcrResp s i) rEraseRoot = false → (batteryTrip s i).aon.rootValid = s.aon.rootValid
      ∧ (batteryTrip s i).aon.rootKey = s.aon.rootKey) := by
  constructor <;> intro hr <;> simp only [batteryTrip, hr, if_true, Bool.false_eq_true, if_false] <;>
    split <;> exact ⟨rfl, rfl⟩

/-- A trip with LOG has its entry. -/
theorem batteryTrip_log (hr : bit (tcrResp s i) rLog = true) :
    ∃ e, sget none (batteryTrip s i).aon.log s.aon.logNext = some e ∧ e.source = BitVec.ofNat 8 i := by
  have hgo : ∀ t : State, t.aon.logNext = s.aon.logNext → ∀ resp flags info,
      ∃ e, sget none (logEvent t i resp flags info).aon.log s.aon.logNext = some e ∧ e.source = BitVec.ofNat 8 i := by
    intro t ht resp flags info
    obtain ⟨e, he, hsrc, -⟩ := logEvent_entry t i resp flags info
    exact ⟨e, ht ▸ he, hsrc⟩
  simp only [batteryTrip, hr, if_true]
  refine hgo _ ?_ ..
  split <;> rfl

/-- A sample while no self-test runs. -/
theorem takeSample_eq (h : s.aon.test = none) : takeSample s i v =
    if SampleFires s i v then trip (sampled s i v true) [i] else sampled s i v (decide (SampleHeld s i v)) := by
  have hstim : stimulus s i = false := by simp [stimulus, h]
  have htest : underTest s i = false := by simp [underTest, h]
  have hheld : ((sget Filter.reset s.aon.filters i).trippd && !decide (tcrFilter s i ≤ sampleMisses s i v)) =
      decide (SampleHeld s i v) := by
    rw [Bool.eq_iff_iff]
    simp
  have hfire : (decide (filterOf s i ≤ sampleHits s i v) && !decide (SampleHeld s i v) && armed s i) =
      decide (SampleFires s i v) := by
    rw [Bool.eq_iff_iff]
    simp [and_assoc]
  have hhits : (if sampleCond s i v then (sget Filter.reset s.aon.filters i).hits + 1 else 0) = sampleHits s i v := rfl
  have hmisses : (if sampleCond s i v then 0 else (sget Filter.reset s.aon.filters i).misses + 1) = sampleMisses s i v := rfl
  simp only [takeSample, filterStep, hstim, htest, Bool.or_false, Bool.and_false, Bool.not_false, Bool.and_true,
    Bool.false_eq_true, if_false, hhits, hmisses, hheld, hfire, decide_eq_true_eq]
  by_cases hf : SampleFires s i v
  · rw [if_pos hf, if_pos hf, decide_eq_true hf, Bool.or_true]
    rfl
  · rw [if_neg hf, if_neg hf, decide_eq_false hf, Bool.or_false]
    rfl

end

/-- With no source due TAMP_TRIPPED's set of the round is empty. -/
theorem due_of_none {s : State} (h : dueSources s = []) : s.aon.due = 0 := by
  refine BitVec.eq_of_getLsbD_eq fun i hi => ?_
  have hno : i ∉ dueSources s := by simp [h]
  rw [mem_dueSources, not_and, Bool.not_eq_true] at hno
  exact (hno hi).trans (by simp)

section
variable {s : State} {src : Fin 28} {v : Sample}

theorem execMonitorSample_takes (hup : s.power.main = true ∨ s.power.cell = true) (h24 : src.val < 24)
    (hdue : src.val = 6 ∨ src.val = 7 ∨ (sget Filter.reset s.aon.filters src.val).next ≤ s.aon.now) :
    execMonitorSample src v s = .next (takeSample s src.val v) := by
  have hon : aonUp s = true := by simpa [aonUp] using hup
  simp [execMonitorSample, hon, h24, hdue, or_assoc]

end

/-- Settles O43: the filter's step by cases of whether the sample fires; at the end of a round the union's responses, each of
which leaves what the ones before it have done. -/
theorem monitorsTrip : Obligations.MonitorsTrip := by
  unfold Obligations.MonitorsTrip
  refine ⟨?sample, ?turn⟩
  case sample =>
    intro src v s i c n f hits misses held fires f1 r hup h24 htest hdue
    have hexec := (execMonitorSample_takes hup h24 hdue).trans (congrArg _ (takeSample_eq s src.val v htest))
    refine ⟨fun hf => ?quiet, fun hf hm => ?main, fun hf hm => ?cell⟩
    case quiet => exact hexec.trans (congrArg _ (if_neg hf))
    case main =>
      have hon : (sampled s src.val v true).power.main = true := (senseStep_main src.val v s.power).trans hm
      exact hexec.trans (congrArg _ ((if_pos hf).trans (trip_main _ hon _)))
    case cell =>
      have hon : (sampled s src.val v true).power.main = false := (senseStep_main src.val v s.power).trans hm
      have hless := batteryTrip_tripless (sampled s src.val v true) src.val
      obtain ⟨htripped, hpending⟩ := batteryTrip_marks (sampled s src.val v true) src.val
      obtain ⟨hroot, hkept⟩ := batteryTrip_root (sampled s src.val v true) src.val
      have h28 : src.val < 28 := src.isLt
      refine ⟨_, hexec.trans (congrArg _ ((if_pos hf).trans (trip_cell _ _ hon))), ?_, ?_, ?_, fun h => (hroot h).symm, hkept,
        batteryTrip_log (sampled s src.val v true) src.val, ?_, ?_⟩
      · rw [htripped]
        exact bit_setBit_self _ _ h28
      · have hfilters : (batteryTrip (sampled s src.val v true) src.val).aon.filters = _ := (congrArg (·.aon.filters) hless :)
        rw [hfilters]
        exact sget_sput_self ..
      · rw [hpending]
        exact bit_setBit_self _ _ h28
      · exact (congrArg State.keys hless :)
      · exact (congrArg (·.aon.freeze) hless :)
  case turn =>
    intro s is r t
    have hr (k : Nat) : r k ↔ bit (dueSet s) k = true := (bit_unionSet s k _).symm
    by_cases he : is = []
    · have hnone (i : Nat) : i ∉ is := by simp [he]
      have hno (k : Nat) : ¬r k := fun ⟨i, hi, _⟩ => hnone i hi
      have hzero := due_of_none he
      have hs : t = s := tripTurn_of_none_due hzero
      rw [hs]
      exact ⟨fun _ => rfl, hzero, fun i hi => absurd hi (hnone i), fun h => absurd h (hno _), fun _ _ => ⟨rfl, rfl⟩,
        fun h => absurd h (hno _), fun h => absurd h (not_or.2 ⟨hno _, hno _⟩), fun h => absurd h (hno _),
        fun h => absurd h (hno _), fun h => absurd h (hno _), fun h => absurd h (hno _)⟩
    · obtain ⟨hdue, htrip, hroot, hkept, hvol, hfreeze, hlatch, hnext⟩ := responded_spec s
      have ht : t = _ := tripTurn_eq s he
      obtain ⟨hk, hd, hdue', htrip', hlatch', hfreeze', hkey', hvalid'⟩ :=
        unreported_parts (reportedBy_unreported (responded s) (dueSet s) (log := tripLog s) (logEach_logless _))
      simp only [ht, hr, hk, hd, hdue', htrip', hlatch', hfreeze', hkey', hvalid']
      refine ⟨fun h => absurd h he, hdue, htrip, fun h => (hroot h).symm, hkept, hvol, fun h => hfreeze h, hlatch,
        reportedBy_resets _, reportedBy_raises _, fun hlog hnot k hk hn => ?_⟩
      rw [← hnext hnot] at hn
      rw [reportedBy_log _ hlog, ← hnext hnot]
      have hlen : is.length ≤ 28 := (List.length_filter_le ..).trans (by simp)
      exact logEach_entry _ _ k hk hn (by omega)

end Sys2Proof.Machine
end

section
/-!
PROOFS. Error correction and the debug master: the write-back of a corrected word, the leak of the buckets, and bursts.
-/
namespace Sys2Proof.Machine

/-! ## Write-backs and leaks (R310, R314) -/

section
variable {s : State}

/-- A corrected word written back is a whole word (R310). -/
theorem eccWriteBack_writes {mem word : Nat} (h : sget false s.prot.fix (wkey mem word) = true) :
    let k := wkey mem word
    ∃ t, execEccWriteBack mem word s = .next t ∧ sget false t.prot.fix k = false
      ∧ sget none t.prot.bad k = (if sget none s.prot.bad k = some true then some true else none)
      ∧ sget false t.prot.written k = true
      ∧ (∀ j, j ≠ k → sget false t.prot.fix j = sget false s.prot.fix j ∧ sget none t.prot.bad j = sget none s.prot.bad j
        ∧ sget false t.prot.written j = sget false s.prot.written j)
      ∧ { t with prot := s.prot } = s := by
  intro k
  refine ⟨_, if_pos h, sget_sput_self false s.prot.fix k false, ?_, sget_sput_self false s.prot.written k true,
    fun j hj => ⟨sget_sput_ne false s.prot.fix false hj, ?_, sget_sput_ne false s.prot.written true hj⟩, rfl⟩
  · change sget none (if _ then _ else _) k = _
    rcases hb : sget none s.prot.bad k with _ | _ | _ <;> simp [k, hb]
  · change sget none (if _ then _ else _) j = _
    split
    · exact sget_sput_ne _ _ _ hj
    · rfl

/-- The buckets in a round in which they leak. -/
def leaked (m : SMap Nat) : SMap Nat := (m.map fun e => (e.1, e.2 - 1)).filter fun e => decide (e.2 ≠ 0)

theorem sget_of_no_key {α : Type} (d : α) {m : SMap α} {k : Nat} (h : ∀ e ∈ m, e.1 ≠ k) : sget d m k = d := by
  by_contra hne
  exact h _ (mem_of_sget_ne hne) rfl

/-- A canonical table's first entry is the only one of its key, so it may be left out at zero. -/
theorem sget_leaked {m : SMap Nat} (h : swf 0 m = true) (k : Nat) : sget 0 (leaked m) k = sget 0 m k - 1 := by
  have hsorted := ((swf_iff 0 m).1 h).2
  clear h
  induction m with
  | nil => rfl
  | cons e m ih =>
    obtain ⟨a, v⟩ := e
    obtain ⟨hlt, hrest⟩ := List.pairwise_cons.1 hsorted
    have hcons : leaked ((a, v) :: m) = if v - 1 ≠ 0 then (a, v - 1) :: leaked m else leaked m := by
      simp only [leaked, List.map_cons, List.filter_cons, decide_eq_true_eq]
    by_cases hk : a = k
    · subst hk
      have hnone : sget 0 m a = 0 := sget_of_no_key 0 fun e he => (Nat.ne_of_lt (hlt e he)).symm
      rw [hcons]
      split
      · simp [sget]
      next hz =>
        rw [ih hrest, hnone]
        simp [sget]
        omega
    · have hskip : ∀ w (l : SMap Nat), sget 0 ((a, w) :: l) k = sget 0 l k := fun w l => by simp [sget, hk]
      rw [hcons, hskip, ← ih hrest]
      split
      · rw [hskip]
      · rfl

/-- When the buckets leak (R314). -/
theorem execLeakDecrement_eq : execLeakDecrement s =
    if s.power.st = .run ∧ s.power.clock = true ∧ s.power.stbyAt = none ∧ s.prot.leakPer.at_ s.round ≠ 0
      ∧ s.round % s.prot.leakPer.at_ s.round = 0 ∧ s.prot.leakAt ≠ some s.round then
      .next { s with prot := { s.prot with bucket := leaked s.prot.bucket, leakAt := some s.round } }
    else .next s := by
  refine if_congr ?_ rfl rfl
  cases hst : s.power.st <;> simp [running, standbyHold, hst, and_assoc]

end

/-! ## Bursts of the debug master (R312) -/

section
variable {s : State} {addr len : Nat}

/-- The debug master may access. -/
def DebugOpen (s : State) (len : Nat) : Prop := debugOn s = true ∧ running s = true ∧ 0 < len ∧ len ≤ 256

theorem execDebugAccess_closed (h : ¬DebugOpen s len) (d : Option Bytes) : execDebugAccess addr len d s = .next s := by
  refine if_pos ?_
  simp only [DebugOpen, not_and_or, Bool.not_eq_true, Nat.pos_iff_ne_zero, not_le, ne_eq, not_not] at h
  simpa [or_assoc] using h

theorem execDebugAccess_open (h : DebugOpen s len) (d : Option Bytes) : execDebugAccess addr len d s =
    if (List.range len).any fun i => debugBad s d.isSome (addr + i) then .next (debugRefused s addr len)
    else
      let ks := match d with
        | some _ => partKeys addr len
        | none => wkeys addr len
      if anyBad s ks then .next { touchWords s ks with answer := .error }
      else match d with
        | none => .next ((List.range len).foldl (fun t i => debugTouch t (addr + i))
            { touchWords s ks with answer := .bytes ((List.range len).map fun i => debugByte s (addr + i)) })
        | some b => .next ((List.range len).foldl (fun t i => debugPut t (addr + i) (byteAt b i))
            { touchWords s ks with answer := .none }) := by
  obtain ⟨hon, hrun, hpos, hmax⟩ := h
  refine if_neg ?_
  simp [hon, hrun]
  omega

/-- A trip changes the always-on domain alone. -/
theorem trip_aonOnly (s : State) (is : List Nat) : { trip s is with aon := s.aon } = s := by
  unfold trip
  split
  · rfl
  · exact congrArg (fun t : State => { t with aon := s.aon }) (foldl_batteryTrip_tripless s is)

/-- An alarm too. -/
theorem alarms_aonOnly (s : State) (is : List Nat) : { alarms s is with aon := s.aon } = s :=
  congrArg (fun t : State => { t with aon := s.aon }) (trip_aonOnly { s with aon := { s.aon with filters := _ } } _)

theorem bucketUp_debugCnt (s : State) (mem v : Nat) : (bucketUp s mem v).prot.debugCnt = s.prot.debugCnt := by
  unfold bucketUp
  dsimp only
  (repeat' split) <;> simp

theorem touchTags_debugCnt (s : State) (gs : List Nat) : (touchTags s gs).prot.debugCnt = s.prot.debugCnt := by
  refine foldl_same (·.prot.debugCnt) _ (fun t g => ?_) gs s
  split
  · exact bucketUp_debugCnt ..
  · rfl

/-- A refused burst: an error, and one more count (R312). -/
theorem debugRefused_spec : let t := debugRefused s addr len
    t.answer = .error ∧ t.prot.debugCnt = satAdd s.prot.debugCnt 1 ∧ t.prot.suitCnt = s.prot.suitCnt ∧ t.mem = s.mem := by
  unfold debugRefused
  extract_lets p0 s1 s2 t
  have hs2 : s2.answer = s1.answer ∧ s2.prot.debugCnt = s1.prot.debugCnt ∧ s2.prot.suitCnt = s1.prot.suitCnt
      ∧ s2.mem = s1.mem := by
    unfold s2
    split <;> exact ⟨rfl, rfl, rfl, rfl⟩
  obtain ⟨hans, hdbg, hsuit, hmem⟩ := hs2
  have he := alarms_aonOnly (touchTags s2 (debugGrans addr len)) [25]
  exact ⟨(congrArg State.answer he :).trans ((touchTags_answer ..).trans hans),
    (congrArg (·.prot.debugCnt) he :).trans ((touchTags_debugCnt ..).trans hdbg),
    (congrArg (·.prot.suitCnt) he :).trans ((touchTags_suitCnt ..).trans hsuit),
    (congrArg State.mem he :).trans ((touchTags_mem ..).trans hmem)⟩

theorem any_debugBad {w : Bool} (h : ∀ i, i < len → debugBad s w (addr + i) = false) :
    ((List.range len).any fun i => debugBad s w (addr + i)) = false := by
  simpa using h

/-! ### Reads -/

/-- A byte read clears of a register no more than it reads (R9). -/
theorem keepRc_answer (t : State) (f : Func) (off : Nat) (m : Word) : (keepRc t f off m).answer = t.answer := by
  simp only [keepRc, apply_ite State.answer, ite_self]

theorem debugTouch_answer (t : State) (a : Nat) : (debugTouch t a).answer = t.answer := by
  unfold debugTouch
  split
  · exact foldl_same State.answer _ (fun u i => keepRc_answer ..) _ _
  · rfl

theorem debugTouch_notBar {a : Nat} (h : ∀ off, housePlace a ≠ .bar off) (t : State) : debugTouch t a = t := by
  unfold debugTouch
  split
  next off he => exact absurd he (h off)
  · rfl

/-- A read of bytes that may be read. -/
theorem execDebugAccess_reads (h : DebugOpen s len) (hok : ∀ i, i < len → debugBad s false (addr + i) = false)
    (hgood : ∀ k ∈ wkeys addr len, sget none s.prot.bad k = none) : execDebugAccess addr len none s =
    .next ((List.range len).foldl (fun t i => debugTouch t (addr + i))
      { s with answer := .bytes ((List.range len).map fun i => debugByte s (addr + i)) }) := by
  rw [execDebugAccess_open h]
  simp only [Option.isSome_none, any_debugBad hok, anyBad_sound s _ hgood, touchWords_sound s _ hgood, Bool.false_eq_true,
    if_false]

/-- Bytes of BAR0 (R389). -/
theorem housePlace_bar {off : Nat} (h : off < 0x2000000) : housePlace (0x0100000000 + off) = .bar off := by
  have h1 : ¬0x0100000000 + off < 0xA000 := by omega
  have h2 : 0x0100000000 ≤ 0x0100000000 + off ∧ 0x0100000000 + off < 0x0102000000 := by omega
  simp only [housePlace, h1, h2, if_true, if_false, and_self, Nat.add_sub_cancel_left]

theorem debugBad_bar {off : Nat} (h : off < 0x2000000) (w : Bool) :
    debugBad s w (0x0100000000 + off) = (off / 0x10000 == 0x0B || houseOnly off) := by
  rw [debugBad, housePlace_bar h]

/-- PROT_RETAG and the region arrays are house firmware's alone (R318). -/
theorem houseOnly_retag {i : Nat} (h : i < 4) : houseOnly (0xD0100 + i) = true := by
  have hword : (0xD0100 + i) / 4 * 4 = 0xD0100 := by omega
  simp [houseOnly, hword]

theorem houseOnly_regions {i : Nat} (h : i < 16512) : houseOnly (0xD4000 + i) = true := by
  have hin : 0xD4000 ≤ 0xD4000 + i ∧ 0xD4000 + i < 0xD4000 + 4 * 4128 := by omega
  simp [houseOnly, inArray, hin]

/-! ### The counters that a read clears -/

theorem rcWord_keepRc {off : Nat} (h : off ∈ rcOffsets) (t : State) (m : Word) :
    rcWord (keepRc t func0 off m) func0 off = rcWord t func0 off &&& m := by
  simp only [rcOffsets, List.mem_cons, List.not_mem_nil, or_false] at h
  rcases h with rfl | rfl | rfl | rfl | rfl | rfl | rfl | rfl | rfl | rfl | rfl | rfl | rfl | rfl <;>
    simp [keepRc, rcWord, isPf, func0]

/-- The bits of a word without its byte i. -/
def offByte (i : Nat) : Word := ~~~(mkWord (255 * 2 ^ (8 * i)))

theorem and_offBytes (v : Word) : v &&& offByte 0 &&& offByte 1 &&& offByte 2 &&& offByte 3 = 0 := by
  have hall : offByte 0 &&& offByte 1 &&& offByte 2 &&& offByte 3 = 0 := by decide
  simp only [BitVec.and_assoc] at hall ⊢
  rw [hall]
  exact BitVec.and_zero

/-- The place of byte i of a word that may be cleared. -/
theorem rcOffsets_place {off i : Nat} (h : off ∈ rcOffsets) (hi : i < 4) :
    housePlace (0x0100000000 + off + i) = .bar (off + i) ∧ (off + i) / 4 * 4 = off ∧ (off + i) % 4 = i := by
  obtain ⟨-, -, h4⟩ := rcOffsets_single off h
  have hmax : ∀ o ∈ rcOffsets, o < 0x120000 := by decide
  have hlt := hmax off h
  rw [Nat.add_assoc, housePlace_bar (by omega)]
  exact ⟨rfl, by omega, by omega⟩

theorem debugTouch_rc {off i : Nat} (h : off ∈ rcOffsets) (hi : i < 4) (t : State) :
    debugTouch t (0x0100000000 + off + i) = keepRc t func0 off (offByte i) := by
  obtain ⟨hplace, hword, hbyte⟩ := rcOffsets_place h hi
  simp only [debugTouch, hplace, barTouch, List.range_one, List.foldl_cons, List.foldl_nil, Nat.add_zero, hword, hbyte]
  rfl

/-- Reading its four bytes leaves such a counter at zero. -/
theorem rcWord_debugTouch {off : Nat} (h : off ∈ rcOffsets) (t : State) :
    rcWord ((List.range 4).foldl (fun t i => debugTouch t (0x0100000000 + off + i)) t) func0 off = 0 := by
  have hrange : List.range 4 = [0, 1, 2, 3] := by decide
  rw [hrange]
  simp only [List.foldl_cons, List.foldl_nil]
  rw [debugTouch_rc h (by decide), debugTouch_rc h (by decide), debugTouch_rc h (by decide), debugTouch_rc h (by decide),
    rcWord_keepRc h, rcWord_keepRc h, rcWord_keepRc h, rcWord_keepRc h, and_offBytes]

theorem barPeek_rc {off : Nat} (h : off ∈ rcOffsets) : barPeek s off = (regView s func0 off).1 := by
  have hplain : ∀ o ∈ rcOffsets, o ≠ 0xD0100 ∧ inArray o 0xD4000 4128 = none := by decide
  obtain ⟨hne, hin⟩ := hplain off h
  simp only [barPeek, hne, hin, if_false]

theorem debugByte_rc {off i : Nat} (h : off ∈ rcOffsets) (hi : i < 4) :
    debugByte s (0x0100000000 + off + i) = BitVec.ofNat 8 (fld (regView s func0 off).1 (8 * i + 7) (8 * i)) := by
  obtain ⟨hplace, hword, hbyte⟩ := rcOffsets_place h hi
  simp only [debugByte, hplace, barBytes, List.range_one, List.map_cons, List.headD_cons, Nat.add_zero, hword, hbyte,
    barPeek_rc h]

/-- The four bytes of a word. -/
theorem fld_bytes (v : Word) :
    ((List.range 4).map fun i => BitVec.ofNat 8 (fld v (8 * i + 7) (8 * i))) = natLe 4 v.toNat := by
  have hrange : List.range 4 = [0, 1, 2, 3] := by decide
  have hmod (n : Nat) : BitVec.ofNat 8 (n % 256) = BitVec.ofNat 8 n := by
    apply BitVec.eq_of_toNat_eq
    simp
  simp [hrange, fld, bits, natLe, hmod, Nat.div_div_eq_div_mul]

/-! ### Writes -/

theorem mem_partKeys {k : Nat} (h : k ∈ partKeys addr len) : k ∈ wkeys addr len := by
  simp only [partKeys, List.mem_filterMap] at h
  obtain ⟨p, hp, hk⟩ := h
  split at hk
  · cases hk
    exact List.fst_mem_of_mem_zipIdx hp
  · cases hk

/-- One store of a byte after another reads as one store of them all. -/
theorem rd_storeBytes (s : State) (addr : Nat) (b : Bytes) (n x : Nat) :
    rd ((List.range n).foldl (fun t i => store t (addr + i) [byteAt b i]) s) x =
      if addr ≤ x ∧ x < addr + n then byteAt b (x - addr) else rd s x := by
  induction n with
  | zero =>
    have hno : ¬(addr ≤ x ∧ x < addr + 0) := by omega
    rw [if_neg hno]
    rfl
  | succ n ih =>
    rw [List.range_succ, List.foldl_append, List.foldl_cons, List.foldl_nil, rd_store, ih, List.length_singleton]
    by_cases hx : x = addr + n
    · subst hx
      simp
    · have hhere : ¬(addr + n ≤ x ∧ x < addr + n + 1) := by omega
      have hbelow : (addr ≤ x ∧ x < addr + n) ↔ (addr ≤ x ∧ x < addr + (n + 1)) := by omega
      simp only [hhere, hbelow, if_false]

/-- What no store changes. -/
theorem storeBytes_same {β : Type} (p : State → β) (hp : ∀ t a b, p (store t a b) = p t) (s : State) (addr : Nat) (b : Bytes)
    (n : Nat) : p ((List.range n).foldl (fun t i => store t (addr + i) [byteAt b i]) s) = p s :=
  foldl_same p _ (fun _ _ => hp _ _ _) _ _

/-- A write of bytes of memory that may be written. -/
theorem execDebugAccess_writes {b : Bytes} (h : DebugOpen s len)
    (hok : ∀ i, i < len → debugBad s true (addr + i) = false ∧ housePlace (addr + i) = .cell (addr + i))
    (hgood : ∀ k ∈ wkeys addr len, sget none s.prot.bad k = none) : execDebugAccess addr len (some b) s =
    .next ((List.range len).foldl (fun t i => store t (addr + i) [byteAt b i]) { s with answer := .none }) := by
  have hgood' : ∀ k ∈ partKeys addr len, sget none s.prot.bad k = none := fun k hk => hgood k (mem_partKeys hk)
  have hput (t : State) : (List.range len).foldl (fun t i => debugPut t (addr + i) (byteAt b i)) t =
      (List.range len).foldl (fun t i => store t (addr + i) [byteAt b i]) t := by
    refine List.foldl_ext _ _ _ fun u i hi => ?_
    simp only [debugPut, (hok i (List.mem_range.1 hi)).2]
  rw [execDebugAccess_open h]
  simp only [Option.isSome_some, any_debugBad fun i hi => (hok i hi).1, anyBad_sound s _ hgood', touchWords_sound s _ hgood',
    Bool.false_eq_true, if_false, hput]

end

/-- Settles O49: what the debug master does by the places of the bytes it names. -/
theorem memoryIntegrity : Obligations.MemoryIntegrity := by
  unfold Obligations.MemoryIntegrity
  intro s mem word addr len data k p due open_
  refine ⟨eccWriteBack_writes, fun h => if_neg (ne_true_of_eq_false h), fun hb hd => ?leak, fun hd => ?still,
    fun ho hbad => ?refused, fun ho hok hgood => ⟨?reads, fun hbar => ?plain, fun q hq ha hl => ?clears⟩, fun i w hi => ?retag,
    fun i w hi => ?regions, fun ho hok hgood hlen => ?writes, fun ho d => execDebugAccess_closed ho d⟩
  case leak => exact ⟨_, execLeakDecrement_eq.trans (if_pos hd), fun m => sget_leaked hb m, rfl, rfl⟩
  case still => exact execLeakDecrement_eq.trans (if_neg hd)
  case refused =>
    have hany : ((List.range len).any fun i => debugBad s false (addr + i)) = true := by simpa using hbad
    exact ⟨_, (execDebugAccess_open ho none).trans (if_pos hany), debugRefused_spec⟩
  case reads => exact ⟨_, execDebugAccess_reads ho hok hgood, foldl_same State.answer _ (fun t i => debugTouch_answer ..) _ _⟩
  case plain =>
    refine (execDebugAccess_reads ho hok hgood).trans (congrArg _ ?_)
    exact foldl_same_of_mem id _ _ (fun i hi => debugTouch_notBar fun off => hbar i off (List.mem_range.1 hi)) _
  case clears =>
    obtain ⟨-, hm⟩ := exec_clearedByRead (s := s) hq
    subst ha hl
    have hbytes : ((List.range 4).map fun i => debugByte s (0x0100000000 + q.2 + i)) =
        natLe 4 (regView s func0 q.2).1.toNat := by
      rw [← fld_bytes]
      exact List.map_congr_left fun i hi => debugByte_rc hm (List.mem_range.1 hi)
    refine ⟨_, execDebugAccess_reads ho hok hgood, ?_, ?_⟩
    · rw [← hbytes]
      exact foldl_same State.answer _ (fun t i => debugTouch_answer ..) _ _
    · rw [regView_rc_seen hm (.inl (by decide))]
      exact rcWord_debugTouch hm _
  case retag =>
    rw [Nat.add_assoc, debugBad_bar (by omega), houseOnly_retag hi, Bool.or_true]
  case regions =>
    rw [Nat.add_assoc, debugBad_bar (by omega), houseOnly_regions hi, Bool.or_true]
  case writes =>
    subst hlen
    refine ⟨_, execDebugAccess_writes ho hok hgood, fun a => ?_, storeBytes_same (·.prot.tags) (fun _ _ _ => rfl) ..,
      storeBytes_same State.answer (fun _ _ _ => rfl) ..,
      storeBytes_same (fun t => { t with mem := s.mem, prot := p, answer := s.answer }) (fun _ _ _ => rfl) ..⟩
    rw [rd_storeBytes, rd_store]
    rfl

end Sys2Proof.Machine
end
